-- ==== Sys2Proof/Word.lean ====
section
/-! DEFINITION. The word types of the machine and their plainest arithmetic. -/

namespace Sys2Proof

/-- A scalar register or a 64-bit memory word. -/
abbrev Word := BitVec 64

/-- A byte of a slice or of device memory. -/
abbrev Byte := BitVec 8

/-- A vector register: 256 bits, lane 0 lowest (05 R124). -/
abbrev Vec := BitVec 256

/-- A register field of an encoding (01 R31). -/
abbrev Reg := BitVec 5

/-- A byte address of the model's one memory: an SRAM byte at its global form of R188, a device byte at its
52-bit device-physical address (17 R394). -/
abbrev Addr := Nat

end Sys2Proof
end

