-- ==== Sys2Proof/Config.lean ====
section
/-! DEFINITION. What an implementation fixes and the manual does not give: free values and the cryptographic
functions that the manual names by standard only, each a constant with no body. -/

namespace Sys2Proof.Config

/-- A value the manual calls undefined (00 R10) or whose choice it leaves open (09 R221). Applied to
`State.fresh`, which each use advances. Log entry 1. -/
opaque freeValue : Nat → Word

/-- The stack slice that holds a block of 1 KiB of HBM: the manual places no block (00 R4, 08 R215). Log entry 46. -/
opaque stackOf : Nat → Fin 40

/-- SHA-384 of a byte sequence (21 R491, 16 R375). Log entry 9. -/
opaque sha384 : List Byte → BitVec 384

/-- The sections of an image as it lies in memory, origin and bytes: the manual gives no format (03 R93, 16 R375). Log
entry 10. -/
opaque imageSections : List Byte → List (Nat × List Byte)

/-- The 64-byte header of a checkpoint object with its step, group, index, length in lines and digest: the manual gives no
layout (21 R493). Log entry 10. -/
opaque objectHeader : Word → Nat → Nat → Nat → BitVec 384 → Vector Byte 64

/-- The bytes of a manifest with its step, its stand and, for each entry of the shard table, the object's offset, digest and
REFS: the manual gives no layout (21 R493). Log entry 10. -/
opaque manifestBytes : Word → Nat → List (Nat × BitVec 384 × Nat) → List Byte

/-- Entries that the audit log holds (21 R497). Log entry 10. -/
opaque auditCapacity : Nat

/-- NIST SP 800-38F unwrap under the module's key-encryption key, which the manual gives nowhere: a key pair, or
none when the integrity check fails (17 R406). Log entry 9. -/
opaque keyUnwrap : List Byte → Option (BitVec 512)

/-- ECDSA P-384 signature of a digest under the module's key (21 R497). Log entry 9. -/
opaque ecdsaSign : BitVec 384 → List Byte

/-- HSS/LMS signature of bytes with the n-th remaining signature (21 R497). Log entry 9. -/
opaque hssSign : Nat → BitVec 384 → List Byte

/-- Does an AES-256-GCM tag verify, for a stand's link secret, a port, its key epoch, its packet counter and the packet
(18 R416)? Log entry 9. -/
opaque gcmVerify : BitVec 128 → Nat → Nat → Nat → List Byte → Bool

/-- The spreading hash of (source module, destination module, stand) over the ports of a mask (18 R417).
Log entry 9. -/
opaque portHash : Nat → Nat → Nat → Nat

end Sys2Proof.Config
end

