-- ==== Sys2Proof/Syntax.lean ====
section
/-! DEFINITION. The instruction syntax: one constructor for each row of the opcode table. Rows that are heads of an
instruction line carry the fields of their encoding (03 R71 to R76); rows that are events of the machine carry what
the event brings. -/

namespace Sys2Proof

/-- The counter fields of a put/get head (08 R208). -/
structure PgCtr where
  rltn : BitVec 12
  rcore : BitVec 4
  rk : BitVec 4
  lk : BitVec 4
  cm : BitVec 2
deriving DecidableEq, Repr

/-- The operations of the atomic unit (08 R200, R201). -/
inductive AtomOp where
  | add | and | or | xor | min | max | swap | cas
deriving DecidableEq, Repr

/-- What a packet of the request network asks of its home core (08 R196, R200 to R202, R210; 12 R516).
Sizes are in bytes. -/
inductive ReqKind where
  | load (bytes : Nat)
  | store (bytes : Nat)
  /-- A `STV`: eight 32-bit lanes, those of the mask stored. -/
  | storeVec (mask : BitVec 8)
  | atom (op : AtomOp) (wide natural : Bool)
  /-- One 32-byte unit of `RADD.F32` (false) or `RADD.B16` (true). -/
  | radd (b16 : Bool)
  | notify
  | count (k : BitVec 4) (err : Byte) (faddr : Word)
deriving DecidableEq, Repr

/-- A packet of the request network. `entry` is the put/get entry it belongs to, if any; `wtag` the tag of the
window its reply ends. -/
structure Req where
  sltn : Nat
  score : Nat
  slot : Nat
  dltn : Nat
  dcore : Nat
  seq : BitVec 32
  kind : ReqKind
  off : BitVec 22
  data : List Word
  cmp : Word
  poison : Bool
  entry : Option Nat
  wtag : Nat
deriving DecidableEq, Repr

/-- A packet of the reply network, with the fields of its control word (20 R463). `msgNet` tells which network the
answered packet travelled on, `peer` the tile at the other end of its channel. -/
structure Reply where
  msgNet : Bool
  peer : Nat
  rk : BitVec 4
  wtag : BitVec 4
  dup : Bool
  eseq : BitVec 32
  err : Byte
  data : List Word
  poison : Bool
deriving DecidableEq, Repr

/-- A delta record (13 R312). -/
structure Delta where
  key : Word
  val : Word
  time : Word
  tag : BitVec 32
  diff : BitVec 32
  /-- The record comes from a poisoned line (17 R407). -/
  poison : Bool
deriving DecidableEq, Repr

/-- What a strand that arrives at a core carries (11 R264, R265). `stamp` and `key` belong to a stamped task,
`reload` names the spilled context that a reload brings back (16 R390). -/
structure Arrival where
  pc : BitVec 22
  priv : Bool
  sw : Word
  /-- Register numbers and the values they take. -/
  words : List (Reg × Word)
  /-- Placement writes every register that `words` does not name with zero. -/
  clear : Bool
  /-- Placement names its slot; every other arrival takes the lowest. -/
  slot : Option (Fin 16)
  stamp : Option Word
  reload : Option Nat
  sltn : Nat
  score : Nat
  sslot : Nat
  seq : BitVec 32
deriving DecidableEq, Repr

/-- A `PARK` or `UNPARK` request (16 R384, R387). -/
structure ParkReq where
  sltn : Nat
  score : Nat
  sslot : Fin 16
  d : Reg
  slot : Fin 16
  unpark : Bool
  seq : BitVec 32
  /-- The asking strand, where it is one of this core. -/
  strand : Nat
deriving DecidableEq, Repr

/-- The payload of a packet of the message network (12 R294, 13 R318, 12 R516). -/
inductive Body where
  | message (queue : BitVec 3) (words : List Word)
  | delta (queue : BitVec 4) (records : List Delta)
  | arrival (a : Arrival)
  | setev (q : Fin 4) (mask : Word)
  | park (q : ParkReq)
  /-- A dead-letter notice: the SEQ alone (12 R300). -/
  | notice
deriving DecidableEq, Repr

/-- A packet of the message network. -/
structure Packet where
  sltn : Nat
  score : Nat
  slot : Nat
  dltn : Nat
  dcore : Nat
  seq : BitVec 32
  body : Body
  /-- Which payload words come from poisoned lines (17 R407). -/
  poison : BitVec 64
deriving DecidableEq, Repr

/-- A task entry of a deque, an overflow region or the task table (11 R271). -/
structure TaskEntry where
  task : Bool
  priv : Bool
  sq : BitVec 2
  wq : BitVec 2
  pc : BitVec 22
  wait : Word
  set : Word
  w0 : Word
  w1 : Word
  w2 : Word
  w3 : Word
deriving DecidableEq, Repr

/-- The states of a keyring entry (12 R296). -/
inductive KeyState where
  | absent | unplaced | bound | held | swapped | exited
deriving DecidableEq, Repr

/-- A keyring entry (12 R296). -/
structure KeyEntry where
  st : KeyState
  stand : Nat
  fold : Bool
  srow : Nat
  scol : Nat
deriving DecidableEq, Repr

/-- An arrival at a barrier's combining point (11 R285 to R287). -/
structure BarArrival where
  ltn : Nat
  core : Nat
  slot : Fin 16
  b : BitVec 7
  scope : BitVec 3
  count : BitVec 24
  op : BitVec 3
  v : Word
  /-- The arrival of a strand that ends (R287). -/
  permanent : Bool
  /-- A permanent arrival whose ARRIVED bit was clear is also processed now. -/
  now : Bool
  /-- `BARA` asks for the generation it joined. -/
  answer : Bool
deriving DecidableEq, Repr

/-- Where a launch's FAULT status comes from (16 R378). -/
structure FaultInfo where
  code : BitVec 9
  fpc : BitVec 22
  ltn : Nat
  core : Nat
  slot : Nat
deriving DecidableEq, Repr

/-- The end of a stand's launch: DONE, or FAULT with where it comes from (16 R381). -/
structure LaunchClose where
  stand : Fin 64
  fault : Option FaultInfo
deriving DecidableEq, Repr

/-- A line that an access from outside carries, and whether it carries poison (17 R407; 18 R414, R419). -/
structure OutsideLine where
  data : BitVec 512
  poison : Bool
deriving DecidableEq, Repr

/-- The kinds of tile fault (20 R460, R483). -/
inductive FaultKind where
  | checker | residue | state | ward | watchdog | link | power
deriving DecidableEq, Repr

/-- What the catch keeps for a locked tile (20 R467). -/
inductive CatchItem where
  | reply (r : Reply)
  | unit (core : Nat) (off : BitVec 22) (data : List Byte) (poison : Bool)
  | notify (core : Nat) (off : BitVec 22) (v : Word)
  | count (core : Nat) (k : BitVec 4) (err : Byte) (faddr : Word)
  | release (b : BitVec 7) (gen : BitVec 16) (res : Word)
  | frontier (t : Word)
  | rim (core : Nat) (off : BitVec 22) (data : List Byte)
  /-- The end of a collective (18 R422, R423): its status word, or the step at which it failed. -/
  | collective (slot : Fin 16) (strand : Nat) (lk : BitVec 4) (stw : BitVec 22) (fault : Option Byte)
deriving DecidableEq, Repr

/-- The rows of the opcode table, events first. Each constructor's line names its row, its rule and the row's own
summary. -/
inductive Instr where
  /-- SEED_UPDATE_ARRIVAL (R54). A seed write of another tile arrives as a class-0 update and is applied. -/
  | seedUpdateArrival (hi : Bool) (v : Word)
  /-- HANDLER_STARVED (R175). A handler request waiting 65,536 cc leaves the queue for the supervisor route. -/
  | handlerStarved (slot : Fin 16)
  /-- SUPERVISOR_ROUTE (R184). The rim firmware service receives a frame and emulates, ends strands or ends the launch. -/
  | supervisorRoute (slot : Fin 16)
  /-- ATOMIC_EXECUTE (R201). The home core's atomic unit performs an arrived atomic indivisibly. -/
  | atomicExecute (q : Req)
  /-- RADD_UNIT_ADD (R202). A 32-byte RADD unit is added at its home core's atomic unit. -/
  | raddUnitAdd (q : Req)
  /-- REMOTE_STORE_PERFORM (R222). A remote store arriving at its home slice performs and is acknowledged. -/
  | remoteStorePerform (q : Req)
  /-- REMOTE_LOAD_SERVE (R222). A remote load is read at its home slice and answered on the reply network. -/
  | remoteLoadServe (q : Req)
  /-- REPLY_ARRIVAL (R463). A data, atomic, acknowledgement, error, refusal or redirect reply is consumed and logged. -/
  | replyArrival (r : Reply)
  /-- LONG_RESULT_ARRIVAL (R20). A long result arrives and is held, or ends a waiting WINDOW state. -/
  | longResultArrival (slot : Fin 16) (tag : Nat)
  /-- BANK_WAKE_DONE (R33). A RETAIN bank finishes its 24 cc wake and becomes ACTIVE. -/
  | bankWakeDone (bank : Fin 3)
  /-- PREF_FILL (R205). The rim cache fills the requested sectors or drops the request. -/
  | prefFill (ea : Nat) (x : BitVec 2)
  /-- PUTGET_UNIT (R210). One unit of an entry is translated and moved, or its fault recorded. -/
  | putgetUnit (id unit : Nat)
  /-- PUTGET_ENTRY_COMPLETE (R210). When every unit has performed, the notify write is made and the counters incremented. -/
  | putgetEntryComplete (id : Nat)
  /-- REMOTE_COUNTER_INCREMENT (R214). A counter increment from another tile's entry arrives and is applied. -/
  | remoteCounterIncrement (q : Req)
  /-- TRANSLATION_WALK (R400). The rim controller walks the page tables for a unit and caches the leaf. -/
  | translationWalk (va : Nat)
  /-- ROW_SECTOR_EVICTION (R215). A rim cache sector is evicted, writing back dirty bytes. -/
  | rowSectorEviction (base : Nat)
  /-- TASK_SETTLE (R235). A lowest-key task commits its buffer and runs unbuffered from then on. -/
  | taskSettle (slot : Fin 16)
  /-- TASK_COMMIT (R236). A task's buffered lines perform atomically in key order. -/
  | taskCommit (slot : Fin 16)
  /-- FRONTIER_CHANGE (R238). The class-0 network recomputes the stand's frontier. -/
  | frontierChange
  /-- MATRIX_STEP (R254). An engine step of a live matrix operation on a matrix turn or idle cycle. -/
  | matrixStep (slot : Fin 16)
  /-- GATHER_FETCH (R255). The gather unit fetches an A, B or plane line into an operation's latch. -/
  | gatherFetch
  /-- MATRIX_OP_COMPLETE (R255). The operation completes and the strand returns to READY. -/
  | matrixOpComplete (slot : Fin 16)
  /-- STREAM_STEP (R138). The stream unit performs one 32-byte step of a stream form. -/
  | streamStep
  /-- STREAM_COMPLETE (R138). A stream completes 4 cc after its last step. -/
  | streamComplete
  /-- WINDOW_UNIT_WRITE (R143). The window unit writes an ADDWIN or CLRWIN result to the slice. -/
  | windowUnitWrite (slot : Fin 16) (tag : Nat)
  /-- ARRIVAL_RECEIVE (R265). A SPAWN or MIGRATE arrival enters the target core's arrival queue or is refused. -/
  | arrivalReceive (v : Arrival)
  /-- ARRIVAL_RESEND (R265). A refused arrival is resent 256 cc after its refusal. -/
  | arrivalResend (v : Arrival)
  /-- SLOT_FILL (R265). A core fills its lowest EMPTY slot from the first source with work. -/
  | slotFill
  /-- STEAL_PROBE (R273). An idle core probes the next core's deque for an entry. -/
  | stealProbe (found : Option TaskEntry)
  /-- YIELD_EXPIRY (R280). The 64 cc of a YIELD end and the slot becomes READY. -/
  | yieldExpiry (slot : Fin 16)
  /-- REMOTE_SETEV_ARRIVAL (R275). A remote SETEV arrives and is applied by the event unit. -/
  | remoteSetevArrival (sltn seq : Nat) (q : Fin 4) (mask : Word)
  /-- EVENT_UNIT_CYCLE (R275). Each cycle the event unit applies clears, then sets, then evaluates waits. -/
  | eventUnitCycle
  /-- BARCFG_ANSWER (R284). The combining point's answer to a BARCFG arrives. -/
  | barcfgAnswer (slot : Fin 16) (ok : Bool)
  /-- BARRIER_COMBINE (R286). The combining point processes an arrival and may complete a generation. -/
  | barrierCombine (q : BarArrival)
  /-- BARRIER_RELEASE_WAKE (R288). A release reaches a core and wakes its waiters. -/
  | barrierReleaseWake (b : BitVec 7) (gen : BitVec 16) (res : Word)
  /-- MESSAGE_ACCEPT (R301). A message of the expected SEQ is accepted, bucked or refused. -/
  | messageAccept (m : Packet)
  /-- REDIRECT (R297). A destination router returns a message whose LTN is no longer BOUND. -/
  | redirect (m : Packet)
  /-- RTO_RESEND (R295). An unanswered packet is resent after RTO tile cycles. -/
  | rtoResend (id : Nat)
  /-- REFUSAL_RESEND (R299). A refused packet is resent 256 cc after its refusal. -/
  | refusalResend (id : Nat)
  /-- DEAD_LETTER_NOTICE (R300). A notice advances EXP at the destination on reload or exit. -/
  | deadLetterNotice (sltn seq : Nat)
  /-- MAILBOX_WRITE (R297). A message to a SWAPPED LTN is written to the spill mailbox. -/
  | mailboxWrite (id : Nat)
  /-- BUCKER_BUCK (R302). The bucker strand writes an overflowing message to its heap. -/
  | buckerBuck
  /-- BUCKER_REPLAY (R302). The bucker replays the oldest heap message when its queue has room. -/
  | buckerReplay
  /-- KEYRING_CHANGE_APPLY (R475). A router applies a keyring entry change and sends held packets when BOUND. -/
  | keyringChangeApply (ltn : Nat) (e : KeyEntry)
  /-- DELTA_PACKET_ACCEPT (R318). A delta packet's records enter the queue, or it is refused or errored. -/
  | deltaPacketAccept (m : Packet)
  /-- KNOWN_FRONTIER_UPDATE (R324). A class-0 update of the known frontier reaches the tile. -/
  | knownFrontierUpdate (t : Word)
  /-- WPSET_SWITCH_DONE (R391). 40 cc after WPSET the new workspace is loaded and the issuer wakes. -/
  | wpsetSwitchDone (slot : Fin 16)
  /-- PARK_REQUEST_SERVE (R387). The target core handles a park or unpark request and replies. -/
  | parkRequestServe (q : ParkReq)
  /-- SPILL (R388). The spill engine writes a parked strand's context to the spill area. -/
  | spill (slot : Fin 16)
  /-- RELOAD (R390). A spilled, unparked strand is reloaded as an arrival. -/
  | reload (slot : Fin 16)
  /-- RTSET_APPLY (R398). A tile replaces its range-table copy and drops cached leaves. -/
  | rtsetApply (n : BitVec 6) (e : BitVec 256)
  /-- TLBINV_APPLY (R402). A tile drops the named leaves. -/
  | tlbinvApply (all : Bool) (va : Nat)
  /-- PGATTR_COMPLETE (R405). The conversion ends, the leaf and grade map are written and leaves dropped. -/
  | pgattrComplete (slot : Fin 16)
  /-- BOOST_INTERVAL (R499). At each 10 µs boundary cords are spent, places granted and refills made. -/
  | boostInterval
  /-- LAUNCH_RECORD (R377). The fourth write of a launch slot makes the rim controller check and accept or refuse a record. -/
  | launchRecord (slot : Fin 64)
  /-- LAUNCH_SLOT_WRITE (R413). A host 64-byte write to a launch slot is kept or discarded. -/
  | launchSlotWrite (slot : Fin 64) (off len : Nat) (data : BitVec 512)
  /-- LAUNCH_START (R380). A queued launch whose tiles are free starts and places its strands. -/
  | launchStart (stand : Fin 64)
  /-- LAUNCH_END (R381). A launch ends DONE or FAULT and its keyring entries become EXITED. -/
  | launchEnd (close : LaunchClose)
  /-- SWAP_OUT (R383). A pre-empted tile's image is written to the swap area. -/
  | swapOut
  /-- SWAP_IN (R383). A swapped tile is restored, bound and unparked. -/
  | swapIn
  /-- NOTCH_POINT (R431). A notch point or early notch reached: the tile waits or captures. -/
  | notchPoint
  /-- EARLY_NOTCH (R433). A half 7/8 full or a NOTCH request starts a notch at the next cycle. -/
  | earlyNotch
  /-- NOTCH_CAPTURE (R439). The tile freezes, zeroes exclusions, writes END and switches halves. -/
  | notchCapture
  /-- NOTCH_COPY_LINE (R439). A dirty line of the frozen map is sent to the hinge shadow. -/
  | notchCopyLine
  /-- NOTCH_COMMIT (R439). Once the hinge has acknowledged every entry, the notch becomes the recovery point. -/
  | notchCommit
  /-- SHADOW_FOLD (R442). A committed notch's delta entries are folded into the base image. -/
  | shadowFold
  /-- REBASE (R443). A tile whose hinge changes writes its whole image to its base. -/
  | rebase
  /-- WAIT_EXPIRED (R450). A slot's wait count reaches WDL and the launch ends FAULT. -/
  | waitExpired (slot : Fin 16)
  /-- TILE_WATCHDOG (R451). The progress count reaches WDL and raises a tile fault. -/
  | tileWatchdog
  /-- TILE_FAULT (R460). A detection path reports a tile fault and the tile freezes. -/
  | tileFault (kind : FaultKind) (core fpc : Nat)
  /-- FIELD_POWER_LOSS (R460). A field's power domain is lost, faulting each of its tiles. -/
  | fieldPowerLoss (field : Nat)
  /-- SITE_UNREACHABLE (R460). A site that no link or router can reach raises a LINK fault. -/
  | siteUnreachable (row col : Nat)
  /-- SELECT (R469). Once every router holds HELD, a sapling or a fold host is chosen. -/
  | select
  /-- RESTORE (R470). The recovery-point image is rebuilt on the sapling. -/
  | restore
  /-- REPLAY (R471). The restored tile replays its log to the cycle before the fault. -/
  | replay
  /-- BIND (R465). The new site is written into every router's entry. -/
  | bind
  /-- RELEASE (R476). The entry becomes BOUND and the catch is delivered. -/
  | release
  /-- CATCH_STORE (R467). Traffic for a locked LTN is kept in the catch in arrival order. -/
  | catchStore (c : CatchItem)
  /-- FOLD_TILE (R479). The failed tile is restored and replayed onto a fold host. -/
  | foldTile
  /-- FOLD_RESIDENCY_SWITCH (R479). After 2^17 tile cycles the folded pair swap residency. -/
  | foldResidencySwitch
  /-- RECOVERY_FAIL (R465). The recovery fails and the stand's launch ends FAULT. -/
  | recoveryFail
  /-- HOST_MEM_ACCESS (R414). A host CXL.mem access is checked by the aperture table and served or refused. -/
  | hostMemAccess (w : Bool) (addr : Nat) (data : OutsideLine)
  /-- PEER_ACCESS (R419). A peer access arrives, is checked against the export table and served or refused. -/
  | peerAccess (w : Bool) (src offset : Nat) (data : OutsideLine)
  /-- SCALEOUT_PACKET_RECEIVE (R416). A scale-out packet is authenticated, or discarded as lost on tag failure. -/
  | scaleoutPacketReceive (port : Fin 32) (stand : Fin 64) (src : Nat) (body : List Byte)
  /-- LANE_RETIRE (R415). A repeatedly failing lane is retired and the port runs at four rails with CRC. -/
  | laneRetire (port : Fin 32)
  /-- PORT_REKEY (R416). A port changes its keys before its counter reaches 2^32. -/
  | portRekey (port : Fin 32)
  /-- COLLECTIVE_STEP_RECEIVE (R422). A receiving rank applies a collective step and acknowledges it. -/
  | collectiveStepReceive (tag : Word) (step chunk : Nat) (data : List (BitVec 16))
  /-- COLLECTIVE_STEP_ACK (R422). A step acknowledgement arrives; the next step is sent or the collective ends. -/
  | collectiveStepAck (tag : Word) (step : Nat)
  /-- COLLECTIVE_STEP_TIMEOUT (R423). A step unacknowledged within sys.ctmo is resent or fails the collective. -/
  | collectiveStepTimeout (tag : Word) (step : Nat)
  /-- TIER_EPOCH_END (R409). The hot-page tracker forms swap pairs at an epoch end. -/
  | tierEpochEnd
  /-- TIER_COPY_LINE (R409). A swap pair exchanges one line of its two frames. -/
  | tierCopyLine (pair : Nat)
  /-- TIER_SWITCH (R409). A swap pair rewrites both leaves and drops them from every cache. -/
  | tierSwitch (pair : Nat)
  /-- JOB_CHECKPOINT_SERVICE (R491). The checkpoint service digests and stores the shards, then the manifest. -/
  | jobCheckpointService
  /-- JOB_RESTORE (R494). The management service restores the newest valid checkpoint. -/
  | jobRestore (stand : Fin 64)
  /-- CHANNEL_RETIRE (R488). A failing HBM channel is retired and the privileged region goes FLAT. -/
  | channelRetire (ch : Nat)
  /-- STRIPE_MOVE (R488). One privileged stripe is rebuilt and moved to its new placement. -/
  | stripeMove
  /-- DIE_MAP_OUT (R490). A failing die is announced as a pending map-out. -/
  | dieMapOut
  /-- MAP_OUT_ACK (R490). The management service's acknowledgement lets the rim copy frames and shrink capacity. -/
  | mapOutAck
  /-- FIRMWARE_MEASURE (R495). The boot ROM digests a firmware image before it first runs. -/
  | firmwareMeasure (image : List Byte)
  /-- HINGE_ACKNOWLEDGEMENT (R462). The hinge acknowledges skid-log records, and packets waiting at the tile's router for those records are released. -/
  | hingeAcknowledgement (n : Nat)
  /-- SCALEOUT_PORT_DOWN (R417). A scale-out port goes down, so destinations whose ports are all down make units complete with ERR 0x04 and .P barriers stall. -/
  | scaleoutPortDown (port : Fin 32)
  /-- SCALEOUT_PORT_UP (R420). A scale-out port returns to service, so routes and pod members become reachable again. -/
  | scaleoutPortUp (port : Fin 32)
  /-- HOST_LINK_DOWN (R412). The CXL host link is lost, so far-tier accesses complete with ERR 0x04. -/
  | hostLinkDown
  /-- HOST_LINK_UP (R412). The CXL host link trains again, at full or reduced width, and the far tier becomes reachable. -/
  | hostLinkUp (width : Nat)
  /-- CXL_SNOOP (R412). A host CXL.cache snoop arrives and is answered invalid. -/
  | cxlSnoop (addr : Nat)
  /-- STAND_GRANT_WRITE (R395). The management service writes, changes or clears a stand's grant and installs its link secret. -/
  | standGrantWrite (stand : Fin 64) (hbm : List (Nat × Nat)) (far : List (Nat × Nat)) (secret : BitVec 128)
  /-- HOST_APERTURE_WRITE (R414). The management service writes an entry of the host aperture table. -/
  | hostApertureWrite (n : Fin 64) (w0 w1 : Word)
  /-- PEER_EXPORT_WRITE (R419). The management service writes an entry of the peer export table. -/
  | peerExportWrite (n : Fin 64) (w0 w1 : Word)
  /-- POD_CONFIGURE (R420). The management service configures a stand's pod, its members and its ranks, which sets sys.pod. -/
  | podConfigure (stand : Fin 64) (members : List Nat) (rank : Nat)
  /-- STAND_DELEGATION_WRITE (R373). The management service writes a stand's sys.standdel and sys.keydel masks. -/
  | standDelegationWrite (stand : Fin 64) (stands keys : Word)
  /-- AUDIT_LOG_ACK (R497). The host acknowledges an audit-log entry through the management service, which frees it. -/
  | auditLogAck (n : Nat)
  /-- MODULE_POWER_ON (R371). At power-on the stand table is invalidated, cord accounts start at 4 and the module ID is set at boot. -/
  | modulePowerOn (modid : BitVec 22)
  /-- LINK_RETRY (R415). A packet that fails its CRC on a four-rail link is resent by link-level retry. -/
  | linkRetry (port : Fin 32)
  /-- ADD (R98). Sets d to a + b modulo 2^64 and writes N, Z, C and V. -/
  | add (d a b : Reg)
  /-- SUB (R98). Sets d to a − b modulo 2^64 and writes N, Z, C and V. -/
  | sub (d a b : Reg)
  /-- MUL (R98). Sets d to the low 64 bits of a × b. -/
  | mul (d a b : Reg)
  /-- MULH (R98). Sets d to the high 64 bits of the signed product a × b. -/
  | mulh (d a b : Reg)
  /-- MULHN (R98). Sets d to the high 64 bits of the natural product a × b. -/
  | mulhn (d a b : Reg)
  /-- DIV (R99). Long signed division; the quotient and V are written at the end of the window. -/
  | div (d a b : Reg) (la : BitVec 4)
  /-- DIVN (R99). Long natural division; the quotient and V are written at the end of the window. -/
  | divn (d a b : Reg) (la : BitVec 4)
  /-- REM (R99). Long signed remainder; the remainder and V are written at the end of the window. -/
  | rem (d a b : Reg) (la : BitVec 4)
  /-- REMN (R99). Long natural remainder; the remainder and V are written at the end of the window. -/
  | remn (d a b : Reg) (la : BitVec 4)
  /-- MIN (R98). Sets d to the signed minimum of a and b. -/
  | min (d a b : Reg)
  /-- MAX (R98). Sets d to the signed maximum of a and b. -/
  | max (d a b : Reg)
  /-- MINN (R98). Sets d to the natural minimum of a and b. -/
  | minn (d a b : Reg)
  /-- MAXN (R98). Sets d to the natural maximum of a and b. -/
  | maxn (d a b : Reg)
  /-- AND (R98). Sets d to a AND b. -/
  | and (d a b : Reg)
  /-- OR (R98). Sets d to a OR b. -/
  | or (d a b : Reg)
  /-- XOR (R98). Sets d to a XOR b. -/
  | xor (d a b : Reg)
  /-- ANDN (R98). Sets d to a AND NOT b. -/
  | andn (d a b : Reg)
  /-- SHL (R98). Shifts a left by b[5:0], filling with zeros. -/
  | shl (d a b : Reg)
  /-- SHR (R98). Shifts a right by b[5:0], filling with zeros. -/
  | shr (d a b : Reg)
  /-- SAR (R98). Shifts a right by b[5:0], filling with copies of bit 63. -/
  | sar (d a b : Reg)
  /-- ROL (R98). Rotates a left by b[5:0]. -/
  | rol (d a b : Reg)
  /-- ADDX (R98). Sets d to a + b + C and writes N, Z, C and V from the 65-bit sum. -/
  | addx (d a b : Reg)
  /-- SEL (R98). Sets d to a when Z = 1 and to b otherwise. -/
  | sel (d a b : Reg)
  /-- MOV (R100). Copies a to d. -/
  | mov (d a : Reg)
  /-- NEG (R100). Sets d to 0 − a and writes N, Z, C and V as SUB does. -/
  | neg (d a : Reg)
  /-- ABS (R100). Sets d to the signed absolute value of a. -/
  | abs (d a : Reg)
  /-- CLZ (R100). Counts the leading zero bits of a. -/
  | clz (d a : Reg)
  /-- CTZ (R100). Counts the trailing zero bits of a. -/
  | ctz (d a : Reg)
  /-- POPC (R100). Counts the one bits of a. -/
  | popc (d a : Reg)
  /-- BSWAP (R100). Reverses the byte order of a. -/
  | bswap (d a : Reg)
  /-- SEXT_I8 (R100). Sign-extends a[7:0]. -/
  | sextI8 (d a : Reg)
  /-- SEXT_I16 (R100). Sign-extends a[15:0]. -/
  | sextI16 (d a : Reg)
  /-- SEXT_I32 (R100). Sign-extends a[31:0]. -/
  | sextI32 (d a : Reg)
  /-- ZEXT_N8 (R100). Zero-extends a[7:0]. -/
  | zextN8 (d a : Reg)
  /-- ZEXT_N16 (R100). Zero-extends a[15:0]. -/
  | zextN16 (d a : Reg)
  /-- ZEXT_N32 (R100). Zero-extends a[31:0]. -/
  | zextN32 (d a : Reg)
  /-- ADDI (R101). Sets d to a plus a sign-extended 22-bit immediate. -/
  | addi (d a : Reg) (imm : BitVec 22)
  /-- LI (R101). Form I: loads a sign-extended 22-bit immediate into d. -/
  | li (d : Reg) (imm : BitVec 22)
  /-- LI_G (R101). Form G: loads a sign-extended 32-bit immediate into d. -/
  | liG (d : Reg) (imm : BitVec 32)
  /-- LIH (R101). Sets d to IMM32 || a[31:0]. -/
  | lih (d a : Reg) (imm : BitVec 32)
  /-- BFX (R102). Extracts a bit field of a, zero- or sign-extended. -/
  | bfx (d a : Reg) (s : Bool) (pos len1 : BitVec 6)
  /-- BFI (R102). Inserts a[LEN1:0] into a bit field of d. -/
  | bfi (d a : Reg) (pos len1 : BitVec 6)
  /-- CMP (R103). Writes NZCV as a − b and sets the pending skip count when the condition holds. -/
  | cmp (k : BitVec 2) (cc : BitVec 3) (a b : Reg)
  /-- CMPI (R103). Writes NZCV as a − immediate and sets the pending skip count when the condition holds. -/
  | cmpi (k : BitVec 2) (cc : BitVec 3) (a : Reg) (imm : BitVec 22)
  /-- TST (R103). Writes flags from a AND b and sets the pending skip count when the condition holds. -/
  | tst (k : BitVec 2) (cc : BitVec 3) (a b : Reg)
  /-- BR (R104). Transfers to a PC-relative target; ends a block. -/
  | br (sig : Byte) (tgt : BitVec 22)
  /-- BRC (R104). Transfers to a PC-relative target when the condition holds; ends a block. -/
  | brc (cc : BitVec 3) (sig : Byte) (tgt : BitVec 22)
  /-- JMP (R105). Transfers to an absolute target. -/
  | jmp (sig : Byte) (tgt : BitVec 22)
  /-- CALL (R105). Writes the return address into w29 and transfers to an absolute target. -/
  | call (sig : Byte) (tgt : BitVec 22)
  /-- CALLR (R105). Writes the return address into w29 and transfers to a[21:0]. -/
  | callr (sig : Byte) (a : Reg)
  /-- RET (R105). Transfers to a[21:0], by default w29. -/
  | ret (sig : Byte) (a : Reg)
  /-- NOP (R106). Takes a turn with no other effect. -/
  | nop
  /-- LOOP (R107). Captures a body into the loop buffer and runs it a register-given number of passes. -/
  | loop (sig sigb : Byte) (a : Reg) (len : BitVec 5) (inc : BitVec 22)
  /-- LOOPI (R107). Captures a body into the loop buffer and runs it an immediate number of passes. -/
  | loopi (sig sigb : Byte) (len : BitVec 5) (inc : BitVec 22) (cnt : BitVec 16)
  /-- FADD (R113). Scalar floating addition, rounded once. -/
  | fadd (fmt : BitVec 3) (d a b : Reg)
  /-- FSUB (R113). Scalar floating subtraction, rounded once. -/
  | fsub (fmt : BitVec 3) (d a b : Reg)
  /-- FMUL (R113). Scalar floating multiplication, rounded once. -/
  | fmul (fmt : BitVec 3) (d a b : Reg)
  /-- FFMA (R113). Scalar fused multiply-add into d, rounded once. -/
  | ffma (fmt : BitVec 3) (d a b : Reg)
  /-- FDIV (R113). Long scalar floating division. -/
  | fdiv (fmt : BitVec 3) (d a b : Reg) (la : BitVec 4)
  /-- FSQRT (R113). Long scalar floating square root. -/
  | fsqrt (fmt : BitVec 3) (d a : Reg) (la : BitVec 4)
  /-- FMIN (R114). Returns the lesser floating operand. -/
  | fmin (fmt : BitVec 3) (d a b : Reg)
  /-- FMAX (R114). Returns the greater floating operand. -/
  | fmax (fmt : BitVec 3) (d a b : Reg)
  /-- FABS (R113). Clears the sign of a floating operand. -/
  | fabs (fmt : BitVec 3) (d a : Reg)
  /-- FNEG (R113). Inverts the sign of a floating operand. -/
  | fneg (fmt : BitVec 3) (d a : Reg)
  /-- FCLASS (R114). Writes a one-hot class of a floating operand. -/
  | fclass (fmt : BitVec 3) (d a : Reg)
  /-- FCMP (R114). Compares two floating operands, writes NZCV and applies the skip count. -/
  | fcmp (k : BitVec 2) (cc : BitVec 3) (fmt : BitVec 2) (a b : Reg)
  /-- FCVT (R115). Converts a scalar between two format codes by R59. -/
  | fcvt (src dst : BitVec 5) (d a : Reg)
  /-- TOPO (R118). Returns a logical position value of the issuing strand. -/
  | topo (d : Reg) (n : BitVec 22)
  /-- CAPR (R119). Returns a capability word. -/
  | capr (d : Reg) (n : BitVec 22)
  /-- SRD (R120). Reads a system register. -/
  | srd (d : Reg) (n : BitVec 12)
  /-- SWR (R120). Writes a system register that has no row of its own. -/
  | swr (a : Reg) (n : BitVec 12)
  /-- SYS_SW_WRITE (R121). Whole-word write of sw, which sets JO, SKIP and RIX and checks RM. -/
  | sysSwWrite (a : Reg)
  /-- SSEED_WRITE (R54). Writes a stochastic seed register, which then reaches the stand's other cores. -/
  | sseedWrite (hi : Bool) (a : Reg)
  /-- BANKPM_WRITE (R34). Sets the power states of the core's slice banks. -/
  | bankpmWrite (a : Reg)
  /-- NIV_WRITE (R432). Changes the notch interval from the next point of the new schedule. -/
  | nivWrite (a : Reg)
  /-- PTROOT_WRITE (R410). Writes sys.ptroot and drops every cached leaf of the stand. -/
  | ptrootWrite (a : Reg)
  /-- COLLECTIVE_START (R421). A write to sys.colldb reads a descriptor and starts or attaches to a collective. -/
  | collectiveStart (a : Reg)
  /-- JCKPT_WRITE (R491). A write to sys.jckpt sets the step and requests a job checkpoint. -/
  | jckptWrite (a : Reg)
  /-- PERFR (R122). Returns a performance counter. -/
  | perfr (d : Reg) (n : BitVec 22)
  /-- RNDK (R123). Returns the key-hash output for the stand seed and index a + b. -/
  | rndk (d a b : Reg)
  /-- TRAP (R179). Raises a software cause code on the issuing strand. -/
  | trap (code : BitVec 9)
  /-- RETT (R182). Ends a handler, resuming or ending the served strand. -/
  | rett (sig : Byte) (a : Reg)
  /-- SETH (R180). Writes a trap vector word. -/
  | seth (a : Reg) (g : BitVec 4)
  /-- CAUSE (R181). Returns a word of the trap frame as the wafer captured it. -/
  | cause (d a : Reg)
  /-- SMODE (R183). Sets the privilege mode of the issuing strand. -/
  | smode (m : Bool)
  /-- SMODE_SERVED (R183). With T = 1, sets the mode in which the served strand resumes. -/
  | smodeServed (m : Bool)
  /-- LD (R195). Loads 1–8 bytes, short when local and long when remote. -/
  | ld (size : BitVec 2) (n pi : Bool) (d a : Reg) (la : BitVec 4) (off : BitVec 18)
  /-- ST (R195). Stores 1–8 bytes; posted when remote. -/
  | st (size : BitVec 2) (pi : Bool) (d a : Reg) (off : BitVec 18)
  /-- LDV (R195). Loads 32 bytes into a vector register. -/
  | ldv (pi : Bool) (d a : Reg) (la : BitVec 4) (off : BitVec 18)
  /-- STV (R195). Stores the enabled lanes of a vector register. -/
  | stv (pi : Bool) (d a : Reg) (off : BitVec 18)
  /-- LDG (R195). Loads at a + (b << s). -/
  | ldg (size : BitVec 2) (n pi : Bool) (d a b : Reg) (la : BitVec 4) (s : BitVec 2)
  /-- STG (R195). Stores at a + (b << s). -/
  | stg (size : BitVec 2) (pi : Bool) (d a b : Reg) (s : BitVec 2)
  /-- LDA (R199). Acquire load that holds later accesses to a rectangle until its value arrives. -/
  | lda (size : BitVec 2) (n : Bool) (d a b : Reg) (la : BitVec 4)
  /-- STL (R199). Release store that waits for earlier accesses to a rectangle. -/
  | stl (size : BitVec 2) (d a b : Reg)
  /-- ATOM_ADD (R201). Atomic add at the home core. -/
  | atomAdd (w64 n : Bool) (d a b : Reg) (la : BitVec 4)
  /-- ATOM_AND (R201). Atomic AND at the home core. -/
  | atomAnd (w64 n : Bool) (d a b : Reg) (la : BitVec 4)
  /-- ATOM_OR (R201). Atomic OR at the home core. -/
  | atomOr (w64 n : Bool) (d a b : Reg) (la : BitVec 4)
  /-- ATOM_XOR (R201). Atomic XOR at the home core. -/
  | atomXor (w64 n : Bool) (d a b : Reg) (la : BitVec 4)
  /-- ATOM_MIN (R201). Atomic minimum at the home core. -/
  | atomMin (w64 n : Bool) (d a b : Reg) (la : BitVec 4)
  /-- ATOM_MAX (R201). Atomic maximum at the home core. -/
  | atomMax (w64 n : Bool) (d a b : Reg) (la : BitVec 4)
  /-- ATOM_SWAP (R201). Atomic swap at the home core. -/
  | atomSwap (w64 n : Bool) (d a b : Reg) (la : BitVec 4)
  /-- ATOM_CAS (R201). Atomic compare-and-swap at the home core. -/
  | atomCas (w64 n : Bool) (d a b c : Reg) (la : BitVec 4)
  /-- RADD_F32 (R202). Queues remote FP32 addition of 1–16 units into SRAM. -/
  | raddF32 (a b : Reg) (k n : BitVec 4)
  /-- RADD_B16 (R202). Queues remote BF16 addition of 1–16 units into SRAM. -/
  | raddB16 (a b : Reg) (k n : BitVec 4)
  /-- LDMETA (R203). Reads a slice line's metadata field. -/
  | ldmeta (pi : Bool) (d a : Reg) (off : BitVec 18)
  /-- STMETA (R203). Writes a slice line's metadata field. -/
  | stmeta (pi : Bool) (d a : Reg) (off : BitVec 18)
  /-- PREF (R205). Asks the rim cache to fill row sectors. -/
  | pref (x : BitVec 2) (a : Reg) (off : BitVec 18)
  /-- PUT (R210). Queues a put/get entry copying slice units to device memory. -/
  | put (a b : Reg) (f : PgCtr) (len : BitVec 11)
  /-- GET (R210). Queues a put/get entry copying device memory units into the slice. -/
  | get (a b : Reg) (f : PgCtr) (len : BitVec 11)
  /-- GET_TRANSPOSED (R216). Queues a transposed get that fills column sectors and writes columns contiguously. -/
  | getTransposed (a b c : Reg) (f : PgCtr) (es : BitVec 2) (len : BitVec 7)
  /-- PUTN (R210). PUT followed by a notify write when no unit faulted. -/
  | putn (d a b c : Reg) (f : PgCtr) (len : BitVec 11)
  /-- GETN (R210). GET followed by a notify write when no unit faulted. -/
  | getn (d a b c : Reg) (f : PgCtr) (len : BitVec 11)
  /-- WAITK (R212). Waits until a counter reaches a target, then consumes it or traps on ERR. -/
  | waitk (d a : Reg) (k : BitVec 4)
  /-- WAITA (R213). Waits until a local word equals or differs from b. -/
  | waita (d a b : Reg) (q : Bool)
  /-- FENCE_R (R229). Waits until earlier accesses to a rectangle have performed. -/
  | fenceR (a : Reg)
  /-- FENCE_O (R230). Waits until earlier strong accesses are visible to named observers. -/
  | fenceO (obs : BitVec 6)
  /-- FENCE_X (R231). Waits for writes of FROM paths and drops read buffers of TO paths. -/
  | fenceX (src dst : BitVec 6)
  /-- FENCE_L (R232). Waits until every earlier access of the strand on every path has performed. -/
  | fenceL
  /-- SPAWN (R267). Sends an arrival that starts a strand on a named core. -/
  | spawn (a b : Reg) (pc : BitVec 22)
  /-- SPAWN_S (R268). Sends an arrival that starts a stamped task. -/
  | spawnS (a b c : Reg) (pc : BitVec 22)
  /-- QUIT (R269). Ends the strand after a fence, commits, arrives permanently and frees the slot. -/
  | quit (sig : Byte)
  /-- FORK (R270). Pushes a task entry onto the core's deque. -/
  | fork (tgt : BitVec 22)
  /-- JOIN (R274). Decrements a join word and continues only as the last branch. -/
  | join (a : Reg)
  /-- YIELD (R280). Puts the slot in SLEEP for 64 cc. -/
  | yield
  /-- MIGRATE (R279). Moves the strand to another core as an arrival. -/
  | migrate (a : Reg)
  /-- TASK (R277). Places an event-gated task entry in the tile's task table. -/
  | task (a b c : Reg) (pc : BitVec 22) (wq sq : BitVec 2)
  /-- SETEV (R276). Sets event bits on the issuing or a remote tile. -/
  | setev (a : Reg) (q : BitVec 2) (rt : Bool) (ltn : BitVec 12)
  /-- CLREV (R276). Clears event bits of the issuing tile. -/
  | clrev (a : Reg) (q : BitVec 2)
  /-- WAITEV (R276). Waits until event bits meet a mask. -/
  | waitev (d a : Reg) (q : BitVec 2) (any : Bool)
  /-- BARCFG (R284). Configures a barrier slot and resets its domain. -/
  | barcfg (scope : BitVec 3) (a : Reg) (b : BitVec 7)
  /-- BAR (R285). Arrives at a barrier and sleeps until its generation completes. -/
  | bar (scope : BitVec 3) (b : BitVec 7)
  /-- BARA (R285). Arrives at a barrier with a value and continues with the generation number. -/
  | bara (scope : BitVec 3) (d a : Reg) (b : BitVec 7)
  /-- BARW (R285). Waits until a given generation is complete. -/
  | barw (scope : BitVec 3) (d a : Reg) (b : BitVec 7)
  /-- BARRED (R285). Arrives with a value and receives the reduction result. -/
  | barred (scope : BitVec 3) (d a : Reg) (b : BitVec 7)
  /-- SEND (R305). Sends an n-word message from the slice. -/
  | send (a b : Reg) (n : BitVec 6)
  /-- SENDV (R305). Sends a message from a vector group. -/
  | sendv (a b : Reg) (r : BitVec 2)
  /-- RECV (R306). Pops the head message of a queue into the slice. -/
  | recv (d a b : Reg) (q : BitVec 3)
  /-- RECVV (R306). Pops four queue words into a vector. -/
  | recvv (d : Reg) (q : BitVec 3)
  /-- QBIND_QI (R307). Binds qi to an inbound queue. -/
  | qbindQi (q : BitVec 3)
  /-- QBIND_QO (R307). Binds qo to a destination word and message length. -/
  | qbindQo (a : Reg) (l : BitVec 6)
  /-- QBIND_QI_OFF (R307). Unbinds qi. -/
  | qbindQiOff
  /-- QBIND_QO_OFF (R307). Flushes the assembly buffer and unbinds qo. -/
  | qbindQoOff
  /-- MQSTAT (R308). Returns the status of an inbound queue. -/
  | mqstat (d : Reg) (q : BitVec 3)
  /-- PEEK (R308). Reads a queue word without popping and writes Z. -/
  | peek (d a : Reg) (q : BitVec 3)
  /-- DQPUSH (R327). Sends delta records to a queue in packets of 16. -/
  | dqpush (a b : Reg) (n : BitVec 6)
  /-- DQPOP (R328). Retires the taken set and takes up to b untaken records. -/
  | dqpop (d a b : Reg) (la : BitVec 4) (nb : Bool) (q : BitVec 4)
  /-- DQCONS (R329). Consolidates n records in place. -/
  | dqcons (d a b : Reg)
  /-- ARUPD (R332). Applies records to an arrangement. -/
  | arupd (a b : Reg) (n : Byte)
  /-- ARJOIN (R333). Joins input records against an arrangement. -/
  | arjoin (d a b c : Reg) (vs : BitVec 2)
  /-- ARSCAN (R334). Copies arrangement entries from the cursor. -/
  | arscan (d a b c : Reg) (k : Bool)
  /-- ARCOMPACT (R335). Folds times below t into t and consolidates chains. -/
  | arcompact (a b : Reg)
  /-- FRONTADV (R336). Advances or closes a producer clock. -/
  | frontadv (a : Reg) (p : BitVec 5)
  /-- FRONTRD (R336). Reads the known frontier, a producer clock or the hold. -/
  | frontrd (d : Reg) (s : BitVec 5)
  /-- DQWAITF (R336). Retires the taken set and waits until the known frontier exceeds a. -/
  | dqwaitf (d a : Reg)
  /-- WPSET (R391). Gives a parked slot a new workspace. -/
  | wpset (d a : Reg) (s : BitVec 4)
  /-- PARK (R385). Requests that a target slot be parked. -/
  | park (d a : Reg) (s : BitVec 4)
  /-- UNPARK (R386). Requests that a parked slot resume. -/
  | unpark (d a : Reg) (s : BitVec 4)
  /-- STANDCFG (R372). Writes a stand-table entry. -/
  | standcfg (a b : Reg) (n : BitVec 6)
  /-- RTSET (R398). Writes a range-table entry on every tile of the stand. -/
  | rtset (a : Reg) (n : BitVec 6)
  /-- TLBINV_ADDR (R402). Drops cached leaves covering an address on every tile. -/
  | tlbinvAddr (a : Reg)
  /-- TLBINV_ALL (R402). Drops every cached leaf of the stand. -/
  | tlbinvAll (a : Reg)
  /-- PGATTR (R405). Changes page attributes, converting lines one at a time. -/
  | pgattr (d a b : Reg) (mask : BitVec 6)
  /-- KEYSEL_LOAD (R406). Unwraps and installs a key into the stand's slot. -/
  | keyselLoad (d a : Reg)
  /-- KEYSEL_ERASE (R406). Waits for ENC accesses and zeroes the key slot. -/
  | keyselErase (d : Reg)
  /-- KEYSEL_STATUS (R406). Returns the key slot status. -/
  | keyselStatus (d : Reg)
  /-- POISONQ_READ_LOCAL (R408). Returns the poison flag of a local line. -/
  | poisonqReadLocal (d a : Reg)
  /-- POISONQ_CLEAR_LOCAL (R408). Zeroes a local line, clearing poison. -/
  | poisonqClearLocal (d a : Reg)
  /-- POISONQ_READ_DEVICE (R408). Returns the poison flag of a device line. -/
  | poisonqReadDevice (d a : Reg)
  /-- POISONQ_CLEAR_DEVICE (R408). Zeroes a writable device line, clearing poison. -/
  | poisonqClearDevice (d a : Reg)
  /-- BOOST (R500). Sets the issuing core's boost request. -/
  | boost (lvl : BitVec 2)
  /-- NOTCH (R453). Requests an early notch. -/
  | notch
  /-- NOTCHRD (R454). Returns notch status or counts. -/
  | notchrd (d : Reg) (n : BitVec 5)
  /-- CKEXCL (R455). Sets or removes an exclusion range. -/
  | ckexcl (a : Reg) (r : BitVec 2) (n : BitVec 16)
  /-- WDPET (R456). Exempts the slot's next wait from the watchdog. -/
  | wdpet
  /-- VADD (R126). Elementwise floating addition, form S. -/
  | vadd (fmt : BitVec 3) (d a b : Reg)
  /-- VADD_L (R126). Elementwise floating addition, form L. -/
  | vaddL (fmt : BitVec 3) (d a b : Reg) (la : BitVec 4)
  /-- VSUB (R126). Elementwise floating subtraction, form S. -/
  | vsub (fmt : BitVec 3) (d a b : Reg)
  /-- VSUB_L (R126). Elementwise floating subtraction, form L. -/
  | vsubL (fmt : BitVec 3) (d a b : Reg) (la : BitVec 4)
  /-- VMUL (R126). Elementwise floating multiplication, form S. -/
  | vmul (fmt : BitVec 3) (d a b : Reg)
  /-- VMUL_L (R126). Elementwise floating multiplication, form L. -/
  | vmulL (fmt : BitVec 3) (d a b : Reg) (la : BitVec 4)
  /-- VDIV (R126). Elementwise floating division, form S. -/
  | vdiv (fmt : BitVec 3) (d a b : Reg)
  /-- VDIV_L (R126). Elementwise floating division, form L. -/
  | vdivL (fmt : BitVec 3) (d a b : Reg) (la : BitVec 4)
  /-- VMIN (R126). Elementwise floating minimum, form S. -/
  | vmin (fmt : BitVec 3) (d a b : Reg)
  /-- VMIN_L (R126). Elementwise floating minimum, form L. -/
  | vminL (fmt : BitVec 3) (d a b : Reg) (la : BitVec 4)
  /-- VMAX (R126). Elementwise floating maximum, form S. -/
  | vmax (fmt : BitVec 3) (d a b : Reg)
  /-- VMAX_L (R126). Elementwise floating maximum, form L. -/
  | vmaxL (fmt : BitVec 3) (d a b : Reg) (la : BitVec 4)
  /-- VPOW (R126). Elementwise power, form S. -/
  | vpow (fmt : BitVec 3) (d a b : Reg)
  /-- VPOW_L (R126). Elementwise power, form L. -/
  | vpowL (fmt : BitVec 3) (d a b : Reg) (la : BitVec 4)
  /-- VFMA (R126). Elementwise fused multiply-add into d, form S. -/
  | vfma (fmt : BitVec 3) (d a b : Reg)
  /-- VFMA_L (R126). Elementwise fused multiply-add into d, form L. -/
  | vfmaL (fmt : BitVec 3) (d a b : Reg) (la : BitVec 4)
  /-- VFMS (R126). Elementwise fused d − a × b, form S. -/
  | vfms (fmt : BitVec 3) (d a b : Reg)
  /-- VFMS_L (R126). Elementwise fused d − a × b, form L. -/
  | vfmsL (fmt : BitVec 3) (d a b : Reg) (la : BitVec 4)
  /-- VSQRT (R126). Elementwise square root, form S. -/
  | vsqrt (fmt : BitVec 3) (d a : Reg)
  /-- VSQRT_L (R126). Elementwise square root, form L. -/
  | vsqrtL (fmt : BitVec 3) (d a : Reg) (la : BitVec 4)
  /-- VRSQ (R126). Elementwise reciprocal square root, form S. -/
  | vrsq (fmt : BitVec 3) (d a : Reg)
  /-- VRSQ_L (R126). Elementwise reciprocal square root, form L. -/
  | vrsqL (fmt : BitVec 3) (d a : Reg) (la : BitVec 4)
  /-- VEXP (R126). Elementwise exponential, form S. -/
  | vexp (fmt : BitVec 3) (d a : Reg)
  /-- VEXP_L (R126). Elementwise exponential, form L. -/
  | vexpL (fmt : BitVec 3) (d a : Reg) (la : BitVec 4)
  /-- VLOG (R126). Elementwise natural logarithm, form S. -/
  | vlog (fmt : BitVec 3) (d a : Reg)
  /-- VLOG_L (R126). Elementwise natural logarithm, form L. -/
  | vlogL (fmt : BitVec 3) (d a : Reg) (la : BitVec 4)
  /-- VSIN (R126). Elementwise sine, form S. -/
  | vsin (fmt : BitVec 3) (d a : Reg)
  /-- VSIN_L (R126). Elementwise sine, form L. -/
  | vsinL (fmt : BitVec 3) (d a : Reg) (la : BitVec 4)
  /-- VCOS (R126). Elementwise cosine, form S. -/
  | vcos (fmt : BitVec 3) (d a : Reg)
  /-- VCOS_L (R126). Elementwise cosine, form L. -/
  | vcosL (fmt : BitVec 3) (d a : Reg) (la : BitVec 4)
  /-- VTANH (R126). Elementwise hyperbolic tangent, form S. -/
  | vtanh (fmt : BitVec 3) (d a : Reg)
  /-- VTANH_L (R126). Elementwise hyperbolic tangent, form L. -/
  | vtanhL (fmt : BitVec 3) (d a : Reg) (la : BitVec 4)
  /-- VABS (R126). Elementwise absolute value, form S. -/
  | vabs (fmt : BitVec 3) (d a : Reg)
  /-- VABS_L (R126). Elementwise absolute value, form L. -/
  | vabsL (fmt : BitVec 3) (d a : Reg) (la : BitVec 4)
  /-- VNEG (R126). Elementwise negation, form S. -/
  | vneg (fmt : BitVec 3) (d a : Reg)
  /-- VNEG_L (R126). Elementwise negation, form L. -/
  | vnegL (fmt : BitVec 3) (d a : Reg) (la : BitVec 4)
  /-- VCMP (R128). Elementwise floating compare into masks, writes Z and C and applies skip. -/
  | vcmp (k : BitVec 2) (cc : BitVec 3) (fmt : BitVec 2) (d a b : Reg)
  /-- VAND (R129). Lanewise AND. -/
  | vand (d a b : Reg)
  /-- VOR (R129). Lanewise OR. -/
  | vor (d a b : Reg)
  /-- VXOR (R129). Lanewise XOR. -/
  | vxor (d a b : Reg)
  /-- VSHL (R129). Elementwise shift left. -/
  | vshl (size : BitVec 2) (n : Bool) (d a b : Reg)
  /-- VSHR (R129). Elementwise shift right, arithmetic or logical. -/
  | vshr (size : BitVec 2) (n : Bool) (d a b : Reg)
  /-- VIADD (R129). Elementwise integer addition. -/
  | viadd (size : BitVec 2) (n : Bool) (d a b : Reg)
  /-- VISUB (R129). Elementwise integer subtraction. -/
  | visub (size : BitVec 2) (n : Bool) (d a b : Reg)
  /-- VIMUL (R129). Elementwise integer multiplication. -/
  | vimul (size : BitVec 2) (n : Bool) (d a b : Reg)
  /-- VSEL (R129). Bitwise select by the mask in d. -/
  | vsel (d a b : Reg)
  /-- VDOT (R130). Per-lane dot product accumulated into d. -/
  | vdot (fmt : BitVec 5) (d a b : Reg)
  /-- VRED_ADD (R131). Tree sum of a vector into a scalar. -/
  | vredAdd (fmt : BitVec 5) (d a : Reg)
  /-- VRED_MIN (R131). Tree minimum of a vector into a scalar. -/
  | vredMin (fmt : BitVec 5) (d a : Reg)
  /-- VRED_MAX (R131). Tree maximum of a vector into a scalar. -/
  | vredMax (fmt : BitVec 5) (d a : Reg)
  /-- VREDQ (R132). Reduces n queue elements into d, one word per turn. -/
  | vredq (fmt : BitVec 5) (d a : Reg)
  /-- VSHUF (R134). Permutes elements by an index vector. -/
  | vshuf (size : BitVec 2) (d a b : Reg)
  /-- VSPLAT (R134). Copies a scalar into every element. -/
  | vsplat (size : BitVec 2) (d a : Reg)
  /-- VINS (R134). Inserts a scalar into one element. -/
  | vins (size : BitVec 2) (d a b : Reg)
  /-- VEXT (R134). Extracts one element to a scalar. -/
  | vext (size : BitVec 2) (n : Bool) (d a b : Reg)
  /-- VCVT (R135). Converts elements between formats. -/
  | vcvt (src dst : BitVec 5) (sc : Bool) (d a c : Reg)
  /-- VPACK (R135). Converts a register group into one narrower register. -/
  | vpack (src dst : BitVec 5) (sc : Bool) (d a c : Reg)
  /-- VUNPACK (R135). Converts one register into a wider register group. -/
  | vunpack (src dst : BitVec 5) (sc : Bool) (d a c : Reg)
  /-- VRND (R135). Rounds elements to integral values. -/
  | vrnd (src dst : BitVec 5) (d a : Reg)
  /-- VADD_M (R137). Queues a stream addition from slice to slice. -/
  | vaddM (fmt : BitVec 3) (d a b : Reg) (la : BitVec 4) (x : Byte)
  /-- VMUL_M (R137). Queues a stream multiplication from slice to slice. -/
  | vmulM (fmt : BitVec 3) (d a b : Reg) (la : BitVec 4) (x : Byte)
  /-- VFMA_M (R137). Queues a stream fused multiply-add from slice to slice. -/
  | vfmaM (fmt : BitVec 3) (d a b : Reg) (la : BitVec 4) (x : Byte)
  /-- ADDWIN (R142). Adds an FP32 value or exact product into a window accumulator. -/
  | addwin (p : Bool) (d a b : Reg) (la : BitVec 4)
  /-- RDWIN (R142). Reads a window accumulator rounded to FP32 or FP64. -/
  | rdwin (fmt : BitVec 5) (d a : Reg) (la : BitVec 4)
  /-- CLRWIN (R142). Clears a window accumulator. -/
  | clrwin (a : Reg) (la : BitVec 4)
  /-- JORD (R146). Sets the jet order. -/
  | jord (n : BitVec 5)
  /-- JSEED (R168). Seeds jets from a scalar value and direction. -/
  | jseed (fmt : BitVec 2) (d a b : Reg) (la : BitVec 4)
  /-- JSEEDV (R168). Seeds jets from vectors of values and directions. -/
  | jseedv (fmt : BitVec 2) (d a b : Reg) (la : BitVec 4)
  /-- JCONST (R168). Builds constant jets. -/
  | jconst (fmt : BitVec 2) (d a : Reg) (la : BitVec 4)
  /-- JEXT (R169). Extracts coefficient k of each group. -/
  | jext (fmt : BitVec 2) (d a : Reg) (k : BitVec 5) (la : BitVec 4)
  /-- JDER (R169). Extracts the k-th derivative of each group. -/
  | jder (fmt : BitVec 2) (d a : Reg) (k : BitVec 5) (la : BitVec 4)
  /-- JTRUNC (R170). Truncates jets to order n. -/
  | jtrunc (fmt : BitVec 2) (d a : Reg) (k : BitVec 5) (la : BitVec 4)
  /-- JFRD (R171). Reads half of the jet flags. -/
  | jfrd (d : Reg) (h : Bool)
  /-- JFCLR (R171). Clears jet flags of a coefficient range. -/
  | jfclr (lo hi : BitVec 5)
  /-- MCFG (R244). Configures and takes ownership of a matrix tile. -/
  | mcfg (tile : BitVec 2) (keep acc : Bool) (afmt bfmt : BitVec 5) (rows1 cols1 : BitVec 6)
  /-- MCLR (R245). Zeroes owned matrix tiles. -/
  | mclr (mask : BitVec 4)
  /-- MRES (R246). Returns a matrix tile's status. -/
  | mres (d : Reg) (tile : BitVec 2)
  /-- MRES_RELEASE (R246). Returns a tile's status and releases its ownership. -/
  | mresRelease (d : Reg) (tile : BitVec 2)
  /-- MMA (R251). Starts a matrix product accumulated into a tile. -/
  | mma (a b c : Reg) (tile : BitVec 2) (kb1 : BitVec 6) (mx sc : Bool) (desc : BitVec 22)
  /-- MMJ (R257). Starts a jet matrix product into coefficient tiles. -/
  | mmj (a b c : Reg) (kb1 : BitVec 6)
  /-- MRD (R258). Writes a tile to the slice, converting each element. -/
  | mrd (a b : Reg) (tile : BitVec 2) (fmt : BitVec 5)
  /-- MACC (R259). Adds slice rows into a tile. -/
  | macc (a b : Reg) (tile : BitVec 2) (fmt : BitVec 5)
  /-- XPKD (R260). Expands XPK blocks into FP8. -/
  | xpkd (d a : Reg) (x : Byte)
deriving DecidableEq, Repr

end Sys2Proof
end

