-- ==== Sys2Proof/WellFormed.lean ====
section
/-! DEFINITION. Well-formed instructions: what an encoding must satisfy beside its fixed bits (03 R74, R77 check 3).
Register numbers are not judged here: a loop pass may step them (04 R110), so ports, vector numbers, parity and
formats are checked where the head issues. -/

namespace Sys2Proof

/-- The system registers that the chapters assign (04 R120; 07 R176; 16 R374; 17 R410; 18 R425, R426; 19 R432;
21 R498). -/
def sysAssigned (n : Nat) : Bool :=
  [0x000, 0x010, 0x011, 0x020, 0x021, 0x040, 0x041, 0x060, 0x061, 0x062, 0x063, 0x064, 0x065].contains n
    || (decide (0x080 ≤ n) && n < 0x090) || (decide (0x100 ≤ n) && n < 0x104) || (decide (0x140 ≤ n) && n < 0x145)
    || (decide (0x200 ≤ n) && n < 0x203) || (decide (0x210 ≤ n) && n < 0x213) || (decide (0x220 ≤ n) && n < 0x223)
    || n == 0x230

/-- The registers whose write the opcode table lists as a row of its own. -/
def sysNamed (n : Nat) : Bool :=
  [0x000, 0x011, 0x020, 0x021, 0x040, 0x064, 0x140, 0x211].contains n

/-- The counter fields of a put/get head agree with CM (08 R209, first row). -/
def ctrOk (f : PgCtr) : Bool :=
  f.cm != 0 && (f.cm.getLsbD 0 || f.lk == 0)
    && (f.cm.getLsbD 1 || (f.rltn == 0 && f.rcore == 0 && f.rk == 0))

/-- A barrier scope other than `.L`, not reserved (03 R74, 11 R282). -/
def scopeOk (s : BitVec 3) : Bool := s != 0 && s.toNat < 6

/-- The encoding rules of each instruction that its fixed bits do not already enforce. -/
def Instr.wf : Instr → Bool
  | .add _ _ _ => true
  | .sub _ _ _ => true
  | .mul _ _ _ => true
  | .mulh _ _ _ => true
  | .mulhn _ _ _ => true
  | .div _ _ _ _ => true
  | .divn _ _ _ _ => true
  | .rem _ _ _ _ => true
  | .remn _ _ _ _ => true
  | .min _ _ _ => true
  | .max _ _ _ => true
  | .minn _ _ _ => true
  | .maxn _ _ _ => true
  | .and _ _ _ => true
  | .or _ _ _ => true
  | .xor _ _ _ => true
  | .andn _ _ _ => true
  | .shl _ _ _ => true
  | .shr _ _ _ => true
  | .sar _ _ _ => true
  | .rol _ _ _ => true
  | .addx _ _ _ => true
  | .sel _ _ _ => true
  | .mov _ _ => true
  | .neg _ _ => true
  | .abs _ _ => true
  | .clz _ _ => true
  | .ctz _ _ => true
  | .popc _ _ => true
  | .bswap _ _ => true
  | .sextI8 _ _ => true
  | .sextI16 _ _ => true
  | .sextI32 _ _ => true
  | .zextN8 _ _ => true
  | .zextN16 _ _ => true
  | .zextN32 _ _ => true
  | .addi _ _ _ => true
  | .li _ _ => true
  | .liG _ _ => true
  | .lih _ _ _ => true
  | .bfx _ _ _ pos len1 => pos.toNat + len1.toNat < 64
  | .bfi _ _ pos len1 => pos.toNat + len1.toNat < 64
  | .cmp _ cc _ _ => cc.toNat < 6
  | .cmpi _ cc _ _ => cc.toNat < 6
  | .tst _ cc _ _ => cc.toNat < 2
  | .br _ _ => true
  | .brc cc _ _ => cc.toNat < 6
  | .jmp _ _ => true
  | .call _ _ => true
  | .callr _ _ => true
  | .ret _ _ => true
  | .nop => true
  | .loop _ _ _ _ inc => inc.toNat % 64 == 0
  | .loopi _ _ _ inc _ => inc.toNat % 64 == 0
  | .fadd _ _ _ _ => true
  | .fsub _ _ _ _ => true
  | .fmul _ _ _ _ => true
  | .ffma _ _ _ _ => true
  | .fdiv _ _ _ _ _ => true
  | .fsqrt _ _ _ _ => true
  | .fmin _ _ _ _ => true
  | .fmax _ _ _ _ => true
  | .fabs _ _ _ => true
  | .fneg _ _ _ => true
  | .fclass _ _ _ => true
  | .fcmp _ cc _ _ _ => cc.toNat < 6
  | .fcvt _ _ _ _ => true
  | .topo _ n => n.toNat < 8
  | .capr _ n => n.toNat < 64
  | .srd _ n => sysAssigned n.toNat
  | .swr _ n => sysAssigned n.toNat && !sysNamed n.toNat
  | .sysSwWrite _ => true
  | .sseedWrite _ _ => true
  | .seedUpdateArrival _ _ => true
  | .bankpmWrite _ => true
  | .nivWrite _ => true
  | .ptrootWrite _ => true
  | .collectiveStart _ => true
  | .jckptWrite _ => true
  | .perfr _ n => n.toNat < 64
  | .rndk _ _ _ => true
  | .trap code => decide (0x1C0 ≤ code.toNat) && code.toNat < 0x1E0
  | .rett _ _ => true
  | .seth _ g => !(g.toNat == 11 || g.toNat == 12 || g.toNat == 13 || g.toNat == 15)
  | .cause _ _ => true
  | .smode _ => true
  | .smodeServed _ => true
  | .handlerStarved _ => true
  | .supervisorRoute _ => true
  | .ld _ _ pi _ _ _ off => !pi || off == 0
  | .st _ pi _ _ off => !pi || off == 0
  | .ldv pi _ _ _ off => !pi || off == 0
  | .stv pi _ _ off => !pi || off == 0
  | .ldg _ _ _ _ _ _ _ _ => true
  | .stg _ _ _ _ _ _ => true
  | .lda _ _ _ _ _ _ => true
  | .stl _ _ _ _ => true
  | .atomAdd _ _ _ _ _ _ => true
  | .atomAnd _ _ _ _ _ _ => true
  | .atomOr _ _ _ _ _ _ => true
  | .atomXor _ _ _ _ _ _ => true
  | .atomMin _ _ _ _ _ _ => true
  | .atomMax _ _ _ _ _ _ => true
  | .atomSwap _ _ _ _ _ _ => true
  | .atomCas _ _ _ _ _ _ _ => true
  | .atomicExecute _ => true
  | .raddF32 _ _ _ _ => true
  | .raddB16 _ _ _ _ => true
  | .raddUnitAdd _ => true
  | .remoteStorePerform _ => true
  | .remoteLoadServe _ => true
  | .replyArrival _ => true
  | .longResultArrival _ _ => true
  | .bankWakeDone _ => true
  | .ldmeta pi _ _ off => !pi || off == 0
  | .stmeta pi _ _ off => !pi || off == 0
  | .pref _ _ _ => true
  | .prefFill _ _ => true
  | .put _ _ f _ => ctrOk f
  | .get _ _ f _ => ctrOk f
  | .getTransposed _ _ _ f es _ => ctrOk f && es.toNat < 3
  | .putn _ _ _ _ f _ => ctrOk f
  | .getn _ _ _ _ f _ => ctrOk f
  | .putgetUnit _ _ => true
  | .putgetEntryComplete _ => true
  | .remoteCounterIncrement _ => true
  | .translationWalk _ => true
  | .rowSectorEviction _ => true
  | .waitk _ _ _ => true
  | .waita _ _ _ _ => true
  | .fenceR _ => true
  | .fenceO obs => obs != 0
  | .fenceX src dst => src != 0 && dst != 0
  | .fenceL => true
  | .taskSettle _ => true
  | .taskCommit _ => true
  | .frontierChange => true
  | .matrixStep _ => true
  | .gatherFetch => true
  | .matrixOpComplete _ => true
  | .streamStep => true
  | .streamComplete => true
  | .windowUnitWrite _ _ => true
  | .spawn _ _ _ => true
  | .spawnS _ _ _ _ => true
  | .arrivalReceive _ => true
  | .arrivalResend _ => true
  | .slotFill => true
  | .stealProbe _ => true
  | .quit _ => true
  | .fork _ => true
  | .join _ => true
  | .yield => true
  | .yieldExpiry _ => true
  | .migrate _ => true
  | .task _ _ _ _ _ _ => true
  | .setev _ _ rt ltn => rt || ltn == 0
  | .clrev _ _ => true
  | .waitev _ _ _ _ => true
  | .remoteSetevArrival _ _ _ _ => true
  | .eventUnitCycle => true
  | .barcfg scope _ _ => scopeOk scope
  | .barcfgAnswer _ _ => true
  | .bar scope _ => scopeOk scope
  | .bara scope _ _ _ => scopeOk scope
  | .barw scope _ _ _ => scopeOk scope
  | .barred scope _ _ _ => scopeOk scope
  | .barrierCombine _ => true
  | .barrierReleaseWake _ _ _ => true
  | .send _ _ _ => true
  | .sendv _ _ r => r.toNat < 3
  | .recv _ _ _ _ => true
  | .recvv _ _ => true
  | .qbindQi _ => true
  | .qbindQo _ _ => true
  | .qbindQiOff => true
  | .qbindQoOff => true
  | .mqstat _ _ => true
  | .peek _ _ _ => true
  | .messageAccept _ => true
  | .redirect _ => true
  | .rtoResend _ => true
  | .refusalResend _ => true
  | .deadLetterNotice _ _ => true
  | .mailboxWrite _ => true
  | .buckerBuck => true
  | .buckerReplay => true
  | .keyringChangeApply _ _ => true
  | .dqpush _ _ _ => true
  | .deltaPacketAccept _ => true
  | .dqpop _ _ _ _ _ _ => true
  | .dqcons _ _ _ => true
  | .arupd _ _ _ => true
  | .arjoin _ _ _ _ vs => vs.toNat < 3
  | .arscan _ _ _ _ _ => true
  | .arcompact _ _ => true
  | .frontadv _ p => p.toNat < 8
  | .frontrd _ s => s.toNat < 10
  | .dqwaitf _ _ => true
  | .knownFrontierUpdate _ => true
  | .wpset _ _ _ => true
  | .wpsetSwitchDone _ => true
  | .park _ _ _ => true
  | .unpark _ _ _ => true
  | .parkRequestServe _ => true
  | .spill _ => true
  | .reload _ => true
  | .standcfg _ _ _ => true
  | .rtset _ _ => true
  | .rtsetApply _ _ => true
  | .tlbinvAddr _ => true
  | .tlbinvAll _ => true
  | .tlbinvApply _ _ => true
  | .pgattr _ _ _ _ => true
  | .pgattrComplete _ => true
  | .keyselLoad _ _ => true
  | .keyselErase _ => true
  | .keyselStatus _ => true
  | .poisonqReadLocal _ _ => true
  | .poisonqClearLocal _ _ => true
  | .poisonqReadDevice _ _ => true
  | .poisonqClearDevice _ _ => true
  | .boost lvl => lvl.toNat < 3
  | .boostInterval => true
  | .notch => true
  | .notchrd _ n => n.toNat < 6
  | .ckexcl _ _ _ => true
  | .wdpet => true
  | .vadd _ _ _ _ => true
  | .vaddL _ _ _ _ _ => true
  | .vsub _ _ _ _ => true
  | .vsubL _ _ _ _ _ => true
  | .vmul _ _ _ _ => true
  | .vmulL _ _ _ _ _ => true
  | .vdiv _ _ _ _ => true
  | .vdivL _ _ _ _ _ => true
  | .vmin _ _ _ _ => true
  | .vminL _ _ _ _ _ => true
  | .vmax _ _ _ _ => true
  | .vmaxL _ _ _ _ _ => true
  | .vpow _ _ _ _ => true
  | .vpowL _ _ _ _ _ => true
  | .vfma _ _ _ _ => true
  | .vfmaL _ _ _ _ _ => true
  | .vfms _ _ _ _ => true
  | .vfmsL _ _ _ _ _ => true
  | .vsqrt _ _ _ => true
  | .vsqrtL _ _ _ _ => true
  | .vrsq _ _ _ => true
  | .vrsqL _ _ _ _ => true
  | .vexp _ _ _ => true
  | .vexpL _ _ _ _ => true
  | .vlog _ _ _ => true
  | .vlogL _ _ _ _ => true
  | .vsin _ _ _ => true
  | .vsinL _ _ _ _ => true
  | .vcos _ _ _ => true
  | .vcosL _ _ _ _ => true
  | .vtanh _ _ _ => true
  | .vtanhL _ _ _ _ => true
  | .vabs _ _ _ => true
  | .vabsL _ _ _ _ => true
  | .vneg _ _ _ => true
  | .vnegL _ _ _ _ => true
  | .vcmp _ cc _ _ _ _ => cc.toNat < 6
  | .vand _ _ _ => true
  | .vor _ _ _ => true
  | .vxor _ _ _ => true
  | .vshl _ _ _ _ _ => true
  | .vshr _ _ _ _ _ => true
  | .viadd _ _ _ _ _ => true
  | .visub _ _ _ _ _ => true
  | .vimul _ _ _ _ _ => true
  | .vsel _ _ _ => true
  | .vdot _ _ _ _ => true
  | .vredAdd _ _ _ => true
  | .vredMin _ _ _ => true
  | .vredMax _ _ _ => true
  | .vredq _ _ _ => true
  | .vshuf _ _ _ _ => true
  | .vsplat _ _ _ => true
  | .vins _ _ _ _ => true
  | .vext _ _ _ _ _ => true
  | .vcvt _ _ sc _ _ c => sc || c == 0
  | .vpack _ _ sc _ _ c => sc || c == 0
  | .vunpack _ _ sc _ _ c => sc || c == 0
  | .vrnd src dst _ _ => src == dst
  | .vaddM _ _ _ _ _ _ => true
  | .vmulM _ _ _ _ _ _ => true
  | .vfmaM _ _ _ _ _ _ => true
  | .addwin p _ _ b _ => p || b == 0
  | .rdwin _ _ _ _ => true
  | .clrwin _ _ => true
  | .jord _ => true
  | .jseed _ _ _ _ _ => true
  | .jseedv _ _ _ _ _ => true
  | .jconst _ _ _ _ => true
  | .jext _ _ _ _ _ => true
  | .jder _ _ _ _ _ => true
  | .jtrunc _ _ _ _ _ => true
  | .jfrd _ _ => true
  | .jfclr lo hi => decide (lo.toNat ≤ hi.toNat)
  | .mcfg _ _ _ _ _ rows1 _ => rows1.toNat < 48
  | .mclr mask => mask != 0
  | .mres _ _ => true
  | .mresRelease _ _ => true
  | .mma _ _ c _ _ mx sc desc => (sc || c == 0) && (mx || desc == 0)
  | .mmj _ _ _ _ => true
  | .mrd _ _ _ _ => true
  | .macc _ _ _ _ => true
  | .xpkd _ _ _ => true
  | .launchRecord _ => true
  | .launchSlotWrite _ _ _ _ => true
  | .launchStart _ => true
  | .launchEnd .. => true
  | .swapOut => true
  | .swapIn => true
  | .notchPoint => true
  | .earlyNotch => true
  | .notchCapture => true
  | .notchCopyLine => true
  | .notchCommit => true
  | .shadowFold => true
  | .rebase => true
  | .waitExpired _ => true
  | .tileWatchdog => true
  | .tileFault _ _ _ => true
  | .fieldPowerLoss _ => true
  | .siteUnreachable _ _ => true
  | .select => true
  | .restore => true
  | .replay => true
  | .bind => true
  | .release => true
  | .catchStore _ => true
  | .foldTile => true
  | .foldResidencySwitch => true
  | .recoveryFail => true
  | .hostMemAccess .. => true
  | .peerAccess .. => true
  | .scaleoutPacketReceive _ _ _ _ => true
  | .laneRetire _ => true
  | .portRekey _ => true
  | .collectiveStepReceive _ _ _ _ => true
  | .collectiveStepAck _ _ => true
  | .collectiveStepTimeout _ _ => true
  | .tierEpochEnd => true
  | .tierCopyLine _ => true
  | .tierSwitch _ => true
  | .jobCheckpointService => true
  | .jobRestore _ => true
  | .channelRetire _ => true
  | .stripeMove => true
  | .dieMapOut => true
  | .mapOutAck => true
  | .firmwareMeasure _ => true
  | .hingeAcknowledgement _ => true
  | .scaleoutPortDown _ => true
  | .scaleoutPortUp _ => true
  | .hostLinkDown => true
  | .hostLinkUp _ => true
  | .cxlSnoop _ => true
  | .standGrantWrite _ _ _ _ => true
  | .hostApertureWrite _ _ _ => true
  | .peerExportWrite _ _ _ => true
  | .podConfigure _ _ _ => true
  | .standDelegationWrite _ _ _ => true
  | .auditLogAck _ => true
  | .modulePowerOn _ => true
  | .linkRetry _ => true

end Sys2Proof
end

