-- ==== Sys2Proof/Decode.lean ====
section
/-! DEFINITION. Decoding a head and its tail, total on any bits and rejecting by name (03 R66, R71 to R77), and the
encoder written from the same tables. Definitions that build a constructor past the 244th are marked noncomputable:
Lean's runtime numbers no more constructors than that with fields; the kernel evaluates them all the same. -/

namespace Sys2Proof

/-- Why a pattern is no instruction (03 R77 checks 2 and 3); each raises ILLEGAL_ENCODING. -/
inductive DecodeError where
  /-- Majors 0x00, 0x27 to 0x2F, 0x3E and 0x3F. -/
  | reservedMajor
  | unassignedFunction
  | tailForm
  /-- A bit that the instruction leaves unused is one, or LA stands on a mnemonic that is never long. -/
  | reservedField
  /-- A reserved cc, scope, size or other sub-field value. -/
  | reservedValue
deriving DecidableEq, Repr

/-- What decoding gives: an instruction, or the name of what makes the pattern none. -/
inductive Decoded where
  | ok (i : Instr)
  | illegal (e : DecodeError)
deriving DecidableEq, Repr

/-- Bits in all of the widths. -/
def total : List Nat → Nat
  | [] => 0
  | w :: ws => w + total ws

/-- Fields of the given widths, most significant first, as one number. -/
def pack : List Nat → List Nat → Nat
  | _ :: ws, v :: vs => v * 2 ^ total ws + pack ws vs
  | _, _ => 0

/-- The fields of the given widths, most significant first. -/
def unpack : List Nat → Nat → List Nat
  | [], _ => []
  | w :: ws, n => n / 2 ^ total ws % 2 ^ w :: unpack ws (n % 2 ^ total ws)

/-- A head and its tail, zero-extended (03 R66, R67). -/
structure Code where
  head : BitVec 16
  tail : BitVec 64
deriving DecidableEq, Repr

/-- Tail length in halfwords by the T field (03 R66). -/
def tailLen (head : BitVec 16) : Nat :=
  match (head.extractLsb' 13 2).toNat with
  | 0 => 0
  | 1 => 1
  | 2 => 2
  | _ => 4

/-- A row of the map whose tail form is T = `want`, its fields unpacked. -/
def row (T t want : Nat) (ws : List Nat) (k : List Nat → Decoded) : Decoded :=
  if T = want then k (unpack ws t) else .illegal .tailForm

/-- A row of form Z. -/
def bare (T : Nat) (r : Decoded) : Decoded :=
  if T = 0 then r else .illegal .tailForm

/-- The instruction, when its fixed fields are as they must be. -/
def chk (c : Bool) (i : Instr) : Decoded := if c then .ok i else .illegal .reservedField

/-- `SWR` to register n: the rows that the opcode table names, or `SWR` itself (04 R120). -/
def sysWrite (a : Reg) (n : Nat) : Instr :=
  match n with
  | 0x000 => .sysSwWrite a
  | 0x011 => .bankpmWrite a
  | 0x020 => .sseedWrite false a
  | 0x021 => .sseedWrite true a
  | 0x040 => .nivWrite a
  | 0x064 => .collectiveStart a
  | 0x140 => .ptrootWrite a
  | 0x211 => .jckptWrite a
  | n => .swr a (.ofNat 12 n)

/-- Major 0x01 (03 R76). -/
def major01 (T m t : Nat) : Decoded :=
  match unpack [7] m with
  | [fn] =>
    match fn with
    | 0 => row T t 1 [5, 5, 5, 1] fun | [d, a, b, t3] => chk (t3 == 0) (.add (.ofNat 5 d) (.ofNat 5 a) (.ofNat 5 b)) | _ => .illegal .tailForm
    | 1 => row T t 1 [5, 5, 5, 1] fun | [d, a, b, t3] => chk (t3 == 0) (.sub (.ofNat 5 d) (.ofNat 5 a) (.ofNat 5 b)) | _ => .illegal .tailForm
    | 2 => row T t 1 [5, 5, 5, 1] fun | [d, a, b, t3] => chk (t3 == 0) (.mul (.ofNat 5 d) (.ofNat 5 a) (.ofNat 5 b)) | _ => .illegal .tailForm
    | 3 => row T t 1 [5, 5, 5, 1] fun | [d, a, b, t3] => chk (t3 == 0) (.mulh (.ofNat 5 d) (.ofNat 5 a) (.ofNat 5 b)) | _ => .illegal .tailForm
    | 4 => row T t 1 [5, 5, 5, 1] fun | [d, a, b, t3] => chk (t3 == 0) (.mulhn (.ofNat 5 d) (.ofNat 5 a) (.ofNat 5 b)) | _ => .illegal .tailForm
    | 5 => row T t 2 [5, 5, 5, 5, 4, 8] fun | [d, a, b, t3, la, t5] => chk (t3 == 0 && t5 == 0) (.div (.ofNat 5 d) (.ofNat 5 a) (.ofNat 5 b) (.ofNat 4 la)) | _ => .illegal .tailForm
    | 6 => row T t 2 [5, 5, 5, 5, 4, 8] fun | [d, a, b, t3, la, t5] => chk (t3 == 0 && t5 == 0) (.divn (.ofNat 5 d) (.ofNat 5 a) (.ofNat 5 b) (.ofNat 4 la)) | _ => .illegal .tailForm
    | 7 => row T t 2 [5, 5, 5, 5, 4, 8] fun | [d, a, b, t3, la, t5] => chk (t3 == 0 && t5 == 0) (.rem (.ofNat 5 d) (.ofNat 5 a) (.ofNat 5 b) (.ofNat 4 la)) | _ => .illegal .tailForm
    | 8 => row T t 2 [5, 5, 5, 5, 4, 8] fun | [d, a, b, t3, la, t5] => chk (t3 == 0 && t5 == 0) (.remn (.ofNat 5 d) (.ofNat 5 a) (.ofNat 5 b) (.ofNat 4 la)) | _ => .illegal .tailForm
    | 9 => row T t 1 [5, 5, 5, 1] fun | [d, a, b, t3] => chk (t3 == 0) (.min (.ofNat 5 d) (.ofNat 5 a) (.ofNat 5 b)) | _ => .illegal .tailForm
    | 10 => row T t 1 [5, 5, 5, 1] fun | [d, a, b, t3] => chk (t3 == 0) (.max (.ofNat 5 d) (.ofNat 5 a) (.ofNat 5 b)) | _ => .illegal .tailForm
    | 11 => row T t 1 [5, 5, 5, 1] fun | [d, a, b, t3] => chk (t3 == 0) (.minn (.ofNat 5 d) (.ofNat 5 a) (.ofNat 5 b)) | _ => .illegal .tailForm
    | 12 => row T t 1 [5, 5, 5, 1] fun | [d, a, b, t3] => chk (t3 == 0) (.maxn (.ofNat 5 d) (.ofNat 5 a) (.ofNat 5 b)) | _ => .illegal .tailForm
    | 13 => row T t 1 [5, 5, 5, 1] fun | [d, a, b, t3] => chk (t3 == 0) (.and (.ofNat 5 d) (.ofNat 5 a) (.ofNat 5 b)) | _ => .illegal .tailForm
    | 14 => row T t 1 [5, 5, 5, 1] fun | [d, a, b, t3] => chk (t3 == 0) (.or (.ofNat 5 d) (.ofNat 5 a) (.ofNat 5 b)) | _ => .illegal .tailForm
    | 15 => row T t 1 [5, 5, 5, 1] fun | [d, a, b, t3] => chk (t3 == 0) (.xor (.ofNat 5 d) (.ofNat 5 a) (.ofNat 5 b)) | _ => .illegal .tailForm
    | 16 => row T t 1 [5, 5, 5, 1] fun | [d, a, b, t3] => chk (t3 == 0) (.andn (.ofNat 5 d) (.ofNat 5 a) (.ofNat 5 b)) | _ => .illegal .tailForm
    | 17 => row T t 1 [5, 5, 5, 1] fun | [d, a, b, t3] => chk (t3 == 0) (.shl (.ofNat 5 d) (.ofNat 5 a) (.ofNat 5 b)) | _ => .illegal .tailForm
    | 18 => row T t 1 [5, 5, 5, 1] fun | [d, a, b, t3] => chk (t3 == 0) (.shr (.ofNat 5 d) (.ofNat 5 a) (.ofNat 5 b)) | _ => .illegal .tailForm
    | 19 => row T t 1 [5, 5, 5, 1] fun | [d, a, b, t3] => chk (t3 == 0) (.sar (.ofNat 5 d) (.ofNat 5 a) (.ofNat 5 b)) | _ => .illegal .tailForm
    | 20 => row T t 1 [5, 5, 5, 1] fun | [d, a, b, t3] => chk (t3 == 0) (.rol (.ofNat 5 d) (.ofNat 5 a) (.ofNat 5 b)) | _ => .illegal .tailForm
    | 21 => row T t 1 [5, 5, 5, 1] fun | [d, a, b, t3] => chk (t3 == 0) (.addx (.ofNat 5 d) (.ofNat 5 a) (.ofNat 5 b)) | _ => .illegal .tailForm
    | 22 => row T t 1 [5, 5, 5, 1] fun | [d, a, b, t3] => chk (t3 == 0) (.sel (.ofNat 5 d) (.ofNat 5 a) (.ofNat 5 b)) | _ => .illegal .tailForm
    | _ => .illegal .unassignedFunction
  | _ => .illegal .unassignedFunction

/-- Major 0x02 (03 R76). -/
def major02 (T m t : Nat) : Decoded :=
  match unpack [7] m with
  | [fn] =>
    match fn with
    | 0 => row T t 1 [5, 5, 5, 1] fun | [d, a, t2, t3] => chk (t2 == 0 && t3 == 0) (.mov (.ofNat 5 d) (.ofNat 5 a)) | _ => .illegal .tailForm
    | 1 => row T t 1 [5, 5, 5, 1] fun | [d, a, t2, t3] => chk (t2 == 0 && t3 == 0) (.neg (.ofNat 5 d) (.ofNat 5 a)) | _ => .illegal .tailForm
    | 2 => row T t 1 [5, 5, 5, 1] fun | [d, a, t2, t3] => chk (t2 == 0 && t3 == 0) (.abs (.ofNat 5 d) (.ofNat 5 a)) | _ => .illegal .tailForm
    | 3 => row T t 1 [5, 5, 5, 1] fun | [d, a, t2, t3] => chk (t2 == 0 && t3 == 0) (.clz (.ofNat 5 d) (.ofNat 5 a)) | _ => .illegal .tailForm
    | 4 => row T t 1 [5, 5, 5, 1] fun | [d, a, t2, t3] => chk (t2 == 0 && t3 == 0) (.ctz (.ofNat 5 d) (.ofNat 5 a)) | _ => .illegal .tailForm
    | 5 => row T t 1 [5, 5, 5, 1] fun | [d, a, t2, t3] => chk (t2 == 0 && t3 == 0) (.popc (.ofNat 5 d) (.ofNat 5 a)) | _ => .illegal .tailForm
    | 6 => row T t 1 [5, 5, 5, 1] fun | [d, a, t2, t3] => chk (t2 == 0 && t3 == 0) (.bswap (.ofNat 5 d) (.ofNat 5 a)) | _ => .illegal .tailForm
    | 8 => row T t 1 [5, 5, 5, 1] fun | [d, a, t2, t3] => chk (t2 == 0 && t3 == 0) (.sextI8 (.ofNat 5 d) (.ofNat 5 a)) | _ => .illegal .tailForm
    | 9 => row T t 1 [5, 5, 5, 1] fun | [d, a, t2, t3] => chk (t2 == 0 && t3 == 0) (.sextI16 (.ofNat 5 d) (.ofNat 5 a)) | _ => .illegal .tailForm
    | 10 => row T t 1 [5, 5, 5, 1] fun | [d, a, t2, t3] => chk (t2 == 0 && t3 == 0) (.sextI32 (.ofNat 5 d) (.ofNat 5 a)) | _ => .illegal .tailForm
    | 12 => row T t 1 [5, 5, 5, 1] fun | [d, a, t2, t3] => chk (t2 == 0 && t3 == 0) (.zextN8 (.ofNat 5 d) (.ofNat 5 a)) | _ => .illegal .tailForm
    | 13 => row T t 1 [5, 5, 5, 1] fun | [d, a, t2, t3] => chk (t2 == 0 && t3 == 0) (.zextN16 (.ofNat 5 d) (.ofNat 5 a)) | _ => .illegal .tailForm
    | 14 => row T t 1 [5, 5, 5, 1] fun | [d, a, t2, t3] => chk (t2 == 0 && t3 == 0) (.zextN32 (.ofNat 5 d) (.ofNat 5 a)) | _ => .illegal .tailForm
    | _ => .illegal .unassignedFunction
  | _ => .illegal .unassignedFunction

/-- Major 0x03 (03 R76). -/
def major03 (T m t : Nat) : Decoded :=
  match unpack [7] m with
  | [fn] =>
    match fn with
    | 0 => row T t 2 [5, 5, 22] fun | [d, a, imm] => chk (true) (.addi (.ofNat 5 d) (.ofNat 5 a) (.ofNat 22 imm)) | _ => .illegal .tailForm
    | 1 => if T = 2 then row T t 2 [5, 5, 22] fun | [d, t1, imm] => chk (t1 == 0) (.li (.ofNat 5 d) (.ofNat 22 imm)) | _ => .illegal .tailForm
        else row T t 3 [5, 5, 22, 32] fun | [d, t1, t2, imm] => chk (t1 == 0 && t2 == 0) (.liG (.ofNat 5 d) (.ofNat 32 imm)) | _ => .illegal .tailForm
    | 2 => row T t 3 [5, 5, 22, 32] fun | [d, a, t2, imm] => chk (t2 == 0) (.lih (.ofNat 5 d) (.ofNat 5 a) (.ofNat 32 imm)) | _ => .illegal .tailForm
    | _ => .illegal .unassignedFunction
  | _ => .illegal .unassignedFunction

/-- Major 0x04 (03 R76). -/
def major04 (T m t : Nat) : Decoded :=
  match unpack [7] m with
  | [fn] =>
    match fn with
    | 0 => row T t 2 [5, 5, 9, 1, 6, 6] fun | [d, a, t2, s, pos, len1] => chk (t2 == 0) (.bfx (.ofNat 5 d) (.ofNat 5 a) (s == 1) (.ofNat 6 pos) (.ofNat 6 len1)) | _ => .illegal .tailForm
    | 1 => row T t 2 [5, 5, 9, 1, 6, 6] fun | [d, a, t2, t3, pos, len1] => chk (t2 == 0 && t3 == 0) (.bfi (.ofNat 5 d) (.ofNat 5 a) (.ofNat 6 pos) (.ofNat 6 len1)) | _ => .illegal .tailForm
    | _ => .illegal .unassignedFunction
  | _ => .illegal .unassignedFunction

/-- Major 0x05 (03 R76). -/
def major05 (T m t : Nat) : Decoded :=
  match unpack [2, 3, 2] m with
  | [m0, m1, fn] =>
    match fn with
    | 0 => row T t 1 [5, 5, 5, 1] fun | [t0, a, b, t3] => chk (t0 == 0 && t3 == 0) (.cmp (.ofNat 2 m0) (.ofNat 3 m1) (.ofNat 5 a) (.ofNat 5 b)) | _ => .illegal .tailForm
    | _ => .illegal .unassignedFunction
  | _ => .illegal .unassignedFunction

/-- Major 0x06 (03 R76). -/
def major06 (T m t : Nat) : Decoded :=
  match unpack [2, 3, 2] m with
  | [m0, m1, fn] =>
    match fn with
    | 0 => row T t 2 [5, 5, 22] fun | [t0, a, imm] => chk (t0 == 0) (.cmpi (.ofNat 2 m0) (.ofNat 3 m1) (.ofNat 5 a) (.ofNat 22 imm)) | _ => .illegal .tailForm
    | 1 => row T t 1 [5, 5, 5, 1] fun | [t0, a, b, t3] => chk (t0 == 0 && t3 == 0) (.tst (.ofNat 2 m0) (.ofNat 3 m1) (.ofNat 5 a) (.ofNat 5 b)) | _ => .illegal .tailForm
    | _ => .illegal .unassignedFunction
  | _ => .illegal .unassignedFunction

/-- Major 0x07 (03 R76). -/
def major07 (T m t : Nat) : Decoded :=
  match unpack [3, 1, 3] m with
  | [m0, fn, m2] =>
    match fn with
    | 0 => row T t 2 [8, 2, 22] fun | [sig, t1, tgt] => chk (m0 == 0 && m2 == 0 && t1 == 0) (.br (.ofNat 8 sig) (.ofNat 22 tgt)) | _ => .illegal .tailForm
    | 1 => row T t 2 [8, 2, 22] fun | [sig, t1, tgt] => chk (m0 == 0 && t1 == 0) (.brc (.ofNat 3 m2) (.ofNat 8 sig) (.ofNat 22 tgt)) | _ => .illegal .tailForm
    | _ => .illegal .unassignedFunction
  | _ => .illegal .unassignedFunction

/-- Major 0x08 (03 R76). -/
def major08 (T m t : Nat) : Decoded :=
  match unpack [7] m with
  | [fn] =>
    match fn with
    | 0 => row T t 2 [8, 2, 22] fun | [sig, t1, tgt] => chk (t1 == 0) (.jmp (.ofNat 8 sig) (.ofNat 22 tgt)) | _ => .illegal .tailForm
    | 1 => row T t 2 [8, 2, 22] fun | [sig, t1, tgt] => chk (t1 == 0) (.call (.ofNat 8 sig) (.ofNat 22 tgt)) | _ => .illegal .tailForm
    | 2 => row T t 1 [8, 5, 3] fun | [sig, a, t2] => chk (t2 == 0) (.callr (.ofNat 8 sig) (.ofNat 5 a)) | _ => .illegal .tailForm
    | 3 => row T t 1 [8, 5, 3] fun | [sig, a, t2] => chk (t2 == 0) (.ret (.ofNat 8 sig) (.ofNat 5 a)) | _ => .illegal .tailForm
    | _ => .illegal .unassignedFunction
  | _ => .illegal .unassignedFunction

/-- Major 0x0E (03 R76). -/
def major0E (T m t : Nat) : Decoded :=
  match unpack [7] m with
  | [fn] =>
    match fn with
    | 0 => bare T (chk (true) (.nop))
    | _ => .illegal .unassignedFunction
  | _ => .illegal .unassignedFunction

/-- Major 0x09 (03 R76). -/
def major09 (T m t : Nat) : Decoded :=
  match unpack [7] m with
  | [fn] =>
    match fn with
    | 0 => row T t 3 [8, 8, 5, 5, 22, 16] fun | [sig, sigb, a, len, inc, t5] => chk (t5 == 0) (.loop (.ofNat 8 sig) (.ofNat 8 sigb) (.ofNat 5 a) (.ofNat 5 len) (.ofNat 22 inc)) | _ => .illegal .tailForm
    | 1 => row T t 3 [8, 8, 5, 5, 22, 16] fun | [sig, sigb, t2, len, inc, cnt] => chk (t2 == 0) (.loopi (.ofNat 8 sig) (.ofNat 8 sigb) (.ofNat 5 len) (.ofNat 22 inc) (.ofNat 16 cnt)) | _ => .illegal .tailForm
    | _ => .illegal .unassignedFunction
  | _ => .illegal .unassignedFunction

/-- Major 0x0A (03 R76). -/
def major0A (T m t : Nat) : Decoded :=
  match unpack [3, 4] m with
  | [m0, fn] =>
    match fn with
    | 0 => row T t 1 [5, 5, 5, 1] fun | [d, a, b, t3] => chk (t3 == 0) (.fadd (.ofNat 3 m0) (.ofNat 5 d) (.ofNat 5 a) (.ofNat 5 b)) | _ => .illegal .tailForm
    | 1 => row T t 1 [5, 5, 5, 1] fun | [d, a, b, t3] => chk (t3 == 0) (.fsub (.ofNat 3 m0) (.ofNat 5 d) (.ofNat 5 a) (.ofNat 5 b)) | _ => .illegal .tailForm
    | 2 => row T t 1 [5, 5, 5, 1] fun | [d, a, b, t3] => chk (t3 == 0) (.fmul (.ofNat 3 m0) (.ofNat 5 d) (.ofNat 5 a) (.ofNat 5 b)) | _ => .illegal .tailForm
    | 3 => row T t 1 [5, 5, 5, 1] fun | [d, a, b, t3] => chk (t3 == 0) (.ffma (.ofNat 3 m0) (.ofNat 5 d) (.ofNat 5 a) (.ofNat 5 b)) | _ => .illegal .tailForm
    | 4 => row T t 2 [5, 5, 5, 5, 4, 8] fun | [d, a, b, t3, la, t5] => chk (t3 == 0 && t5 == 0) (.fdiv (.ofNat 3 m0) (.ofNat 5 d) (.ofNat 5 a) (.ofNat 5 b) (.ofNat 4 la)) | _ => .illegal .tailForm
    | 5 => row T t 2 [5, 5, 5, 5, 4, 8] fun | [d, a, t2, t3, la, t5] => chk (t2 == 0 && t3 == 0 && t5 == 0) (.fsqrt (.ofNat 3 m0) (.ofNat 5 d) (.ofNat 5 a) (.ofNat 4 la)) | _ => .illegal .tailForm
    | 6 => row T t 1 [5, 5, 5, 1] fun | [d, a, b, t3] => chk (t3 == 0) (.fmin (.ofNat 3 m0) (.ofNat 5 d) (.ofNat 5 a) (.ofNat 5 b)) | _ => .illegal .tailForm
    | 7 => row T t 1 [5, 5, 5, 1] fun | [d, a, b, t3] => chk (t3 == 0) (.fmax (.ofNat 3 m0) (.ofNat 5 d) (.ofNat 5 a) (.ofNat 5 b)) | _ => .illegal .tailForm
    | 8 => row T t 1 [5, 5, 5, 1] fun | [d, a, t2, t3] => chk (t2 == 0 && t3 == 0) (.fabs (.ofNat 3 m0) (.ofNat 5 d) (.ofNat 5 a)) | _ => .illegal .tailForm
    | 9 => row T t 1 [5, 5, 5, 1] fun | [d, a, t2, t3] => chk (t2 == 0 && t3 == 0) (.fneg (.ofNat 3 m0) (.ofNat 5 d) (.ofNat 5 a)) | _ => .illegal .tailForm
    | 10 => row T t 1 [5, 5, 5, 1] fun | [d, a, t2, t3] => chk (t2 == 0 && t3 == 0) (.fclass (.ofNat 3 m0) (.ofNat 5 d) (.ofNat 5 a)) | _ => .illegal .tailForm
    | _ => .illegal .unassignedFunction
  | _ => .illegal .unassignedFunction

/-- Major 0x0B (03 R76). -/
def major0B (T m t : Nat) : Decoded :=
  match unpack [2, 3, 2] m with
  | [m0, m1, m2] =>
    row T t 1 [5, 5, 5, 1] fun | [t0, a, b, t3] => chk (t0 == 0 && t3 == 0) (.fcmp (.ofNat 2 m0) (.ofNat 3 m1) (.ofNat 2 m2) (.ofNat 5 a) (.ofNat 5 b)) | _ => .illegal .tailForm
  | _ => .illegal .unassignedFunction

/-- Major 0x0C (03 R76). -/
def major0C (T m t : Nat) : Decoded :=
  match unpack [2, 5] m with
  | [fn, m1] =>
    match fn with
    | 0 => row T t 2 [5, 5, 5, 5, 4, 5, 3] fun | [d, a, t2, t3, t4, dst, t6] => chk (t2 == 0 && t3 == 0 && t4 == 0 && t6 == 0) (.fcvt (.ofNat 5 m1) (.ofNat 5 dst) (.ofNat 5 d) (.ofNat 5 a)) | _ => .illegal .tailForm
    | _ => .illegal .unassignedFunction
  | _ => .illegal .unassignedFunction

/-- Major 0x0D (03 R76). -/
def major0D (T m t : Nat) : Decoded :=
  match unpack [7] m with
  | [fn] =>
    match fn with
    | 0 => row T t 2 [5, 5, 22] fun | [d, t1, n] => chk (t1 == 0) (.topo (.ofNat 5 d) (.ofNat 22 n)) | _ => .illegal .tailForm
    | 1 => row T t 2 [5, 5, 22] fun | [d, t1, n] => chk (t1 == 0) (.capr (.ofNat 5 d) (.ofNat 22 n)) | _ => .illegal .tailForm
    | 2 => row T t 2 [5, 5, 10, 12] fun | [d, t1, t2, n] => chk (t1 == 0 && t2 == 0) (.srd (.ofNat 5 d) (.ofNat 12 n)) | _ => .illegal .tailForm
    | 3 => row T t 2 [5, 5, 10, 12] fun | [d, a, z, n] => chk (d == 0 && z == 0) (sysWrite (.ofNat 5 a) n) | _ => .illegal .tailForm
    | 4 => row T t 2 [5, 5, 22] fun | [d, t1, n] => chk (t1 == 0) (.perfr (.ofNat 5 d) (.ofNat 22 n)) | _ => .illegal .tailForm
    | 5 => row T t 1 [5, 5, 5, 1] fun | [d, a, b, t3] => chk (t3 == 0) (.rndk (.ofNat 5 d) (.ofNat 5 a) (.ofNat 5 b)) | _ => .illegal .tailForm
    | _ => .illegal .unassignedFunction
  | _ => .illegal .unassignedFunction

/-- Major 0x0F (03 R76). -/
def major0F (T m t : Nat) : Decoded :=
  match unpack [7] m with
  | [fn] =>
    match fn with
    | 0 => row T t 2 [5, 5, 13, 9] fun | [t0, t1, t2, code] => chk (t0 == 0 && t1 == 0 && t2 == 0) (.trap (.ofNat 9 code)) | _ => .illegal .tailForm
    | 1 => row T t 1 [8, 5, 3] fun | [sig, a, t2] => chk (t2 == 0) (.rett (.ofNat 8 sig) (.ofNat 5 a)) | _ => .illegal .tailForm
    | 2 => row T t 2 [5, 5, 18, 4] fun | [t0, a, t2, g] => chk (t0 == 0 && t2 == 0) (.seth (.ofNat 5 a) (.ofNat 4 g)) | _ => .illegal .tailForm
    | 3 => row T t 1 [5, 5, 5, 1] fun | [d, a, t2, t3] => chk (t2 == 0 && t3 == 0) (.cause (.ofNat 5 d) (.ofNat 5 a)) | _ => .illegal .tailForm
    | 4 => row T t 2 [5, 5, 20, 1, 1] fun | [t0, t1, t2, t3, t4] => if t0 == 0 && t1 == 0 && t2 == 0 && t3 == 0 then .ok (.smode (t4 == 1)) else if t0 == 0 && t1 == 0 && t2 == 0 && t3 == 1 then .ok (.smodeServed (t4 == 1)) else .illegal .reservedField | _ => .illegal .tailForm
    | _ => .illegal .unassignedFunction
  | _ => .illegal .unassignedFunction

/-- Major 0x10 (03 R76). -/
def major10 (T m t : Nat) : Decoded :=
  match unpack [2, 1, 1, 3] m with
  | [m0, m1, m2, fn] =>
    match fn with
    | 0 => row T t 2 [5, 5, 4, 18] fun | [d, a, la, off] => chk (true) (.ld (.ofNat 2 m0) (m1 == 1) (m2 == 1) (.ofNat 5 d) (.ofNat 5 a) (.ofNat 4 la) (.ofNat 18 off)) | _ => .illegal .tailForm
    | 1 => row T t 2 [5, 5, 4, 18] fun | [d, a, t2, off] => chk (m1 == 0 && t2 == 0) (.st (.ofNat 2 m0) (m2 == 1) (.ofNat 5 d) (.ofNat 5 a) (.ofNat 18 off)) | _ => .illegal .tailForm
    | _ => .illegal .unassignedFunction
  | _ => .illegal .unassignedFunction

/-- Major 0x11 (03 R76). -/
def major11 (T m t : Nat) : Decoded :=
  match unpack [2, 1, 1, 3] m with
  | [m0, m1, m2, fn] =>
    match fn with
    | 0 => row T t 2 [5, 5, 4, 18] fun | [d, a, la, off] => chk (m0 == 0 && m1 == 0) (.ldv (m2 == 1) (.ofNat 5 d) (.ofNat 5 a) (.ofNat 4 la) (.ofNat 18 off)) | _ => .illegal .tailForm
    | 1 => row T t 2 [5, 5, 4, 18] fun | [d, a, t2, off] => chk (m0 == 0 && m1 == 0 && t2 == 0) (.stv (m2 == 1) (.ofNat 5 d) (.ofNat 5 a) (.ofNat 18 off)) | _ => .illegal .tailForm
    | _ => .illegal .unassignedFunction
  | _ => .illegal .unassignedFunction

/-- Major 0x12 (03 R76). -/
def major12 (T m t : Nat) : Decoded :=
  match unpack [2, 1, 1, 3] m with
  | [m0, m1, m2, fn] =>
    match fn with
    | 0 => row T t 2 [5, 5, 5, 5, 4, 6, 2] fun | [d, a, b, t3, la, t5, s] => chk (t3 == 0 && t5 == 0) (.ldg (.ofNat 2 m0) (m1 == 1) (m2 == 1) (.ofNat 5 d) (.ofNat 5 a) (.ofNat 5 b) (.ofNat 4 la) (.ofNat 2 s)) | _ => .illegal .tailForm
    | 1 => row T t 2 [5, 5, 5, 5, 4, 6, 2] fun | [d, a, b, t3, t4, t5, s] => chk (m1 == 0 && t3 == 0 && t4 == 0 && t5 == 0) (.stg (.ofNat 2 m0) (m2 == 1) (.ofNat 5 d) (.ofNat 5 a) (.ofNat 5 b) (.ofNat 2 s)) | _ => .illegal .tailForm
    | _ => .illegal .unassignedFunction
  | _ => .illegal .unassignedFunction

/-- Major 0x13 (03 R76). -/
def major13 (T m t : Nat) : Decoded :=
  match unpack [2, 1, 1, 3] m with
  | [m0, m1, m2, fn] =>
    match fn with
    | 0 => row T t 2 [5, 5, 5, 5, 4, 8] fun | [d, a, b, t3, la, t5] => chk (m2 == 0 && t3 == 0 && t5 == 0) (.lda (.ofNat 2 m0) (m1 == 1) (.ofNat 5 d) (.ofNat 5 a) (.ofNat 5 b) (.ofNat 4 la)) | _ => .illegal .tailForm
    | 1 => row T t 2 [5, 5, 5, 5, 4, 8] fun | [d, a, b, t3, t4, t5] => chk (m1 == 0 && m2 == 0 && t3 == 0 && t4 == 0 && t5 == 0) (.stl (.ofNat 2 m0) (.ofNat 5 d) (.ofNat 5 a) (.ofNat 5 b)) | _ => .illegal .tailForm
    | _ => .illegal .unassignedFunction
  | _ => .illegal .unassignedFunction

/-- Major 0x14 (03 R76). -/
def major14 (T m t : Nat) : Decoded :=
  match unpack [1, 1, 1, 4] m with
  | [m0, m1, m2, fn] =>
    match fn with
    | 0 => row T t 2 [5, 5, 5, 5, 4, 8] fun | [d, a, b, t3, la, t5] => chk (m0 == 1 && t3 == 0 && t5 == 0) (.atomAdd (m1 == 1) (m2 == 1) (.ofNat 5 d) (.ofNat 5 a) (.ofNat 5 b) (.ofNat 4 la)) | _ => .illegal .tailForm
    | 1 => row T t 2 [5, 5, 5, 5, 4, 8] fun | [d, a, b, t3, la, t5] => chk (m0 == 1 && t3 == 0 && t5 == 0) (.atomAnd (m1 == 1) (m2 == 1) (.ofNat 5 d) (.ofNat 5 a) (.ofNat 5 b) (.ofNat 4 la)) | _ => .illegal .tailForm
    | 2 => row T t 2 [5, 5, 5, 5, 4, 8] fun | [d, a, b, t3, la, t5] => chk (m0 == 1 && t3 == 0 && t5 == 0) (.atomOr (m1 == 1) (m2 == 1) (.ofNat 5 d) (.ofNat 5 a) (.ofNat 5 b) (.ofNat 4 la)) | _ => .illegal .tailForm
    | 3 => row T t 2 [5, 5, 5, 5, 4, 8] fun | [d, a, b, t3, la, t5] => chk (m0 == 1 && t3 == 0 && t5 == 0) (.atomXor (m1 == 1) (m2 == 1) (.ofNat 5 d) (.ofNat 5 a) (.ofNat 5 b) (.ofNat 4 la)) | _ => .illegal .tailForm
    | 4 => row T t 2 [5, 5, 5, 5, 4, 8] fun | [d, a, b, t3, la, t5] => chk (m0 == 1 && t3 == 0 && t5 == 0) (.atomMin (m1 == 1) (m2 == 1) (.ofNat 5 d) (.ofNat 5 a) (.ofNat 5 b) (.ofNat 4 la)) | _ => .illegal .tailForm
    | 5 => row T t 2 [5, 5, 5, 5, 4, 8] fun | [d, a, b, t3, la, t5] => chk (m0 == 1 && t3 == 0 && t5 == 0) (.atomMax (m1 == 1) (m2 == 1) (.ofNat 5 d) (.ofNat 5 a) (.ofNat 5 b) (.ofNat 4 la)) | _ => .illegal .tailForm
    | 6 => row T t 2 [5, 5, 5, 5, 4, 8] fun | [d, a, b, t3, la, t5] => chk (m0 == 1 && t3 == 0 && t5 == 0) (.atomSwap (m1 == 1) (m2 == 1) (.ofNat 5 d) (.ofNat 5 a) (.ofNat 5 b) (.ofNat 4 la)) | _ => .illegal .tailForm
    | 7 => row T t 2 [5, 5, 5, 5, 4, 8] fun | [d, a, b, c, la, t5] => chk (m0 == 1 && t5 == 0) (.atomCas (m1 == 1) (m2 == 1) (.ofNat 5 d) (.ofNat 5 a) (.ofNat 5 b) (.ofNat 5 c) (.ofNat 4 la)) | _ => .illegal .tailForm
    | _ => .illegal .unassignedFunction
  | _ => .illegal .unassignedFunction

/-- Major 0x15 (03 R76). -/
def major15 (T m t : Nat) : Decoded :=
  match unpack [7] m with
  | [fn] =>
    match fn with
    | 0 => row T t 2 [5, 5, 5, 5, 4, 4, 4] fun | [t0, a, b, t3, t4, k, n] => chk (t0 == 0 && t3 == 0 && t4 == 0) (.raddF32 (.ofNat 5 a) (.ofNat 5 b) (.ofNat 4 k) (.ofNat 4 n)) | _ => .illegal .tailForm
    | 1 => row T t 2 [5, 5, 5, 5, 4, 4, 4] fun | [t0, a, b, t3, t4, k, n] => chk (t0 == 0 && t3 == 0 && t4 == 0) (.raddB16 (.ofNat 5 a) (.ofNat 5 b) (.ofNat 4 k) (.ofNat 4 n)) | _ => .illegal .tailForm
    | _ => .illegal .unassignedFunction
  | _ => .illegal .unassignedFunction

/-- Major 0x18 (03 R76). -/
def major18 (T m t : Nat) : Decoded :=
  match unpack [2, 1, 1, 3] m with
  | [m0, m1, m2, fn] =>
    match fn with
    | 0 => row T t 2 [5, 5, 4, 18] fun | [d, a, t2, off] => chk (m0 == 1 && m1 == 1 && t2 == 0) (.ldmeta (m2 == 1) (.ofNat 5 d) (.ofNat 5 a) (.ofNat 18 off)) | _ => .illegal .tailForm
    | 1 => row T t 2 [5, 5, 4, 18] fun | [d, a, t2, off] => chk (m0 == 1 && m1 == 1 && t2 == 0) (.stmeta (m2 == 1) (.ofNat 5 d) (.ofNat 5 a) (.ofNat 18 off)) | _ => .illegal .tailForm
    | 2 => row T t 2 [5, 5, 4, 18] fun | [t0, a, t2, off] => chk (m1 == 0 && m2 == 0 && t0 == 0 && t2 == 0) (.pref (.ofNat 2 m0) (.ofNat 5 a) (.ofNat 18 off)) | _ => .illegal .tailForm
    | _ => .illegal .unassignedFunction
  | _ => .illegal .unassignedFunction

/-- Major 0x16 (03 R76). -/
def major16 (T m t : Nat) : Decoded :=
  match unpack [7] m with
  | [fn] =>
    match fn with
    | 0 => row T t 3 [5, 5, 5, 5, 4, 12, 4, 4, 4, 2, 1, 2, 11] fun | [t0, a, b, t3, t4, rltn, rcore, rk, lk, cm, t10, t11, len] => chk (t0 == 0 && t3 == 0 && t4 == 0 && t10 == 0 && t11 == 0) (.put (.ofNat 5 a) (.ofNat 5 b) ⟨.ofNat 12 rltn, .ofNat 4 rcore, .ofNat 4 rk, .ofNat 4 lk, .ofNat 2 cm⟩ (.ofNat 11 len)) | _ => .illegal .tailForm
    | 1 => row T t 3 [5, 5, 5, 5, 4, 12, 4, 4, 4, 2, 1, 2, 11] fun | [t0, t1, t2, t3, t4, t5, t6, t7, t8, t9, t10, t11, t12] => if t0 == 0 && t3 == 0 && t4 == 0 && t10 == 0 && t11 == 0 then .ok (.get (.ofNat 5 t1) (.ofNat 5 t2) ⟨.ofNat 12 t5, .ofNat 4 t6, .ofNat 4 t7, .ofNat 4 t8, .ofNat 2 t9⟩ (.ofNat 11 t12)) else if t0 == 0 && t4 == 0 && t10 == 1 && t12 < 128 then .ok (.getTransposed (.ofNat 5 t1) (.ofNat 5 t2) (.ofNat 5 t3) ⟨.ofNat 12 t5, .ofNat 4 t6, .ofNat 4 t7, .ofNat 4 t8, .ofNat 2 t9⟩ (.ofNat 2 t11) (.ofNat 7 t12)) else .illegal .reservedField | _ => .illegal .tailForm
    | 2 => row T t 3 [5, 5, 5, 5, 4, 12, 4, 4, 4, 2, 1, 2, 11] fun | [d, a, b, c, t4, rltn, rcore, rk, lk, cm, t10, t11, len] => chk (t4 == 0 && t10 == 0 && t11 == 0) (.putn (.ofNat 5 d) (.ofNat 5 a) (.ofNat 5 b) (.ofNat 5 c) ⟨.ofNat 12 rltn, .ofNat 4 rcore, .ofNat 4 rk, .ofNat 4 lk, .ofNat 2 cm⟩ (.ofNat 11 len)) | _ => .illegal .tailForm
    | 3 => row T t 3 [5, 5, 5, 5, 4, 12, 4, 4, 4, 2, 1, 2, 11] fun | [d, a, b, c, t4, rltn, rcore, rk, lk, cm, t10, t11, len] => chk (t4 == 0 && t10 == 0 && t11 == 0) (.getn (.ofNat 5 d) (.ofNat 5 a) (.ofNat 5 b) (.ofNat 5 c) ⟨.ofNat 12 rltn, .ofNat 4 rcore, .ofNat 4 rk, .ofNat 4 lk, .ofNat 2 cm⟩ (.ofNat 11 len)) | _ => .illegal .tailForm
    | _ => .illegal .unassignedFunction
  | _ => .illegal .unassignedFunction

/-- Major 0x17 (03 R76). -/
def major17 (T m t : Nat) : Decoded :=
  match unpack [7] m with
  | [fn] =>
    match fn with
    | 0 => row T t 2 [5, 5, 5, 5, 4, 4, 4] fun | [d, a, t2, t3, t4, t5, k] => chk (t2 == 0 && t3 == 0 && t4 == 0 && t5 == 0) (.waitk (.ofNat 5 d) (.ofNat 5 a) (.ofNat 4 k)) | _ => .illegal .tailForm
    | 1 => row T t 2 [5, 5, 5, 5, 4, 7, 1] fun | [d, a, b, t3, t4, t5, q] => chk (t3 == 0 && t4 == 0 && t5 == 0) (.waita (.ofNat 5 d) (.ofNat 5 a) (.ofNat 5 b) (q == 1)) | _ => .illegal .tailForm
    | _ => .illegal .unassignedFunction
  | _ => .illegal .unassignedFunction

/-- Major 0x19 (03 R76). -/
def major19 (T m t : Nat) : Decoded :=
  match unpack [7] m with
  | [fn] =>
    match fn with
    | 0 => row T t 1 [5, 5, 5, 1] fun | [t0, a, t2, t3] => chk (t0 == 0 && t2 == 0 && t3 == 0) (.fenceR (.ofNat 5 a)) | _ => .illegal .tailForm
    | 1 => row T t 2 [5, 5, 16, 6] fun | [t0, t1, t2, obs] => chk (t0 == 0 && t1 == 0 && t2 == 0) (.fenceO (.ofNat 6 obs)) | _ => .illegal .tailForm
    | 2 => row T t 2 [5, 5, 8, 6, 2, 6] fun | [t0, t1, t2, src, t4, dst] => chk (t0 == 0 && t1 == 0 && t2 == 0 && t4 == 0) (.fenceX (.ofNat 6 src) (.ofNat 6 dst)) | _ => .illegal .tailForm
    | 3 => bare T (chk (true) (.fenceL))
    | _ => .illegal .unassignedFunction
  | _ => .illegal .unassignedFunction

/-- Major 0x1A (03 R76). -/
def major1A (T m t : Nat) : Decoded :=
  match unpack [7] m with
  | [fn] =>
    match fn with
    | 0 => row T t 3 [5, 5, 5, 5, 4, 18, 22] fun | [t0, a, b, t3, t4, t5, pc] => chk (t0 == 0 && t3 == 0 && t4 == 0 && t5 == 0) (.spawn (.ofNat 5 a) (.ofNat 5 b) (.ofNat 22 pc)) | _ => .illegal .tailForm
    | 1 => row T t 3 [5, 5, 5, 5, 4, 18, 22] fun | [t0, a, b, c, t4, t5, pc] => chk (t0 == 0 && t4 == 0 && t5 == 0) (.spawnS (.ofNat 5 a) (.ofNat 5 b) (.ofNat 5 c) (.ofNat 22 pc)) | _ => .illegal .tailForm
    | _ => .illegal .unassignedFunction
  | _ => .illegal .unassignedFunction

/-- Major 0x1B (03 R76). -/
def major1B (T m t : Nat) : Decoded :=
  match unpack [7] m with
  | [fn] =>
    match fn with
    | 0 => row T t 1 [8, 5, 3] fun | [sig, t1, t2] => chk (t1 == 0 && t2 == 0) (.quit (.ofNat 8 sig)) | _ => .illegal .tailForm
    | 1 => row T t 2 [8, 2, 22] fun | [t0, t1, tgt] => chk (t0 == 0 && t1 == 0) (.fork (.ofNat 22 tgt)) | _ => .illegal .tailForm
    | 2 => row T t 1 [5, 5, 5, 1] fun | [t0, a, t2, t3] => chk (t0 == 0 && t2 == 0 && t3 == 0) (.join (.ofNat 5 a)) | _ => .illegal .tailForm
    | 3 => bare T (chk (true) (.yield))
    | 4 => row T t 1 [5, 5, 5, 1] fun | [t0, a, t2, t3] => chk (t0 == 0 && t2 == 0 && t3 == 0) (.migrate (.ofNat 5 a)) | _ => .illegal .tailForm
    | _ => .illegal .unassignedFunction
  | _ => .illegal .unassignedFunction

/-- Major 0x1C (03 R76). -/
def major1C (T m t : Nat) : Decoded :=
  match unpack [7] m with
  | [fn] =>
    match fn with
    | 0 => row T t 3 [5, 5, 5, 5, 4, 14, 2, 2, 22] fun | [t0, a, b, c, t4, t5, sq, wq, pc] => chk (t0 == 0 && t4 == 0 && t5 == 0) (.task (.ofNat 5 a) (.ofNat 5 b) (.ofNat 5 c) (.ofNat 22 pc) (.ofNat 2 wq) (.ofNat 2 sq)) | _ => .illegal .tailForm
    | 1 => row T t 2 [5, 5, 1, 12, 7, 2] fun | [t0, a, rt, ltn, t4, q] => chk (t0 == 0 && t4 == 0) (.setev (.ofNat 5 a) (.ofNat 2 q) (rt == 1) (.ofNat 12 ltn)) | _ => .illegal .tailForm
    | 2 => row T t 2 [5, 5, 20, 2] fun | [t0, a, t2, q] => chk (t0 == 0 && t2 == 0) (.clrev (.ofNat 5 a) (.ofNat 2 q)) | _ => .illegal .tailForm
    | 3 => row T t 2 [5, 5, 19, 1, 2] fun | [d, a, t2, any, q] => chk (t2 == 0) (.waitev (.ofNat 5 d) (.ofNat 5 a) (.ofNat 2 q) (any == 1)) | _ => .illegal .tailForm
    | _ => .illegal .unassignedFunction
  | _ => .illegal .unassignedFunction

/-- Major 0x1D (03 R76). -/
noncomputable def major1D (T m t : Nat) : Decoded :=
  match unpack [3, 4] m with
  | [m0, fn] =>
    match fn with
    | 0 => row T t 2 [5, 5, 15, 7] fun | [t0, a, t2, b] => chk (t0 == 0 && t2 == 0) (.barcfg (.ofNat 3 m0) (.ofNat 5 a) (.ofNat 7 b)) | _ => .illegal .tailForm
    | 1 => row T t 2 [5, 5, 15, 7] fun | [t0, t1, t2, b] => chk (t0 == 0 && t1 == 0 && t2 == 0) (.bar (.ofNat 3 m0) (.ofNat 7 b)) | _ => .illegal .tailForm
    | 2 => row T t 2 [5, 5, 15, 7] fun | [d, a, t2, b] => chk (t2 == 0) (.bara (.ofNat 3 m0) (.ofNat 5 d) (.ofNat 5 a) (.ofNat 7 b)) | _ => .illegal .tailForm
    | 3 => row T t 2 [5, 5, 15, 7] fun | [d, a, t2, b] => chk (t2 == 0) (.barw (.ofNat 3 m0) (.ofNat 5 d) (.ofNat 5 a) (.ofNat 7 b)) | _ => .illegal .tailForm
    | 4 => row T t 2 [5, 5, 15, 7] fun | [d, a, t2, b] => chk (t2 == 0) (.barred (.ofNat 3 m0) (.ofNat 5 d) (.ofNat 5 a) (.ofNat 7 b)) | _ => .illegal .tailForm
    | _ => .illegal .unassignedFunction
  | _ => .illegal .unassignedFunction

/-- Major 0x1E (03 R76). -/
noncomputable def major1E (T m t : Nat) : Decoded :=
  match unpack [7] m with
  | [fn] =>
    match fn with
    | 0 => row T t 2 [5, 5, 5, 5, 4, 2, 6] fun | [t0, a, b, t3, t4, t5, n] => chk (t0 == 0 && t3 == 0 && t4 == 0 && t5 == 0) (.send (.ofNat 5 a) (.ofNat 5 b) (.ofNat 6 n)) | _ => .illegal .tailForm
    | 1 => row T t 2 [5, 5, 5, 5, 4, 6, 2] fun | [t0, a, b, t3, t4, t5, r] => chk (t0 == 0 && t3 == 0 && t4 == 0 && t5 == 0) (.sendv (.ofNat 5 a) (.ofNat 5 b) (.ofNat 2 r)) | _ => .illegal .tailForm
    | 2 => row T t 2 [5, 5, 5, 5, 4, 5, 3] fun | [d, a, b, t3, t4, t5, q] => chk (t3 == 0 && t4 == 0 && t5 == 0) (.recv (.ofNat 5 d) (.ofNat 5 a) (.ofNat 5 b) (.ofNat 3 q)) | _ => .illegal .tailForm
    | 3 => row T t 2 [5, 5, 5, 5, 4, 5, 3] fun | [d, t1, t2, t3, t4, t5, q] => chk (t1 == 0 && t2 == 0 && t3 == 0 && t4 == 0 && t5 == 0) (.recvv (.ofNat 5 d) (.ofNat 3 q)) | _ => .illegal .tailForm
    | _ => .illegal .unassignedFunction
  | _ => .illegal .unassignedFunction

/-- Major 0x1F (03 R76). -/
noncomputable def major1F (T m t : Nat) : Decoded :=
  match unpack [7] m with
  | [fn] =>
    match fn with
    | 0 => row T t 2 [5, 5, 5, 5, 4, 6, 2] fun | [t0, t1, t2, t3, t4, t5, t6] => if t0 == 0 && t1 == 0 && t2 == 0 && t3 == 0 && t4 == 0 && t5 < 8 && t6 == 0 then .ok (.qbindQi (.ofNat 3 t5)) else if t0 == 0 && t2 == 0 && t3 == 0 && t4 == 0 && t6 == 1 then .ok (.qbindQo (.ofNat 5 t1) (.ofNat 6 t5)) else if t0 == 0 && t1 == 0 && t2 == 0 && t3 == 0 && t4 == 0 && t5 == 0 && t6 == 2 then .ok (.qbindQiOff) else if t0 == 0 && t1 == 0 && t2 == 0 && t3 == 0 && t4 == 0 && t5 == 0 && t6 == 3 then .ok (.qbindQoOff) else .illegal .reservedField | _ => .illegal .tailForm
    | 1 => row T t 2 [5, 5, 5, 5, 4, 5, 3] fun | [d, t1, t2, t3, t4, t5, q] => chk (t1 == 0 && t2 == 0 && t3 == 0 && t4 == 0 && t5 == 0) (.mqstat (.ofNat 5 d) (.ofNat 3 q)) | _ => .illegal .tailForm
    | 2 => row T t 2 [5, 5, 5, 5, 4, 5, 3] fun | [d, a, t2, t3, t4, t5, q] => chk (t2 == 0 && t3 == 0 && t4 == 0 && t5 == 0) (.peek (.ofNat 5 d) (.ofNat 5 a) (.ofNat 3 q)) | _ => .illegal .tailForm
    | _ => .illegal .unassignedFunction
  | _ => .illegal .unassignedFunction

/-- Major 0x20 (03 R76). -/
noncomputable def major20 (T m t : Nat) : Decoded :=
  match unpack [7] m with
  | [fn] =>
    match fn with
    | 0 => row T t 2 [5, 5, 5, 5, 4, 2, 6] fun | [t0, a, b, t3, t4, t5, n] => chk (t0 == 0 && t3 == 0 && t4 == 0 && t5 == 0) (.dqpush (.ofNat 5 a) (.ofNat 5 b) (.ofNat 6 n)) | _ => .illegal .tailForm
    | 1 => row T t 2 [5, 5, 5, 5, 4, 3, 1, 4] fun | [d, a, b, t3, la, t5, nb, q] => chk (t3 == 0 && t5 == 0) (.dqpop (.ofNat 5 d) (.ofNat 5 a) (.ofNat 5 b) (.ofNat 4 la) (nb == 1) (.ofNat 4 q)) | _ => .illegal .tailForm
    | 2 => row T t 2 [5, 5, 5, 5, 4, 8] fun | [d, a, b, t3, t4, t5] => chk (t3 == 0 && t4 == 0 && t5 == 0) (.dqcons (.ofNat 5 d) (.ofNat 5 a) (.ofNat 5 b)) | _ => .illegal .tailForm
    | _ => .illegal .unassignedFunction
  | _ => .illegal .unassignedFunction

/-- Major 0x21 (03 R76). -/
noncomputable def major21 (T m t : Nat) : Decoded :=
  match unpack [7] m with
  | [fn] =>
    match fn with
    | 0 => row T t 2 [5, 5, 5, 5, 4, 8] fun | [t0, a, b, t3, t4, n] => chk (t0 == 0 && t3 == 0 && t4 == 0) (.arupd (.ofNat 5 a) (.ofNat 5 b) (.ofNat 8 n)) | _ => .illegal .tailForm
    | 1 => row T t 2 [5, 5, 5, 5, 4, 6, 2] fun | [d, a, b, c, t4, t5, vs] => chk (t4 == 0 && t5 == 0) (.arjoin (.ofNat 5 d) (.ofNat 5 a) (.ofNat 5 b) (.ofNat 5 c) (.ofNat 2 vs)) | _ => .illegal .tailForm
    | 2 => row T t 2 [5, 5, 5, 5, 4, 7, 1] fun | [d, a, b, c, t4, t5, k] => chk (t4 == 0 && t5 == 0) (.arscan (.ofNat 5 d) (.ofNat 5 a) (.ofNat 5 b) (.ofNat 5 c) (k == 1)) | _ => .illegal .tailForm
    | 3 => row T t 2 [5, 5, 5, 5, 4, 8] fun | [t0, a, b, t3, t4, t5] => chk (t0 == 0 && t3 == 0 && t4 == 0 && t5 == 0) (.arcompact (.ofNat 5 a) (.ofNat 5 b)) | _ => .illegal .tailForm
    | _ => .illegal .unassignedFunction
  | _ => .illegal .unassignedFunction

/-- Major 0x22 (03 R76). -/
noncomputable def major22 (T m t : Nat) : Decoded :=
  match unpack [7] m with
  | [fn] =>
    match fn with
    | 0 => row T t 1 [5, 5, 5, 1] fun | [t0, a, p, t3] => chk (t0 == 0 && t3 == 0) (.frontadv (.ofNat 5 a) (.ofNat 5 p)) | _ => .illegal .tailForm
    | 1 => row T t 1 [5, 5, 5, 1] fun | [d, t1, s, t3] => chk (t1 == 0 && t3 == 0) (.frontrd (.ofNat 5 d) (.ofNat 5 s)) | _ => .illegal .tailForm
    | 2 => row T t 1 [5, 5, 5, 1] fun | [d, a, t2, t3] => chk (t2 == 0 && t3 == 0) (.dqwaitf (.ofNat 5 d) (.ofNat 5 a)) | _ => .illegal .tailForm
    | _ => .illegal .unassignedFunction
  | _ => .illegal .unassignedFunction

/-- Major 0x23 (03 R76). -/
noncomputable def major23 (T m t : Nat) : Decoded :=
  match unpack [7] m with
  | [fn] =>
    match fn with
    | 0 => row T t 2 [5, 5, 5, 5, 4, 4, 4] fun | [d, a, t2, t3, t4, t5, s] => chk (t2 == 0 && t3 == 0 && t4 == 0 && t5 == 0) (.wpset (.ofNat 5 d) (.ofNat 5 a) (.ofNat 4 s)) | _ => .illegal .tailForm
    | 1 => row T t 2 [5, 5, 5, 5, 4, 4, 4] fun | [d, a, t2, t3, t4, t5, s] => chk (t2 == 0 && t3 == 0 && t4 == 0 && t5 == 0) (.park (.ofNat 5 d) (.ofNat 5 a) (.ofNat 4 s)) | _ => .illegal .tailForm
    | 2 => row T t 2 [5, 5, 5, 5, 4, 4, 4] fun | [d, a, t2, t3, t4, t5, s] => chk (t2 == 0 && t3 == 0 && t4 == 0 && t5 == 0) (.unpark (.ofNat 5 d) (.ofNat 5 a) (.ofNat 4 s)) | _ => .illegal .tailForm
    | 3 => row T t 2 [5, 5, 5, 5, 4, 2, 6] fun | [t0, a, b, t3, t4, t5, n] => chk (t0 == 0 && t3 == 0 && t4 == 0 && t5 == 0) (.standcfg (.ofNat 5 a) (.ofNat 5 b) (.ofNat 6 n)) | _ => .illegal .tailForm
    | _ => .illegal .unassignedFunction
  | _ => .illegal .unassignedFunction

/-- Major 0x24 (03 R76). -/
noncomputable def major24 (T m t : Nat) : Decoded :=
  match unpack [7] m with
  | [fn] =>
    match fn with
    | 0 => row T t 2 [5, 5, 5, 5, 4, 2, 6] fun | [t0, a, t2, t3, t4, t5, n] => chk (t0 == 0 && t2 == 0 && t3 == 0 && t4 == 0 && t5 == 0) (.rtset (.ofNat 5 a) (.ofNat 6 n)) | _ => .illegal .tailForm
    | 1 => row T t 2 [5, 5, 5, 5, 4, 6, 2] fun | [t0, t1, t2, t3, t4, t5, t6] => if t0 == 0 && t2 == 0 && t3 == 0 && t4 == 0 && t5 == 0 && t6 == 0 then .ok (.tlbinvAddr (.ofNat 5 t1)) else if t0 == 0 && t2 == 0 && t3 == 0 && t4 == 0 && t5 == 0 && t6 == 1 then .ok (.tlbinvAll (.ofNat 5 t1)) else .illegal .reservedField | _ => .illegal .tailForm
    | 2 => row T t 2 [5, 5, 5, 5, 4, 2, 6] fun | [d, a, b, t3, t4, t5, mask] => chk (t3 == 0 && t4 == 0 && t5 == 0) (.pgattr (.ofNat 5 d) (.ofNat 5 a) (.ofNat 5 b) (.ofNat 6 mask)) | _ => .illegal .tailForm
    | 3 => row T t 2 [5, 5, 5, 5, 4, 6, 2] fun | [t0, t1, t2, t3, t4, t5, t6] => if t2 == 0 && t3 == 0 && t4 == 0 && t5 == 0 && t6 == 0 then .ok (.keyselLoad (.ofNat 5 t0) (.ofNat 5 t1)) else if t1 == 0 && t2 == 0 && t3 == 0 && t4 == 0 && t5 == 0 && t6 == 1 then .ok (.keyselErase (.ofNat 5 t0)) else if t1 == 0 && t2 == 0 && t3 == 0 && t4 == 0 && t5 == 0 && t6 == 2 then .ok (.keyselStatus (.ofNat 5 t0)) else .illegal .reservedField | _ => .illegal .tailForm
    | 4 => row T t 2 [5, 5, 5, 5, 4, 6, 2] fun | [t0, t1, t2, t3, t4, t5, t6] => if t2 == 0 && t3 == 0 && t4 == 0 && t5 == 0 && t6 == 0 then .ok (.poisonqReadLocal (.ofNat 5 t0) (.ofNat 5 t1)) else if t2 == 0 && t3 == 0 && t4 == 0 && t5 == 0 && t6 == 1 then .ok (.poisonqClearLocal (.ofNat 5 t0) (.ofNat 5 t1)) else if t2 == 0 && t3 == 0 && t4 == 0 && t5 == 0 && t6 == 2 then .ok (.poisonqReadDevice (.ofNat 5 t0) (.ofNat 5 t1)) else if t2 == 0 && t3 == 0 && t4 == 0 && t5 == 0 && t6 == 3 then .ok (.poisonqClearDevice (.ofNat 5 t0) (.ofNat 5 t1)) else .illegal .reservedField | _ => .illegal .tailForm
    | _ => .illegal .unassignedFunction
  | _ => .illegal .unassignedFunction

/-- Major 0x25 (03 R76). -/
noncomputable def major25 (T m t : Nat) : Decoded :=
  match unpack [7] m with
  | [fn] =>
    match fn with
    | 0 => row T t 2 [5, 5, 20, 2] fun | [t0, t1, t2, lvl] => chk (t0 == 0 && t1 == 0 && t2 == 0) (.boost (.ofNat 2 lvl)) | _ => .illegal .tailForm
    | _ => .illegal .unassignedFunction
  | _ => .illegal .unassignedFunction

/-- Major 0x26 (03 R76). -/
noncomputable def major26 (T m t : Nat) : Decoded :=
  match unpack [7] m with
  | [fn] =>
    match fn with
    | 0 => bare T (chk (true) (.notch))
    | 1 => row T t 1 [5, 5, 5, 1] fun | [d, n, t2, t3] => chk (t2 == 0 && t3 == 0) (.notchrd (.ofNat 5 d) (.ofNat 5 n)) | _ => .illegal .tailForm
    | 2 => row T t 2 [5, 5, 2, 4, 16] fun | [t0, a, r, t3, n] => chk (t0 == 0 && t3 == 0) (.ckexcl (.ofNat 5 a) (.ofNat 2 r) (.ofNat 16 n)) | _ => .illegal .tailForm
    | 3 => bare T (chk (true) (.wdpet))
    | _ => .illegal .unassignedFunction
  | _ => .illegal .unassignedFunction

/-- Major 0x30 (03 R76). -/
noncomputable def major30 (T m t : Nat) : Decoded :=
  match unpack [3, 4] m with
  | [m0, fn] =>
    match fn with
    | 0 => if T = 1 then row T t 1 [5, 5, 5, 1] fun | [d, a, b, t3] => chk (t3 == 0) (.vadd (.ofNat 3 m0) (.ofNat 5 d) (.ofNat 5 a) (.ofNat 5 b)) | _ => .illegal .tailForm
        else row T t 2 [5, 5, 5, 5, 4, 8] fun | [d, a, b, t3, la, t5] => chk (t3 == 0 && t5 == 0) (.vaddL (.ofNat 3 m0) (.ofNat 5 d) (.ofNat 5 a) (.ofNat 5 b) (.ofNat 4 la)) | _ => .illegal .tailForm
    | 1 => if T = 1 then row T t 1 [5, 5, 5, 1] fun | [d, a, b, t3] => chk (t3 == 0) (.vsub (.ofNat 3 m0) (.ofNat 5 d) (.ofNat 5 a) (.ofNat 5 b)) | _ => .illegal .tailForm
        else row T t 2 [5, 5, 5, 5, 4, 8] fun | [d, a, b, t3, la, t5] => chk (t3 == 0 && t5 == 0) (.vsubL (.ofNat 3 m0) (.ofNat 5 d) (.ofNat 5 a) (.ofNat 5 b) (.ofNat 4 la)) | _ => .illegal .tailForm
    | 2 => if T = 1 then row T t 1 [5, 5, 5, 1] fun | [d, a, b, t3] => chk (t3 == 0) (.vmul (.ofNat 3 m0) (.ofNat 5 d) (.ofNat 5 a) (.ofNat 5 b)) | _ => .illegal .tailForm
        else row T t 2 [5, 5, 5, 5, 4, 8] fun | [d, a, b, t3, la, t5] => chk (t3 == 0 && t5 == 0) (.vmulL (.ofNat 3 m0) (.ofNat 5 d) (.ofNat 5 a) (.ofNat 5 b) (.ofNat 4 la)) | _ => .illegal .tailForm
    | 3 => if T = 1 then row T t 1 [5, 5, 5, 1] fun | [d, a, b, t3] => chk (t3 == 0) (.vdiv (.ofNat 3 m0) (.ofNat 5 d) (.ofNat 5 a) (.ofNat 5 b)) | _ => .illegal .tailForm
        else row T t 2 [5, 5, 5, 5, 4, 8] fun | [d, a, b, t3, la, t5] => chk (t3 == 0 && t5 == 0) (.vdivL (.ofNat 3 m0) (.ofNat 5 d) (.ofNat 5 a) (.ofNat 5 b) (.ofNat 4 la)) | _ => .illegal .tailForm
    | 4 => if T = 1 then row T t 1 [5, 5, 5, 1] fun | [d, a, b, t3] => chk (t3 == 0) (.vmin (.ofNat 3 m0) (.ofNat 5 d) (.ofNat 5 a) (.ofNat 5 b)) | _ => .illegal .tailForm
        else row T t 2 [5, 5, 5, 5, 4, 8] fun | [d, a, b, t3, la, t5] => chk (t3 == 0 && t5 == 0) (.vminL (.ofNat 3 m0) (.ofNat 5 d) (.ofNat 5 a) (.ofNat 5 b) (.ofNat 4 la)) | _ => .illegal .tailForm
    | 5 => if T = 1 then row T t 1 [5, 5, 5, 1] fun | [d, a, b, t3] => chk (t3 == 0) (.vmax (.ofNat 3 m0) (.ofNat 5 d) (.ofNat 5 a) (.ofNat 5 b)) | _ => .illegal .tailForm
        else row T t 2 [5, 5, 5, 5, 4, 8] fun | [d, a, b, t3, la, t5] => chk (t3 == 0 && t5 == 0) (.vmaxL (.ofNat 3 m0) (.ofNat 5 d) (.ofNat 5 a) (.ofNat 5 b) (.ofNat 4 la)) | _ => .illegal .tailForm
    | 6 => if T = 1 then row T t 1 [5, 5, 5, 1] fun | [d, a, b, t3] => chk (t3 == 0) (.vpow (.ofNat 3 m0) (.ofNat 5 d) (.ofNat 5 a) (.ofNat 5 b)) | _ => .illegal .tailForm
        else row T t 2 [5, 5, 5, 5, 4, 8] fun | [d, a, b, t3, la, t5] => chk (t3 == 0 && t5 == 0) (.vpowL (.ofNat 3 m0) (.ofNat 5 d) (.ofNat 5 a) (.ofNat 5 b) (.ofNat 4 la)) | _ => .illegal .tailForm
    | _ => .illegal .unassignedFunction
  | _ => .illegal .unassignedFunction

/-- Major 0x31 (03 R76). -/
noncomputable def major31 (T m t : Nat) : Decoded :=
  match unpack [3, 4] m with
  | [m0, fn] =>
    match fn with
    | 0 => if T = 1 then row T t 1 [5, 5, 5, 1] fun | [d, a, b, t3] => chk (t3 == 0) (.vfma (.ofNat 3 m0) (.ofNat 5 d) (.ofNat 5 a) (.ofNat 5 b)) | _ => .illegal .tailForm
        else row T t 2 [5, 5, 5, 5, 4, 8] fun | [d, a, b, t3, la, t5] => chk (t3 == 0 && t5 == 0) (.vfmaL (.ofNat 3 m0) (.ofNat 5 d) (.ofNat 5 a) (.ofNat 5 b) (.ofNat 4 la)) | _ => .illegal .tailForm
    | 1 => if T = 1 then row T t 1 [5, 5, 5, 1] fun | [d, a, b, t3] => chk (t3 == 0) (.vfms (.ofNat 3 m0) (.ofNat 5 d) (.ofNat 5 a) (.ofNat 5 b)) | _ => .illegal .tailForm
        else row T t 2 [5, 5, 5, 5, 4, 8] fun | [d, a, b, t3, la, t5] => chk (t3 == 0 && t5 == 0) (.vfmsL (.ofNat 3 m0) (.ofNat 5 d) (.ofNat 5 a) (.ofNat 5 b) (.ofNat 4 la)) | _ => .illegal .tailForm
    | _ => .illegal .unassignedFunction
  | _ => .illegal .unassignedFunction

/-- Major 0x32 (03 R76). -/
noncomputable def major32 (T m t : Nat) : Decoded :=
  match unpack [3, 4] m with
  | [m0, fn] =>
    match fn with
    | 0 => if T = 1 then row T t 1 [5, 5, 5, 1] fun | [d, a, t2, t3] => chk (t2 == 0 && t3 == 0) (.vsqrt (.ofNat 3 m0) (.ofNat 5 d) (.ofNat 5 a)) | _ => .illegal .tailForm
        else row T t 2 [5, 5, 5, 5, 4, 8] fun | [d, a, t2, t3, la, t5] => chk (t2 == 0 && t3 == 0 && t5 == 0) (.vsqrtL (.ofNat 3 m0) (.ofNat 5 d) (.ofNat 5 a) (.ofNat 4 la)) | _ => .illegal .tailForm
    | 1 => if T = 1 then row T t 1 [5, 5, 5, 1] fun | [d, a, t2, t3] => chk (t2 == 0 && t3 == 0) (.vrsq (.ofNat 3 m0) (.ofNat 5 d) (.ofNat 5 a)) | _ => .illegal .tailForm
        else row T t 2 [5, 5, 5, 5, 4, 8] fun | [d, a, t2, t3, la, t5] => chk (t2 == 0 && t3 == 0 && t5 == 0) (.vrsqL (.ofNat 3 m0) (.ofNat 5 d) (.ofNat 5 a) (.ofNat 4 la)) | _ => .illegal .tailForm
    | 2 => if T = 1 then row T t 1 [5, 5, 5, 1] fun | [d, a, t2, t3] => chk (t2 == 0 && t3 == 0) (.vexp (.ofNat 3 m0) (.ofNat 5 d) (.ofNat 5 a)) | _ => .illegal .tailForm
        else row T t 2 [5, 5, 5, 5, 4, 8] fun | [d, a, t2, t3, la, t5] => chk (t2 == 0 && t3 == 0 && t5 == 0) (.vexpL (.ofNat 3 m0) (.ofNat 5 d) (.ofNat 5 a) (.ofNat 4 la)) | _ => .illegal .tailForm
    | 3 => if T = 1 then row T t 1 [5, 5, 5, 1] fun | [d, a, t2, t3] => chk (t2 == 0 && t3 == 0) (.vlog (.ofNat 3 m0) (.ofNat 5 d) (.ofNat 5 a)) | _ => .illegal .tailForm
        else row T t 2 [5, 5, 5, 5, 4, 8] fun | [d, a, t2, t3, la, t5] => chk (t2 == 0 && t3 == 0 && t5 == 0) (.vlogL (.ofNat 3 m0) (.ofNat 5 d) (.ofNat 5 a) (.ofNat 4 la)) | _ => .illegal .tailForm
    | 4 => if T = 1 then row T t 1 [5, 5, 5, 1] fun | [d, a, t2, t3] => chk (t2 == 0 && t3 == 0) (.vsin (.ofNat 3 m0) (.ofNat 5 d) (.ofNat 5 a)) | _ => .illegal .tailForm
        else row T t 2 [5, 5, 5, 5, 4, 8] fun | [d, a, t2, t3, la, t5] => chk (t2 == 0 && t3 == 0 && t5 == 0) (.vsinL (.ofNat 3 m0) (.ofNat 5 d) (.ofNat 5 a) (.ofNat 4 la)) | _ => .illegal .tailForm
    | 5 => if T = 1 then row T t 1 [5, 5, 5, 1] fun | [d, a, t2, t3] => chk (t2 == 0 && t3 == 0) (.vcos (.ofNat 3 m0) (.ofNat 5 d) (.ofNat 5 a)) | _ => .illegal .tailForm
        else row T t 2 [5, 5, 5, 5, 4, 8] fun | [d, a, t2, t3, la, t5] => chk (t2 == 0 && t3 == 0 && t5 == 0) (.vcosL (.ofNat 3 m0) (.ofNat 5 d) (.ofNat 5 a) (.ofNat 4 la)) | _ => .illegal .tailForm
    | 6 => if T = 1 then row T t 1 [5, 5, 5, 1] fun | [d, a, t2, t3] => chk (t2 == 0 && t3 == 0) (.vtanh (.ofNat 3 m0) (.ofNat 5 d) (.ofNat 5 a)) | _ => .illegal .tailForm
        else row T t 2 [5, 5, 5, 5, 4, 8] fun | [d, a, t2, t3, la, t5] => chk (t2 == 0 && t3 == 0 && t5 == 0) (.vtanhL (.ofNat 3 m0) (.ofNat 5 d) (.ofNat 5 a) (.ofNat 4 la)) | _ => .illegal .tailForm
    | 7 => if T = 1 then row T t 1 [5, 5, 5, 1] fun | [d, a, t2, t3] => chk (t2 == 0 && t3 == 0) (.vabs (.ofNat 3 m0) (.ofNat 5 d) (.ofNat 5 a)) | _ => .illegal .tailForm
        else row T t 2 [5, 5, 5, 5, 4, 8] fun | [d, a, t2, t3, la, t5] => chk (t2 == 0 && t3 == 0 && t5 == 0) (.vabsL (.ofNat 3 m0) (.ofNat 5 d) (.ofNat 5 a) (.ofNat 4 la)) | _ => .illegal .tailForm
    | 8 => if T = 1 then row T t 1 [5, 5, 5, 1] fun | [d, a, t2, t3] => chk (t2 == 0 && t3 == 0) (.vneg (.ofNat 3 m0) (.ofNat 5 d) (.ofNat 5 a)) | _ => .illegal .tailForm
        else row T t 2 [5, 5, 5, 5, 4, 8] fun | [d, a, t2, t3, la, t5] => chk (t2 == 0 && t3 == 0 && t5 == 0) (.vnegL (.ofNat 3 m0) (.ofNat 5 d) (.ofNat 5 a) (.ofNat 4 la)) | _ => .illegal .tailForm
    | _ => .illegal .unassignedFunction
  | _ => .illegal .unassignedFunction

/-- Major 0x33 (03 R76). -/
noncomputable def major33 (T m t : Nat) : Decoded :=
  match unpack [2, 3, 2] m with
  | [m0, m1, m2] =>
    row T t 1 [5, 5, 5, 1] fun | [d, a, b, t3] => chk (t3 == 0) (.vcmp (.ofNat 2 m0) (.ofNat 3 m1) (.ofNat 2 m2) (.ofNat 5 d) (.ofNat 5 a) (.ofNat 5 b)) | _ => .illegal .tailForm
  | _ => .illegal .unassignedFunction

/-- Major 0x34 (03 R76). -/
noncomputable def major34 (T m t : Nat) : Decoded :=
  match unpack [2, 1, 4] m with
  | [m0, m1, fn] =>
    match fn with
    | 0 => row T t 1 [5, 5, 5, 1] fun | [d, a, b, t3] => chk (m0 == 0 && m1 == 0 && t3 == 0) (.vand (.ofNat 5 d) (.ofNat 5 a) (.ofNat 5 b)) | _ => .illegal .tailForm
    | 1 => row T t 1 [5, 5, 5, 1] fun | [d, a, b, t3] => chk (m0 == 0 && m1 == 0 && t3 == 0) (.vor (.ofNat 5 d) (.ofNat 5 a) (.ofNat 5 b)) | _ => .illegal .tailForm
    | 2 => row T t 1 [5, 5, 5, 1] fun | [d, a, b, t3] => chk (m0 == 0 && m1 == 0 && t3 == 0) (.vxor (.ofNat 5 d) (.ofNat 5 a) (.ofNat 5 b)) | _ => .illegal .tailForm
    | 3 => row T t 1 [5, 5, 5, 1] fun | [d, a, b, t3] => chk (t3 == 0) (.vshl (.ofNat 2 m0) (m1 == 1) (.ofNat 5 d) (.ofNat 5 a) (.ofNat 5 b)) | _ => .illegal .tailForm
    | 4 => row T t 1 [5, 5, 5, 1] fun | [d, a, b, t3] => chk (t3 == 0) (.vshr (.ofNat 2 m0) (m1 == 1) (.ofNat 5 d) (.ofNat 5 a) (.ofNat 5 b)) | _ => .illegal .tailForm
    | 5 => row T t 1 [5, 5, 5, 1] fun | [d, a, b, t3] => chk (t3 == 0) (.viadd (.ofNat 2 m0) (m1 == 1) (.ofNat 5 d) (.ofNat 5 a) (.ofNat 5 b)) | _ => .illegal .tailForm
    | 6 => row T t 1 [5, 5, 5, 1] fun | [d, a, b, t3] => chk (t3 == 0) (.visub (.ofNat 2 m0) (m1 == 1) (.ofNat 5 d) (.ofNat 5 a) (.ofNat 5 b)) | _ => .illegal .tailForm
    | 7 => row T t 1 [5, 5, 5, 1] fun | [d, a, b, t3] => chk (t3 == 0) (.vimul (.ofNat 2 m0) (m1 == 1) (.ofNat 5 d) (.ofNat 5 a) (.ofNat 5 b)) | _ => .illegal .tailForm
    | 8 => row T t 1 [5, 5, 5, 1] fun | [d, a, b, t3] => chk (m0 == 0 && m1 == 0 && t3 == 0) (.vsel (.ofNat 5 d) (.ofNat 5 a) (.ofNat 5 b)) | _ => .illegal .tailForm
    | _ => .illegal .unassignedFunction
  | _ => .illegal .unassignedFunction

/-- Major 0x35 (03 R76). -/
noncomputable def major35 (T m t : Nat) : Decoded :=
  match unpack [7] m with
  | [fn] =>
    match fn with
    | 0 => row T t 2 [5, 5, 5, 5, 4, 3, 5] fun | [d, a, b, t3, t4, t5, fmt] => chk (t3 == 0 && t4 == 0 && t5 == 0) (.vdot (.ofNat 5 fmt) (.ofNat 5 d) (.ofNat 5 a) (.ofNat 5 b)) | _ => .illegal .tailForm
    | 1 => row T t 2 [5, 5, 5, 5, 4, 3, 5] fun | [d, a, t2, t3, t4, t5, fmt] => chk (t2 == 0 && t3 == 0 && t4 == 0 && t5 == 0) (.vredAdd (.ofNat 5 fmt) (.ofNat 5 d) (.ofNat 5 a)) | _ => .illegal .tailForm
    | 2 => row T t 2 [5, 5, 5, 5, 4, 3, 5] fun | [d, a, t2, t3, t4, t5, fmt] => chk (t2 == 0 && t3 == 0 && t4 == 0 && t5 == 0) (.vredMin (.ofNat 5 fmt) (.ofNat 5 d) (.ofNat 5 a)) | _ => .illegal .tailForm
    | 3 => row T t 2 [5, 5, 5, 5, 4, 3, 5] fun | [d, a, t2, t3, t4, t5, fmt] => chk (t2 == 0 && t3 == 0 && t4 == 0 && t5 == 0) (.vredMax (.ofNat 5 fmt) (.ofNat 5 d) (.ofNat 5 a)) | _ => .illegal .tailForm
    | 4 => row T t 2 [5, 5, 5, 5, 4, 3, 5] fun | [d, a, t2, t3, t4, t5, fmt] => chk (t2 == 30 && t3 == 0 && t4 == 0 && t5 == 0) (.vredq (.ofNat 5 fmt) (.ofNat 5 d) (.ofNat 5 a)) | _ => .illegal .tailForm
    | _ => .illegal .unassignedFunction
  | _ => .illegal .unassignedFunction

/-- Major 0x36 (03 R76). -/
noncomputable def major36 (T m t : Nat) : Decoded :=
  match unpack [7] m with
  | [fn] =>
    match fn with
    | 0 => row T t 2 [5, 5, 5, 5, 4, 5, 1, 2] fun | [d, a, b, t3, t4, t5, t6, size] => chk (t3 == 0 && t4 == 0 && t5 == 0 && t6 == 0) (.vshuf (.ofNat 2 size) (.ofNat 5 d) (.ofNat 5 a) (.ofNat 5 b)) | _ => .illegal .tailForm
    | 1 => row T t 2 [5, 5, 5, 5, 4, 5, 1, 2] fun | [d, a, t2, t3, t4, t5, t6, size] => chk (t2 == 0 && t3 == 0 && t4 == 0 && t5 == 0 && t6 == 0) (.vsplat (.ofNat 2 size) (.ofNat 5 d) (.ofNat 5 a)) | _ => .illegal .tailForm
    | 2 => row T t 2 [5, 5, 5, 5, 4, 5, 1, 2] fun | [d, a, b, t3, t4, t5, t6, size] => chk (t3 == 0 && t4 == 0 && t5 == 0 && t6 == 0) (.vins (.ofNat 2 size) (.ofNat 5 d) (.ofNat 5 a) (.ofNat 5 b)) | _ => .illegal .tailForm
    | 3 => row T t 2 [5, 5, 5, 5, 4, 5, 1, 2] fun | [d, a, b, t3, t4, t5, n, size] => chk (t3 == 0 && t4 == 0 && t5 == 0) (.vext (.ofNat 2 size) (n == 1) (.ofNat 5 d) (.ofNat 5 a) (.ofNat 5 b)) | _ => .illegal .tailForm
    | _ => .illegal .unassignedFunction
  | _ => .illegal .unassignedFunction

/-- Major 0x37 (03 R76). -/
noncomputable def major37 (T m t : Nat) : Decoded :=
  match unpack [2, 5] m with
  | [fn, m1] =>
    match fn with
    | 0 => row T t 2 [5, 5, 5, 5, 4, 5, 1, 2] fun | [d, a, t2, c, t4, dst, sc, t7] => chk (t2 == 0 && t4 == 0 && t7 == 0) (.vcvt (.ofNat 5 m1) (.ofNat 5 dst) (sc == 1) (.ofNat 5 d) (.ofNat 5 a) (.ofNat 5 c)) | _ => .illegal .tailForm
    | 1 => row T t 2 [5, 5, 5, 5, 4, 5, 1, 2] fun | [d, a, t2, c, t4, dst, sc, t7] => chk (t2 == 0 && t4 == 0 && t7 == 0) (.vpack (.ofNat 5 m1) (.ofNat 5 dst) (sc == 1) (.ofNat 5 d) (.ofNat 5 a) (.ofNat 5 c)) | _ => .illegal .tailForm
    | 2 => row T t 2 [5, 5, 5, 5, 4, 5, 1, 2] fun | [d, a, t2, c, t4, dst, sc, t7] => chk (t2 == 0 && t4 == 0 && t7 == 0) (.vunpack (.ofNat 5 m1) (.ofNat 5 dst) (sc == 1) (.ofNat 5 d) (.ofNat 5 a) (.ofNat 5 c)) | _ => .illegal .tailForm
    | 3 => row T t 2 [5, 5, 5, 5, 4, 5, 1, 2] fun | [d, a, t2, t3, t4, dst, t6, t7] => chk (t2 == 0 && t3 == 0 && t4 == 0 && t6 == 0 && t7 == 0) (.vrnd (.ofNat 5 m1) (.ofNat 5 dst) (.ofNat 5 d) (.ofNat 5 a)) | _ => .illegal .tailForm
    | _ => .illegal .unassignedFunction
  | _ => .illegal .unassignedFunction

/-- Major 0x38 (03 R76). -/
noncomputable def major38 (T m t : Nat) : Decoded :=
  match unpack [3, 4] m with
  | [m0, fn] =>
    match fn with
    | 0 => row T t 2 [5, 5, 5, 5, 4, 8] fun | [d, a, b, t3, la, x] => chk (t3 == 0) (.vaddM (.ofNat 3 m0) (.ofNat 5 d) (.ofNat 5 a) (.ofNat 5 b) (.ofNat 4 la) (.ofNat 8 x)) | _ => .illegal .tailForm
    | 1 => row T t 2 [5, 5, 5, 5, 4, 8] fun | [d, a, b, t3, la, x] => chk (t3 == 0) (.vmulM (.ofNat 3 m0) (.ofNat 5 d) (.ofNat 5 a) (.ofNat 5 b) (.ofNat 4 la) (.ofNat 8 x)) | _ => .illegal .tailForm
    | 2 => row T t 2 [5, 5, 5, 5, 4, 8] fun | [d, a, b, t3, la, x] => chk (t3 == 0) (.vfmaM (.ofNat 3 m0) (.ofNat 5 d) (.ofNat 5 a) (.ofNat 5 b) (.ofNat 4 la) (.ofNat 8 x)) | _ => .illegal .tailForm
    | _ => .illegal .unassignedFunction
  | _ => .illegal .unassignedFunction

/-- Major 0x39 (03 R76). -/
noncomputable def major39 (T m t : Nat) : Decoded :=
  match unpack [7] m with
  | [fn] =>
    match fn with
    | 0 => row T t 2 [5, 5, 5, 5, 4, 7, 1] fun | [d, a, b, t3, la, t5, p] => chk (t3 == 0 && t5 == 0) (.addwin (p == 1) (.ofNat 5 d) (.ofNat 5 a) (.ofNat 5 b) (.ofNat 4 la)) | _ => .illegal .tailForm
    | 1 => row T t 2 [5, 5, 5, 5, 4, 3, 5] fun | [d, a, t2, t3, la, t5, fmt] => chk (t2 == 0 && t3 == 0 && t5 == 0) (.rdwin (.ofNat 5 fmt) (.ofNat 5 d) (.ofNat 5 a) (.ofNat 4 la)) | _ => .illegal .tailForm
    | 2 => row T t 2 [5, 5, 5, 5, 4, 8] fun | [t0, a, t2, t3, la, t5] => chk (t0 == 0 && t2 == 0 && t3 == 0 && t5 == 0) (.clrwin (.ofNat 5 a) (.ofNat 4 la)) | _ => .illegal .tailForm
    | _ => .illegal .unassignedFunction
  | _ => .illegal .unassignedFunction

/-- Major 0x3A (03 R76). -/
noncomputable def major3A (T m t : Nat) : Decoded :=
  match unpack [7] m with
  | [fn] =>
    match fn with
    | 0 => row T t 2 [5, 5, 17, 5] fun | [t0, t1, t2, n] => chk (t0 == 0 && t1 == 0 && t2 == 0) (.jord (.ofNat 5 n)) | _ => .illegal .tailForm
    | 1 => row T t 2 [5, 5, 5, 5, 4, 1, 2, 5] fun | [d, a, b, t3, la, t5, fmt, t7] => chk (t3 == 0 && t5 == 0 && t7 == 0) (.jseed (.ofNat 2 fmt) (.ofNat 5 d) (.ofNat 5 a) (.ofNat 5 b) (.ofNat 4 la)) | _ => .illegal .tailForm
    | 2 => row T t 2 [5, 5, 5, 5, 4, 1, 2, 5] fun | [d, a, b, t3, la, t5, fmt, t7] => chk (t3 == 0 && t5 == 0 && t7 == 0) (.jseedv (.ofNat 2 fmt) (.ofNat 5 d) (.ofNat 5 a) (.ofNat 5 b) (.ofNat 4 la)) | _ => .illegal .tailForm
    | 3 => row T t 2 [5, 5, 5, 5, 4, 1, 2, 5] fun | [d, a, t2, t3, la, t5, fmt, t7] => chk (t2 == 0 && t3 == 0 && t5 == 0 && t7 == 0) (.jconst (.ofNat 2 fmt) (.ofNat 5 d) (.ofNat 5 a) (.ofNat 4 la)) | _ => .illegal .tailForm
    | 4 => row T t 2 [5, 5, 5, 5, 4, 1, 2, 5] fun | [d, a, t2, t3, la, t5, fmt, k] => chk (t2 == 0 && t3 == 0 && t5 == 0) (.jext (.ofNat 2 fmt) (.ofNat 5 d) (.ofNat 5 a) (.ofNat 5 k) (.ofNat 4 la)) | _ => .illegal .tailForm
    | 5 => row T t 2 [5, 5, 5, 5, 4, 1, 2, 5] fun | [d, a, t2, t3, la, t5, fmt, k] => chk (t2 == 0 && t3 == 0 && t5 == 0) (.jder (.ofNat 2 fmt) (.ofNat 5 d) (.ofNat 5 a) (.ofNat 5 k) (.ofNat 4 la)) | _ => .illegal .tailForm
    | 6 => row T t 2 [5, 5, 5, 5, 4, 1, 2, 5] fun | [d, a, t2, t3, la, t5, fmt, k] => chk (t2 == 0 && t3 == 0 && t5 == 0) (.jtrunc (.ofNat 2 fmt) (.ofNat 5 d) (.ofNat 5 a) (.ofNat 5 k) (.ofNat 4 la)) | _ => .illegal .tailForm
    | 7 => row T t 2 [5, 5, 5, 5, 4, 7, 1] fun | [d, t1, t2, t3, t4, t5, h] => chk (t1 == 0 && t2 == 0 && t3 == 0 && t4 == 0 && t5 == 0) (.jfrd (.ofNat 5 d) (h == 1)) | _ => .illegal .tailForm
    | 8 => row T t 2 [5, 5, 12, 5, 5] fun | [t0, t1, t2, hi, lo] => chk (t0 == 0 && t1 == 0 && t2 == 0) (.jfclr (.ofNat 5 lo) (.ofNat 5 hi)) | _ => .illegal .tailForm
    | _ => .illegal .unassignedFunction
  | _ => .illegal .unassignedFunction

/-- Major 0x3B (03 R76). -/
noncomputable def major3B (T m t : Nat) : Decoded :=
  match unpack [7] m with
  | [fn] =>
    match fn with
    | 0 => row T t 3 [5, 5, 5, 5, 4, 2, 1, 1, 5, 5, 6, 6, 14] fun | [t0, t1, t2, t3, t4, tile, keep, acc, afmt, bfmt, rows1, cols1, t12] => chk (t0 == 0 && t1 == 0 && t2 == 0 && t3 == 0 && t4 == 0 && t12 == 0) (.mcfg (.ofNat 2 tile) (keep == 1) (acc == 1) (.ofNat 5 afmt) (.ofNat 5 bfmt) (.ofNat 6 rows1) (.ofNat 6 cols1)) | _ => .illegal .tailForm
    | 1 => row T t 2 [5, 5, 18, 4] fun | [t0, t1, t2, mask] => chk (t0 == 0 && t1 == 0 && t2 == 0) (.mclr (.ofNat 4 mask)) | _ => .illegal .tailForm
    | 2 => row T t 2 [5, 5, 19, 1, 2] fun | [t0, t1, t2, t3, t4] => if t1 == 0 && t2 == 0 && t3 == 0 then .ok (.mres (.ofNat 5 t0) (.ofNat 2 t4)) else if t1 == 0 && t2 == 0 && t3 == 1 then .ok (.mresRelease (.ofNat 5 t0) (.ofNat 2 t4)) else .illegal .reservedField | _ => .illegal .tailForm
    | _ => .illegal .unassignedFunction
  | _ => .illegal .unassignedFunction

/-- Major 0x3C (03 R76). -/
noncomputable def major3C (T m t : Nat) : Decoded :=
  match unpack [7] m with
  | [fn] =>
    match fn with
    | 0 => row T t 3 [5, 5, 5, 5, 4, 2, 2, 6, 1, 1, 6, 22] fun | [t0, a, b, c, t4, tile, t6, kb1, mx, sc, t10, desc] => chk (t0 == 0 && t4 == 0 && t6 == 0 && t10 == 0) (.mma (.ofNat 5 a) (.ofNat 5 b) (.ofNat 5 c) (.ofNat 2 tile) (.ofNat 6 kb1) (mx == 1) (sc == 1) (.ofNat 22 desc)) | _ => .illegal .tailForm
    | 1 => row T t 3 [5, 5, 5, 5, 4, 2, 2, 6, 2, 6, 22] fun | [t0, a, b, c, t4, t5, t6, kb1, t8, t9, t10] => chk (t0 == 0 && t4 == 0 && t5 == 0 && t6 == 0 && t8 == 0 && t9 == 0 && t10 == 0) (.mmj (.ofNat 5 a) (.ofNat 5 b) (.ofNat 5 c) (.ofNat 6 kb1)) | _ => .illegal .tailForm
    | _ => .illegal .unassignedFunction
  | _ => .illegal .unassignedFunction

/-- Major 0x3D (03 R76). -/
noncomputable def major3D (T m t : Nat) : Decoded :=
  match unpack [7] m with
  | [fn] =>
    match fn with
    | 0 => row T t 2 [5, 5, 5, 5, 4, 2, 1, 5] fun | [t0, a, b, t3, t4, tile, t6, fmt] => chk (t0 == 0 && t3 == 0 && t4 == 0 && t6 == 0) (.mrd (.ofNat 5 a) (.ofNat 5 b) (.ofNat 2 tile) (.ofNat 5 fmt)) | _ => .illegal .tailForm
    | 1 => row T t 2 [5, 5, 5, 5, 4, 2, 1, 5] fun | [t0, a, b, t3, t4, tile, t6, fmt] => chk (t0 == 0 && t3 == 0 && t4 == 0 && t6 == 0) (.macc (.ofNat 5 a) (.ofNat 5 b) (.ofNat 2 tile) (.ofNat 5 fmt)) | _ => .illegal .tailForm
    | 2 => row T t 2 [5, 5, 5, 5, 4, 8] fun | [d, a, t2, t3, t4, x] => chk (t2 == 0 && t3 == 0 && t4 == 0) (.xpkd (.ofNat 5 d) (.ofNat 5 a) (.ofNat 8 x)) | _ => .illegal .tailForm
    | _ => .illegal .unassignedFunction
  | _ => .illegal .unassignedFunction


/-- The fields of a head (03 R66); P plays no part in which instruction it is. -/
noncomputable def rawDecode (h t : Nat) : Decoded :=
  let T := h / 8192 % 4
  let m := h % 128
  match h / 128 % 64 with
  | 1 => major01 T m t
  | 2 => major02 T m t
  | 3 => major03 T m t
  | 4 => major04 T m t
  | 5 => major05 T m t
  | 6 => major06 T m t
  | 7 => major07 T m t
  | 8 => major08 T m t
  | 14 => major0E T m t
  | 9 => major09 T m t
  | 10 => major0A T m t
  | 11 => major0B T m t
  | 12 => major0C T m t
  | 13 => major0D T m t
  | 15 => major0F T m t
  | 16 => major10 T m t
  | 17 => major11 T m t
  | 18 => major12 T m t
  | 19 => major13 T m t
  | 20 => major14 T m t
  | 21 => major15 T m t
  | 24 => major18 T m t
  | 22 => major16 T m t
  | 23 => major17 T m t
  | 25 => major19 T m t
  | 26 => major1A T m t
  | 27 => major1B T m t
  | 28 => major1C T m t
  | 29 => major1D T m t
  | 30 => major1E T m t
  | 31 => major1F T m t
  | 32 => major20 T m t
  | 33 => major21 T m t
  | 34 => major22 T m t
  | 35 => major23 T m t
  | 36 => major24 T m t
  | 37 => major25 T m t
  | 38 => major26 T m t
  | 48 => major30 T m t
  | 49 => major31 T m t
  | 50 => major32 T m t
  | 51 => major33 T m t
  | 52 => major34 T m t
  | 53 => major35 T m t
  | 54 => major36 T m t
  | 55 => major37 T m t
  | 56 => major38 T m t
  | 57 => major39 T m t
  | 58 => major3A T m t
  | 59 => major3B T m t
  | 60 => major3C T m t
  | 61 => major3D T m t
  | _ => .illegal .reservedMajor

/-- The instruction of a head and its tail, or the name of what is wrong with it (03 R77 checks 2 and 3). -/
noncomputable def decode (c : Code) : Decoded :=
  match rawDecode c.head.toNat c.tail.toNat with
  | .ok i => if i.wf then .ok i else .illegal .reservedValue
  | .illegal e => .illegal e

/-- Does the head pair with the next head of its line (03 R66)? -/
def pairBit (head : BitVec 16) : Bool := head.getLsbD 15

/-- Is a head of the vector/jet/matrix class (03 R75)? -/
def classV (head : BitVec 16) : Bool := decide (0x30 ≤ (head.extractLsb' 7 6).toNat)

/-- A head with P = 0 and its tail, from T, the major, the minor's fields and the tail's fields. -/
def word (T maj : Nat) (mw mv tw tv : List Nat) : Code :=
  ⟨.ofNat 16 (T * 8192 + maj * 128 + pack mw mv), .ofNat 64 (pack tw tv)⟩

/-- The words of a head, from the encoding tables of the chapters; none for a row that is an event. -/
def encode : Instr → Option Code
  | .add d a b => some (word 1 1 [7] [0] [5, 5, 5, 1] [d.toNat, a.toNat, b.toNat, 0])
  | .sub d a b => some (word 1 1 [7] [1] [5, 5, 5, 1] [d.toNat, a.toNat, b.toNat, 0])
  | .mul d a b => some (word 1 1 [7] [2] [5, 5, 5, 1] [d.toNat, a.toNat, b.toNat, 0])
  | .mulh d a b => some (word 1 1 [7] [3] [5, 5, 5, 1] [d.toNat, a.toNat, b.toNat, 0])
  | .mulhn d a b => some (word 1 1 [7] [4] [5, 5, 5, 1] [d.toNat, a.toNat, b.toNat, 0])
  | .div d a b la => some (word 2 1 [7] [5] [5, 5, 5, 5, 4, 8] [d.toNat, a.toNat, b.toNat, 0, la.toNat, 0])
  | .divn d a b la => some (word 2 1 [7] [6] [5, 5, 5, 5, 4, 8] [d.toNat, a.toNat, b.toNat, 0, la.toNat, 0])
  | .rem d a b la => some (word 2 1 [7] [7] [5, 5, 5, 5, 4, 8] [d.toNat, a.toNat, b.toNat, 0, la.toNat, 0])
  | .remn d a b la => some (word 2 1 [7] [8] [5, 5, 5, 5, 4, 8] [d.toNat, a.toNat, b.toNat, 0, la.toNat, 0])
  | .min d a b => some (word 1 1 [7] [9] [5, 5, 5, 1] [d.toNat, a.toNat, b.toNat, 0])
  | .max d a b => some (word 1 1 [7] [10] [5, 5, 5, 1] [d.toNat, a.toNat, b.toNat, 0])
  | .minn d a b => some (word 1 1 [7] [11] [5, 5, 5, 1] [d.toNat, a.toNat, b.toNat, 0])
  | .maxn d a b => some (word 1 1 [7] [12] [5, 5, 5, 1] [d.toNat, a.toNat, b.toNat, 0])
  | .and d a b => some (word 1 1 [7] [13] [5, 5, 5, 1] [d.toNat, a.toNat, b.toNat, 0])
  | .or d a b => some (word 1 1 [7] [14] [5, 5, 5, 1] [d.toNat, a.toNat, b.toNat, 0])
  | .xor d a b => some (word 1 1 [7] [15] [5, 5, 5, 1] [d.toNat, a.toNat, b.toNat, 0])
  | .andn d a b => some (word 1 1 [7] [16] [5, 5, 5, 1] [d.toNat, a.toNat, b.toNat, 0])
  | .shl d a b => some (word 1 1 [7] [17] [5, 5, 5, 1] [d.toNat, a.toNat, b.toNat, 0])
  | .shr d a b => some (word 1 1 [7] [18] [5, 5, 5, 1] [d.toNat, a.toNat, b.toNat, 0])
  | .sar d a b => some (word 1 1 [7] [19] [5, 5, 5, 1] [d.toNat, a.toNat, b.toNat, 0])
  | .rol d a b => some (word 1 1 [7] [20] [5, 5, 5, 1] [d.toNat, a.toNat, b.toNat, 0])
  | .addx d a b => some (word 1 1 [7] [21] [5, 5, 5, 1] [d.toNat, a.toNat, b.toNat, 0])
  | .sel d a b => some (word 1 1 [7] [22] [5, 5, 5, 1] [d.toNat, a.toNat, b.toNat, 0])
  | .mov d a => some (word 1 2 [7] [0] [5, 5, 5, 1] [d.toNat, a.toNat, 0, 0])
  | .neg d a => some (word 1 2 [7] [1] [5, 5, 5, 1] [d.toNat, a.toNat, 0, 0])
  | .abs d a => some (word 1 2 [7] [2] [5, 5, 5, 1] [d.toNat, a.toNat, 0, 0])
  | .clz d a => some (word 1 2 [7] [3] [5, 5, 5, 1] [d.toNat, a.toNat, 0, 0])
  | .ctz d a => some (word 1 2 [7] [4] [5, 5, 5, 1] [d.toNat, a.toNat, 0, 0])
  | .popc d a => some (word 1 2 [7] [5] [5, 5, 5, 1] [d.toNat, a.toNat, 0, 0])
  | .bswap d a => some (word 1 2 [7] [6] [5, 5, 5, 1] [d.toNat, a.toNat, 0, 0])
  | .sextI8 d a => some (word 1 2 [7] [8] [5, 5, 5, 1] [d.toNat, a.toNat, 0, 0])
  | .sextI16 d a => some (word 1 2 [7] [9] [5, 5, 5, 1] [d.toNat, a.toNat, 0, 0])
  | .sextI32 d a => some (word 1 2 [7] [10] [5, 5, 5, 1] [d.toNat, a.toNat, 0, 0])
  | .zextN8 d a => some (word 1 2 [7] [12] [5, 5, 5, 1] [d.toNat, a.toNat, 0, 0])
  | .zextN16 d a => some (word 1 2 [7] [13] [5, 5, 5, 1] [d.toNat, a.toNat, 0, 0])
  | .zextN32 d a => some (word 1 2 [7] [14] [5, 5, 5, 1] [d.toNat, a.toNat, 0, 0])
  | .addi d a imm => some (word 2 3 [7] [0] [5, 5, 22] [d.toNat, a.toNat, imm.toNat])
  | .li d imm => some (word 2 3 [7] [1] [5, 5, 22] [d.toNat, 0, imm.toNat])
  | .liG d imm => some (word 3 3 [7] [1] [5, 5, 22, 32] [d.toNat, 0, 0, imm.toNat])
  | .lih d a imm => some (word 3 3 [7] [2] [5, 5, 22, 32] [d.toNat, a.toNat, 0, imm.toNat])
  | .bfx d a s pos len1 => some (word 2 4 [7] [0] [5, 5, 9, 1, 6, 6] [d.toNat, a.toNat, 0, s.toNat, pos.toNat, len1.toNat])
  | .bfi d a pos len1 => some (word 2 4 [7] [1] [5, 5, 9, 1, 6, 6] [d.toNat, a.toNat, 0, 0, pos.toNat, len1.toNat])
  | .cmp k cc a b => some (word 1 5 [2, 3, 2] [k.toNat, cc.toNat, 0] [5, 5, 5, 1] [0, a.toNat, b.toNat, 0])
  | .cmpi k cc a imm => some (word 2 6 [2, 3, 2] [k.toNat, cc.toNat, 0] [5, 5, 22] [0, a.toNat, imm.toNat])
  | .tst k cc a b => some (word 1 6 [2, 3, 2] [k.toNat, cc.toNat, 1] [5, 5, 5, 1] [0, a.toNat, b.toNat, 0])
  | .br sig tgt => some (word 2 7 [3, 1, 3] [0, 0, 0] [8, 2, 22] [sig.toNat, 0, tgt.toNat])
  | .brc cc sig tgt => some (word 2 7 [3, 1, 3] [0, 1, cc.toNat] [8, 2, 22] [sig.toNat, 0, tgt.toNat])
  | .jmp sig tgt => some (word 2 8 [7] [0] [8, 2, 22] [sig.toNat, 0, tgt.toNat])
  | .call sig tgt => some (word 2 8 [7] [1] [8, 2, 22] [sig.toNat, 0, tgt.toNat])
  | .callr sig a => some (word 1 8 [7] [2] [8, 5, 3] [sig.toNat, a.toNat, 0])
  | .ret sig a => some (word 1 8 [7] [3] [8, 5, 3] [sig.toNat, a.toNat, 0])
  | .nop => some (word 0 14 [7] [0] [] [])
  | .loop sig sigb a len inc => some (word 3 9 [7] [0] [8, 8, 5, 5, 22, 16] [sig.toNat, sigb.toNat, a.toNat, len.toNat, inc.toNat, 0])
  | .loopi sig sigb len inc cnt => some (word 3 9 [7] [1] [8, 8, 5, 5, 22, 16] [sig.toNat, sigb.toNat, 0, len.toNat, inc.toNat, cnt.toNat])
  | .fadd fmt d a b => some (word 1 10 [3, 4] [fmt.toNat, 0] [5, 5, 5, 1] [d.toNat, a.toNat, b.toNat, 0])
  | .fsub fmt d a b => some (word 1 10 [3, 4] [fmt.toNat, 1] [5, 5, 5, 1] [d.toNat, a.toNat, b.toNat, 0])
  | .fmul fmt d a b => some (word 1 10 [3, 4] [fmt.toNat, 2] [5, 5, 5, 1] [d.toNat, a.toNat, b.toNat, 0])
  | .ffma fmt d a b => some (word 1 10 [3, 4] [fmt.toNat, 3] [5, 5, 5, 1] [d.toNat, a.toNat, b.toNat, 0])
  | .fdiv fmt d a b la => some (word 2 10 [3, 4] [fmt.toNat, 4] [5, 5, 5, 5, 4, 8] [d.toNat, a.toNat, b.toNat, 0, la.toNat, 0])
  | .fsqrt fmt d a la => some (word 2 10 [3, 4] [fmt.toNat, 5] [5, 5, 5, 5, 4, 8] [d.toNat, a.toNat, 0, 0, la.toNat, 0])
  | .fmin fmt d a b => some (word 1 10 [3, 4] [fmt.toNat, 6] [5, 5, 5, 1] [d.toNat, a.toNat, b.toNat, 0])
  | .fmax fmt d a b => some (word 1 10 [3, 4] [fmt.toNat, 7] [5, 5, 5, 1] [d.toNat, a.toNat, b.toNat, 0])
  | .fabs fmt d a => some (word 1 10 [3, 4] [fmt.toNat, 8] [5, 5, 5, 1] [d.toNat, a.toNat, 0, 0])
  | .fneg fmt d a => some (word 1 10 [3, 4] [fmt.toNat, 9] [5, 5, 5, 1] [d.toNat, a.toNat, 0, 0])
  | .fclass fmt d a => some (word 1 10 [3, 4] [fmt.toNat, 10] [5, 5, 5, 1] [d.toNat, a.toNat, 0, 0])
  | .fcmp k cc fmt a b => some (word 1 11 [2, 3, 2] [k.toNat, cc.toNat, fmt.toNat] [5, 5, 5, 1] [0, a.toNat, b.toNat, 0])
  | .fcvt src dst d a => some (word 2 12 [2, 5] [0, src.toNat] [5, 5, 5, 5, 4, 5, 3] [d.toNat, a.toNat, 0, 0, 0, dst.toNat, 0])
  | .topo d n => some (word 2 13 [7] [0] [5, 5, 22] [d.toNat, 0, n.toNat])
  | .capr d n => some (word 2 13 [7] [1] [5, 5, 22] [d.toNat, 0, n.toNat])
  | .srd d n => some (word 2 13 [7] [2] [5, 5, 10, 12] [d.toNat, 0, 0, n.toNat])
  | .swr a n => some (word 2 13 [7] [3] [5, 5, 10, 12] [0, a.toNat, 0, n.toNat])
  | .sysSwWrite a => some (word 2 13 [7] [3] [5, 5, 10, 12] [0, a.toNat, 0, 0])
  | .sseedWrite hi a => some (word 2 13 [7] [3] [5, 5, 10, 12] [0, a.toNat, 0, 32 + hi.toNat])
  | .bankpmWrite a => some (word 2 13 [7] [3] [5, 5, 10, 12] [0, a.toNat, 0, 17])
  | .nivWrite a => some (word 2 13 [7] [3] [5, 5, 10, 12] [0, a.toNat, 0, 64])
  | .ptrootWrite a => some (word 2 13 [7] [3] [5, 5, 10, 12] [0, a.toNat, 0, 320])
  | .collectiveStart a => some (word 2 13 [7] [3] [5, 5, 10, 12] [0, a.toNat, 0, 100])
  | .jckptWrite a => some (word 2 13 [7] [3] [5, 5, 10, 12] [0, a.toNat, 0, 529])
  | .perfr d n => some (word 2 13 [7] [4] [5, 5, 22] [d.toNat, 0, n.toNat])
  | .rndk d a b => some (word 1 13 [7] [5] [5, 5, 5, 1] [d.toNat, a.toNat, b.toNat, 0])
  | .trap code => some (word 2 15 [7] [0] [5, 5, 13, 9] [0, 0, 0, code.toNat])
  | .rett sig a => some (word 1 15 [7] [1] [8, 5, 3] [sig.toNat, a.toNat, 0])
  | .seth a g => some (word 2 15 [7] [2] [5, 5, 18, 4] [0, a.toNat, 0, g.toNat])
  | .cause d a => some (word 1 15 [7] [3] [5, 5, 5, 1] [d.toNat, a.toNat, 0, 0])
  | .smode m => some (word 2 15 [7] [4] [5, 5, 20, 1, 1] [0, 0, 0, 0, m.toNat])
  | .smodeServed m => some (word 2 15 [7] [4] [5, 5, 20, 1, 1] [0, 0, 0, 1, m.toNat])
  | .ld size n pi d a la off => some (word 2 16 [2, 1, 1, 3] [size.toNat, n.toNat, pi.toNat, 0] [5, 5, 4, 18] [d.toNat, a.toNat, la.toNat, off.toNat])
  | .st size pi d a off => some (word 2 16 [2, 1, 1, 3] [size.toNat, 0, pi.toNat, 1] [5, 5, 4, 18] [d.toNat, a.toNat, 0, off.toNat])
  | .ldv pi d a la off => some (word 2 17 [2, 1, 1, 3] [0, 0, pi.toNat, 0] [5, 5, 4, 18] [d.toNat, a.toNat, la.toNat, off.toNat])
  | .stv pi d a off => some (word 2 17 [2, 1, 1, 3] [0, 0, pi.toNat, 1] [5, 5, 4, 18] [d.toNat, a.toNat, 0, off.toNat])
  | .ldg size n pi d a b la s => some (word 2 18 [2, 1, 1, 3] [size.toNat, n.toNat, pi.toNat, 0] [5, 5, 5, 5, 4, 6, 2] [d.toNat, a.toNat, b.toNat, 0, la.toNat, 0, s.toNat])
  | .stg size pi d a b s => some (word 2 18 [2, 1, 1, 3] [size.toNat, 0, pi.toNat, 1] [5, 5, 5, 5, 4, 6, 2] [d.toNat, a.toNat, b.toNat, 0, 0, 0, s.toNat])
  | .lda size n d a b la => some (word 2 19 [2, 1, 1, 3] [size.toNat, n.toNat, 0, 0] [5, 5, 5, 5, 4, 8] [d.toNat, a.toNat, b.toNat, 0, la.toNat, 0])
  | .stl size d a b => some (word 2 19 [2, 1, 1, 3] [size.toNat, 0, 0, 1] [5, 5, 5, 5, 4, 8] [d.toNat, a.toNat, b.toNat, 0, 0, 0])
  | .atomAdd w64 n d a b la => some (word 2 20 [1, 1, 1, 4] [1, w64.toNat, n.toNat, 0] [5, 5, 5, 5, 4, 8] [d.toNat, a.toNat, b.toNat, 0, la.toNat, 0])
  | .atomAnd w64 n d a b la => some (word 2 20 [1, 1, 1, 4] [1, w64.toNat, n.toNat, 1] [5, 5, 5, 5, 4, 8] [d.toNat, a.toNat, b.toNat, 0, la.toNat, 0])
  | .atomOr w64 n d a b la => some (word 2 20 [1, 1, 1, 4] [1, w64.toNat, n.toNat, 2] [5, 5, 5, 5, 4, 8] [d.toNat, a.toNat, b.toNat, 0, la.toNat, 0])
  | .atomXor w64 n d a b la => some (word 2 20 [1, 1, 1, 4] [1, w64.toNat, n.toNat, 3] [5, 5, 5, 5, 4, 8] [d.toNat, a.toNat, b.toNat, 0, la.toNat, 0])
  | .atomMin w64 n d a b la => some (word 2 20 [1, 1, 1, 4] [1, w64.toNat, n.toNat, 4] [5, 5, 5, 5, 4, 8] [d.toNat, a.toNat, b.toNat, 0, la.toNat, 0])
  | .atomMax w64 n d a b la => some (word 2 20 [1, 1, 1, 4] [1, w64.toNat, n.toNat, 5] [5, 5, 5, 5, 4, 8] [d.toNat, a.toNat, b.toNat, 0, la.toNat, 0])
  | .atomSwap w64 n d a b la => some (word 2 20 [1, 1, 1, 4] [1, w64.toNat, n.toNat, 6] [5, 5, 5, 5, 4, 8] [d.toNat, a.toNat, b.toNat, 0, la.toNat, 0])
  | .atomCas w64 n d a b c la => some (word 2 20 [1, 1, 1, 4] [1, w64.toNat, n.toNat, 7] [5, 5, 5, 5, 4, 8] [d.toNat, a.toNat, b.toNat, c.toNat, la.toNat, 0])
  | .raddF32 a b k n => some (word 2 21 [7] [0] [5, 5, 5, 5, 4, 4, 4] [0, a.toNat, b.toNat, 0, 0, k.toNat, n.toNat])
  | .raddB16 a b k n => some (word 2 21 [7] [1] [5, 5, 5, 5, 4, 4, 4] [0, a.toNat, b.toNat, 0, 0, k.toNat, n.toNat])
  | .ldmeta pi d a off => some (word 2 24 [2, 1, 1, 3] [1, 1, pi.toNat, 0] [5, 5, 4, 18] [d.toNat, a.toNat, 0, off.toNat])
  | .stmeta pi d a off => some (word 2 24 [2, 1, 1, 3] [1, 1, pi.toNat, 1] [5, 5, 4, 18] [d.toNat, a.toNat, 0, off.toNat])
  | .pref x a off => some (word 2 24 [2, 1, 1, 3] [x.toNat, 0, 0, 2] [5, 5, 4, 18] [0, a.toNat, 0, off.toNat])
  | .put a b f len => some (word 3 22 [7] [0] [5, 5, 5, 5, 4, 12, 4, 4, 4, 2, 1, 2, 11] [0, a.toNat, b.toNat, 0, 0, f.rltn.toNat, f.rcore.toNat, f.rk.toNat, f.lk.toNat, f.cm.toNat, 0, 0, len.toNat])
  | .get a b f len => some (word 3 22 [7] [1] [5, 5, 5, 5, 4, 12, 4, 4, 4, 2, 1, 2, 11] [0, a.toNat, b.toNat, 0, 0, f.rltn.toNat, f.rcore.toNat, f.rk.toNat, f.lk.toNat, f.cm.toNat, 0, 0, len.toNat])
  | .getTransposed a b c f es len => some (word 3 22 [7] [1] [5, 5, 5, 5, 4, 12, 4, 4, 4, 2, 1, 2, 11] [0, a.toNat, b.toNat, c.toNat, 0, f.rltn.toNat, f.rcore.toNat, f.rk.toNat, f.lk.toNat, f.cm.toNat, 1, es.toNat, len.toNat])
  | .putn d a b c f len => some (word 3 22 [7] [2] [5, 5, 5, 5, 4, 12, 4, 4, 4, 2, 1, 2, 11] [d.toNat, a.toNat, b.toNat, c.toNat, 0, f.rltn.toNat, f.rcore.toNat, f.rk.toNat, f.lk.toNat, f.cm.toNat, 0, 0, len.toNat])
  | .getn d a b c f len => some (word 3 22 [7] [3] [5, 5, 5, 5, 4, 12, 4, 4, 4, 2, 1, 2, 11] [d.toNat, a.toNat, b.toNat, c.toNat, 0, f.rltn.toNat, f.rcore.toNat, f.rk.toNat, f.lk.toNat, f.cm.toNat, 0, 0, len.toNat])
  | .waitk d a k => some (word 2 23 [7] [0] [5, 5, 5, 5, 4, 4, 4] [d.toNat, a.toNat, 0, 0, 0, 0, k.toNat])
  | .waita d a b q => some (word 2 23 [7] [1] [5, 5, 5, 5, 4, 7, 1] [d.toNat, a.toNat, b.toNat, 0, 0, 0, q.toNat])
  | .fenceR a => some (word 1 25 [7] [0] [5, 5, 5, 1] [0, a.toNat, 0, 0])
  | .fenceO obs => some (word 2 25 [7] [1] [5, 5, 16, 6] [0, 0, 0, obs.toNat])
  | .fenceX src dst => some (word 2 25 [7] [2] [5, 5, 8, 6, 2, 6] [0, 0, 0, src.toNat, 0, dst.toNat])
  | .fenceL => some (word 0 25 [7] [3] [] [])
  | .spawn a b pc => some (word 3 26 [7] [0] [5, 5, 5, 5, 4, 18, 22] [0, a.toNat, b.toNat, 0, 0, 0, pc.toNat])
  | .spawnS a b c pc => some (word 3 26 [7] [1] [5, 5, 5, 5, 4, 18, 22] [0, a.toNat, b.toNat, c.toNat, 0, 0, pc.toNat])
  | .quit sig => some (word 1 27 [7] [0] [8, 5, 3] [sig.toNat, 0, 0])
  | .fork tgt => some (word 2 27 [7] [1] [8, 2, 22] [0, 0, tgt.toNat])
  | .join a => some (word 1 27 [7] [2] [5, 5, 5, 1] [0, a.toNat, 0, 0])
  | .yield => some (word 0 27 [7] [3] [] [])
  | .migrate a => some (word 1 27 [7] [4] [5, 5, 5, 1] [0, a.toNat, 0, 0])
  | .task a b c pc wq sq => some (word 3 28 [7] [0] [5, 5, 5, 5, 4, 14, 2, 2, 22] [0, a.toNat, b.toNat, c.toNat, 0, 0, sq.toNat, wq.toNat, pc.toNat])
  | .setev a q rt ltn => some (word 2 28 [7] [1] [5, 5, 1, 12, 7, 2] [0, a.toNat, rt.toNat, ltn.toNat, 0, q.toNat])
  | .clrev a q => some (word 2 28 [7] [2] [5, 5, 20, 2] [0, a.toNat, 0, q.toNat])
  | .waitev d a q any => some (word 2 28 [7] [3] [5, 5, 19, 1, 2] [d.toNat, a.toNat, 0, any.toNat, q.toNat])
  | .barcfg scope a b => some (word 2 29 [3, 4] [scope.toNat, 0] [5, 5, 15, 7] [0, a.toNat, 0, b.toNat])
  | .bar scope b => some (word 2 29 [3, 4] [scope.toNat, 1] [5, 5, 15, 7] [0, 0, 0, b.toNat])
  | .bara scope d a b => some (word 2 29 [3, 4] [scope.toNat, 2] [5, 5, 15, 7] [d.toNat, a.toNat, 0, b.toNat])
  | .barw scope d a b => some (word 2 29 [3, 4] [scope.toNat, 3] [5, 5, 15, 7] [d.toNat, a.toNat, 0, b.toNat])
  | .barred scope d a b => some (word 2 29 [3, 4] [scope.toNat, 4] [5, 5, 15, 7] [d.toNat, a.toNat, 0, b.toNat])
  | .send a b n => some (word 2 30 [7] [0] [5, 5, 5, 5, 4, 2, 6] [0, a.toNat, b.toNat, 0, 0, 0, n.toNat])
  | .sendv a b r => some (word 2 30 [7] [1] [5, 5, 5, 5, 4, 6, 2] [0, a.toNat, b.toNat, 0, 0, 0, r.toNat])
  | .recv d a b q => some (word 2 30 [7] [2] [5, 5, 5, 5, 4, 5, 3] [d.toNat, a.toNat, b.toNat, 0, 0, 0, q.toNat])
  | .recvv d q => some (word 2 30 [7] [3] [5, 5, 5, 5, 4, 5, 3] [d.toNat, 0, 0, 0, 0, 0, q.toNat])
  | .qbindQi q => some (word 2 31 [7] [0] [5, 5, 5, 5, 4, 6, 2] [0, 0, 0, 0, 0, q.toNat, 0])
  | .qbindQo a l => some (word 2 31 [7] [0] [5, 5, 5, 5, 4, 6, 2] [0, a.toNat, 0, 0, 0, l.toNat, 1])
  | .qbindQiOff => some (word 2 31 [7] [0] [5, 5, 5, 5, 4, 6, 2] [0, 0, 0, 0, 0, 0, 2])
  | .qbindQoOff => some (word 2 31 [7] [0] [5, 5, 5, 5, 4, 6, 2] [0, 0, 0, 0, 0, 0, 3])
  | .mqstat d q => some (word 2 31 [7] [1] [5, 5, 5, 5, 4, 5, 3] [d.toNat, 0, 0, 0, 0, 0, q.toNat])
  | .peek d a q => some (word 2 31 [7] [2] [5, 5, 5, 5, 4, 5, 3] [d.toNat, a.toNat, 0, 0, 0, 0, q.toNat])
  | .dqpush a b n => some (word 2 32 [7] [0] [5, 5, 5, 5, 4, 2, 6] [0, a.toNat, b.toNat, 0, 0, 0, n.toNat])
  | .dqpop d a b la nb q => some (word 2 32 [7] [1] [5, 5, 5, 5, 4, 3, 1, 4] [d.toNat, a.toNat, b.toNat, 0, la.toNat, 0, nb.toNat, q.toNat])
  | .dqcons d a b => some (word 2 32 [7] [2] [5, 5, 5, 5, 4, 8] [d.toNat, a.toNat, b.toNat, 0, 0, 0])
  | .arupd a b n => some (word 2 33 [7] [0] [5, 5, 5, 5, 4, 8] [0, a.toNat, b.toNat, 0, 0, n.toNat])
  | .arjoin d a b c vs => some (word 2 33 [7] [1] [5, 5, 5, 5, 4, 6, 2] [d.toNat, a.toNat, b.toNat, c.toNat, 0, 0, vs.toNat])
  | .arscan d a b c k => some (word 2 33 [7] [2] [5, 5, 5, 5, 4, 7, 1] [d.toNat, a.toNat, b.toNat, c.toNat, 0, 0, k.toNat])
  | .arcompact a b => some (word 2 33 [7] [3] [5, 5, 5, 5, 4, 8] [0, a.toNat, b.toNat, 0, 0, 0])
  | .frontadv a p => some (word 1 34 [7] [0] [5, 5, 5, 1] [0, a.toNat, p.toNat, 0])
  | .frontrd d s => some (word 1 34 [7] [1] [5, 5, 5, 1] [d.toNat, 0, s.toNat, 0])
  | .dqwaitf d a => some (word 1 34 [7] [2] [5, 5, 5, 1] [d.toNat, a.toNat, 0, 0])
  | .wpset d a s => some (word 2 35 [7] [0] [5, 5, 5, 5, 4, 4, 4] [d.toNat, a.toNat, 0, 0, 0, 0, s.toNat])
  | .park d a s => some (word 2 35 [7] [1] [5, 5, 5, 5, 4, 4, 4] [d.toNat, a.toNat, 0, 0, 0, 0, s.toNat])
  | .unpark d a s => some (word 2 35 [7] [2] [5, 5, 5, 5, 4, 4, 4] [d.toNat, a.toNat, 0, 0, 0, 0, s.toNat])
  | .standcfg a b n => some (word 2 35 [7] [3] [5, 5, 5, 5, 4, 2, 6] [0, a.toNat, b.toNat, 0, 0, 0, n.toNat])
  | .rtset a n => some (word 2 36 [7] [0] [5, 5, 5, 5, 4, 2, 6] [0, a.toNat, 0, 0, 0, 0, n.toNat])
  | .tlbinvAddr a => some (word 2 36 [7] [1] [5, 5, 5, 5, 4, 6, 2] [0, a.toNat, 0, 0, 0, 0, 0])
  | .tlbinvAll a => some (word 2 36 [7] [1] [5, 5, 5, 5, 4, 6, 2] [0, a.toNat, 0, 0, 0, 0, 1])
  | .pgattr d a b mask => some (word 2 36 [7] [2] [5, 5, 5, 5, 4, 2, 6] [d.toNat, a.toNat, b.toNat, 0, 0, 0, mask.toNat])
  | .keyselLoad d a => some (word 2 36 [7] [3] [5, 5, 5, 5, 4, 6, 2] [d.toNat, a.toNat, 0, 0, 0, 0, 0])
  | .keyselErase d => some (word 2 36 [7] [3] [5, 5, 5, 5, 4, 6, 2] [d.toNat, 0, 0, 0, 0, 0, 1])
  | .keyselStatus d => some (word 2 36 [7] [3] [5, 5, 5, 5, 4, 6, 2] [d.toNat, 0, 0, 0, 0, 0, 2])
  | .poisonqReadLocal d a => some (word 2 36 [7] [4] [5, 5, 5, 5, 4, 6, 2] [d.toNat, a.toNat, 0, 0, 0, 0, 0])
  | .poisonqClearLocal d a => some (word 2 36 [7] [4] [5, 5, 5, 5, 4, 6, 2] [d.toNat, a.toNat, 0, 0, 0, 0, 1])
  | .poisonqReadDevice d a => some (word 2 36 [7] [4] [5, 5, 5, 5, 4, 6, 2] [d.toNat, a.toNat, 0, 0, 0, 0, 2])
  | .poisonqClearDevice d a => some (word 2 36 [7] [4] [5, 5, 5, 5, 4, 6, 2] [d.toNat, a.toNat, 0, 0, 0, 0, 3])
  | .boost lvl => some (word 2 37 [7] [0] [5, 5, 20, 2] [0, 0, 0, lvl.toNat])
  | .notch => some (word 0 38 [7] [0] [] [])
  | .notchrd d n => some (word 1 38 [7] [1] [5, 5, 5, 1] [d.toNat, n.toNat, 0, 0])
  | .ckexcl a r n => some (word 2 38 [7] [2] [5, 5, 2, 4, 16] [0, a.toNat, r.toNat, 0, n.toNat])
  | .wdpet => some (word 0 38 [7] [3] [] [])
  | .vadd fmt d a b => some (word 1 48 [3, 4] [fmt.toNat, 0] [5, 5, 5, 1] [d.toNat, a.toNat, b.toNat, 0])
  | .vaddL fmt d a b la => some (word 2 48 [3, 4] [fmt.toNat, 0] [5, 5, 5, 5, 4, 8] [d.toNat, a.toNat, b.toNat, 0, la.toNat, 0])
  | .vsub fmt d a b => some (word 1 48 [3, 4] [fmt.toNat, 1] [5, 5, 5, 1] [d.toNat, a.toNat, b.toNat, 0])
  | .vsubL fmt d a b la => some (word 2 48 [3, 4] [fmt.toNat, 1] [5, 5, 5, 5, 4, 8] [d.toNat, a.toNat, b.toNat, 0, la.toNat, 0])
  | .vmul fmt d a b => some (word 1 48 [3, 4] [fmt.toNat, 2] [5, 5, 5, 1] [d.toNat, a.toNat, b.toNat, 0])
  | .vmulL fmt d a b la => some (word 2 48 [3, 4] [fmt.toNat, 2] [5, 5, 5, 5, 4, 8] [d.toNat, a.toNat, b.toNat, 0, la.toNat, 0])
  | .vdiv fmt d a b => some (word 1 48 [3, 4] [fmt.toNat, 3] [5, 5, 5, 1] [d.toNat, a.toNat, b.toNat, 0])
  | .vdivL fmt d a b la => some (word 2 48 [3, 4] [fmt.toNat, 3] [5, 5, 5, 5, 4, 8] [d.toNat, a.toNat, b.toNat, 0, la.toNat, 0])
  | .vmin fmt d a b => some (word 1 48 [3, 4] [fmt.toNat, 4] [5, 5, 5, 1] [d.toNat, a.toNat, b.toNat, 0])
  | .vminL fmt d a b la => some (word 2 48 [3, 4] [fmt.toNat, 4] [5, 5, 5, 5, 4, 8] [d.toNat, a.toNat, b.toNat, 0, la.toNat, 0])
  | .vmax fmt d a b => some (word 1 48 [3, 4] [fmt.toNat, 5] [5, 5, 5, 1] [d.toNat, a.toNat, b.toNat, 0])
  | .vmaxL fmt d a b la => some (word 2 48 [3, 4] [fmt.toNat, 5] [5, 5, 5, 5, 4, 8] [d.toNat, a.toNat, b.toNat, 0, la.toNat, 0])
  | .vpow fmt d a b => some (word 1 48 [3, 4] [fmt.toNat, 6] [5, 5, 5, 1] [d.toNat, a.toNat, b.toNat, 0])
  | .vpowL fmt d a b la => some (word 2 48 [3, 4] [fmt.toNat, 6] [5, 5, 5, 5, 4, 8] [d.toNat, a.toNat, b.toNat, 0, la.toNat, 0])
  | .vfma fmt d a b => some (word 1 49 [3, 4] [fmt.toNat, 0] [5, 5, 5, 1] [d.toNat, a.toNat, b.toNat, 0])
  | .vfmaL fmt d a b la => some (word 2 49 [3, 4] [fmt.toNat, 0] [5, 5, 5, 5, 4, 8] [d.toNat, a.toNat, b.toNat, 0, la.toNat, 0])
  | .vfms fmt d a b => some (word 1 49 [3, 4] [fmt.toNat, 1] [5, 5, 5, 1] [d.toNat, a.toNat, b.toNat, 0])
  | .vfmsL fmt d a b la => some (word 2 49 [3, 4] [fmt.toNat, 1] [5, 5, 5, 5, 4, 8] [d.toNat, a.toNat, b.toNat, 0, la.toNat, 0])
  | .vsqrt fmt d a => some (word 1 50 [3, 4] [fmt.toNat, 0] [5, 5, 5, 1] [d.toNat, a.toNat, 0, 0])
  | .vsqrtL fmt d a la => some (word 2 50 [3, 4] [fmt.toNat, 0] [5, 5, 5, 5, 4, 8] [d.toNat, a.toNat, 0, 0, la.toNat, 0])
  | .vrsq fmt d a => some (word 1 50 [3, 4] [fmt.toNat, 1] [5, 5, 5, 1] [d.toNat, a.toNat, 0, 0])
  | .vrsqL fmt d a la => some (word 2 50 [3, 4] [fmt.toNat, 1] [5, 5, 5, 5, 4, 8] [d.toNat, a.toNat, 0, 0, la.toNat, 0])
  | .vexp fmt d a => some (word 1 50 [3, 4] [fmt.toNat, 2] [5, 5, 5, 1] [d.toNat, a.toNat, 0, 0])
  | .vexpL fmt d a la => some (word 2 50 [3, 4] [fmt.toNat, 2] [5, 5, 5, 5, 4, 8] [d.toNat, a.toNat, 0, 0, la.toNat, 0])
  | .vlog fmt d a => some (word 1 50 [3, 4] [fmt.toNat, 3] [5, 5, 5, 1] [d.toNat, a.toNat, 0, 0])
  | .vlogL fmt d a la => some (word 2 50 [3, 4] [fmt.toNat, 3] [5, 5, 5, 5, 4, 8] [d.toNat, a.toNat, 0, 0, la.toNat, 0])
  | .vsin fmt d a => some (word 1 50 [3, 4] [fmt.toNat, 4] [5, 5, 5, 1] [d.toNat, a.toNat, 0, 0])
  | .vsinL fmt d a la => some (word 2 50 [3, 4] [fmt.toNat, 4] [5, 5, 5, 5, 4, 8] [d.toNat, a.toNat, 0, 0, la.toNat, 0])
  | .vcos fmt d a => some (word 1 50 [3, 4] [fmt.toNat, 5] [5, 5, 5, 1] [d.toNat, a.toNat, 0, 0])
  | .vcosL fmt d a la => some (word 2 50 [3, 4] [fmt.toNat, 5] [5, 5, 5, 5, 4, 8] [d.toNat, a.toNat, 0, 0, la.toNat, 0])
  | .vtanh fmt d a => some (word 1 50 [3, 4] [fmt.toNat, 6] [5, 5, 5, 1] [d.toNat, a.toNat, 0, 0])
  | .vtanhL fmt d a la => some (word 2 50 [3, 4] [fmt.toNat, 6] [5, 5, 5, 5, 4, 8] [d.toNat, a.toNat, 0, 0, la.toNat, 0])
  | .vabs fmt d a => some (word 1 50 [3, 4] [fmt.toNat, 7] [5, 5, 5, 1] [d.toNat, a.toNat, 0, 0])
  | .vabsL fmt d a la => some (word 2 50 [3, 4] [fmt.toNat, 7] [5, 5, 5, 5, 4, 8] [d.toNat, a.toNat, 0, 0, la.toNat, 0])
  | .vneg fmt d a => some (word 1 50 [3, 4] [fmt.toNat, 8] [5, 5, 5, 1] [d.toNat, a.toNat, 0, 0])
  | .vnegL fmt d a la => some (word 2 50 [3, 4] [fmt.toNat, 8] [5, 5, 5, 5, 4, 8] [d.toNat, a.toNat, 0, 0, la.toNat, 0])
  | .vcmp k cc fmt d a b => some (word 1 51 [2, 3, 2] [k.toNat, cc.toNat, fmt.toNat] [5, 5, 5, 1] [d.toNat, a.toNat, b.toNat, 0])
  | .vand d a b => some (word 1 52 [2, 1, 4] [0, 0, 0] [5, 5, 5, 1] [d.toNat, a.toNat, b.toNat, 0])
  | .vor d a b => some (word 1 52 [2, 1, 4] [0, 0, 1] [5, 5, 5, 1] [d.toNat, a.toNat, b.toNat, 0])
  | .vxor d a b => some (word 1 52 [2, 1, 4] [0, 0, 2] [5, 5, 5, 1] [d.toNat, a.toNat, b.toNat, 0])
  | .vshl size n d a b => some (word 1 52 [2, 1, 4] [size.toNat, n.toNat, 3] [5, 5, 5, 1] [d.toNat, a.toNat, b.toNat, 0])
  | .vshr size n d a b => some (word 1 52 [2, 1, 4] [size.toNat, n.toNat, 4] [5, 5, 5, 1] [d.toNat, a.toNat, b.toNat, 0])
  | .viadd size n d a b => some (word 1 52 [2, 1, 4] [size.toNat, n.toNat, 5] [5, 5, 5, 1] [d.toNat, a.toNat, b.toNat, 0])
  | .visub size n d a b => some (word 1 52 [2, 1, 4] [size.toNat, n.toNat, 6] [5, 5, 5, 1] [d.toNat, a.toNat, b.toNat, 0])
  | .vimul size n d a b => some (word 1 52 [2, 1, 4] [size.toNat, n.toNat, 7] [5, 5, 5, 1] [d.toNat, a.toNat, b.toNat, 0])
  | .vsel d a b => some (word 1 52 [2, 1, 4] [0, 0, 8] [5, 5, 5, 1] [d.toNat, a.toNat, b.toNat, 0])
  | .vdot fmt d a b => some (word 2 53 [7] [0] [5, 5, 5, 5, 4, 3, 5] [d.toNat, a.toNat, b.toNat, 0, 0, 0, fmt.toNat])
  | .vredAdd fmt d a => some (word 2 53 [7] [1] [5, 5, 5, 5, 4, 3, 5] [d.toNat, a.toNat, 0, 0, 0, 0, fmt.toNat])
  | .vredMin fmt d a => some (word 2 53 [7] [2] [5, 5, 5, 5, 4, 3, 5] [d.toNat, a.toNat, 0, 0, 0, 0, fmt.toNat])
  | .vredMax fmt d a => some (word 2 53 [7] [3] [5, 5, 5, 5, 4, 3, 5] [d.toNat, a.toNat, 0, 0, 0, 0, fmt.toNat])
  | .vredq fmt d a => some (word 2 53 [7] [4] [5, 5, 5, 5, 4, 3, 5] [d.toNat, a.toNat, 30, 0, 0, 0, fmt.toNat])
  | .vshuf size d a b => some (word 2 54 [7] [0] [5, 5, 5, 5, 4, 5, 1, 2] [d.toNat, a.toNat, b.toNat, 0, 0, 0, 0, size.toNat])
  | .vsplat size d a => some (word 2 54 [7] [1] [5, 5, 5, 5, 4, 5, 1, 2] [d.toNat, a.toNat, 0, 0, 0, 0, 0, size.toNat])
  | .vins size d a b => some (word 2 54 [7] [2] [5, 5, 5, 5, 4, 5, 1, 2] [d.toNat, a.toNat, b.toNat, 0, 0, 0, 0, size.toNat])
  | .vext size n d a b => some (word 2 54 [7] [3] [5, 5, 5, 5, 4, 5, 1, 2] [d.toNat, a.toNat, b.toNat, 0, 0, 0, n.toNat, size.toNat])
  | .vcvt src dst sc d a c => some (word 2 55 [2, 5] [0, src.toNat] [5, 5, 5, 5, 4, 5, 1, 2] [d.toNat, a.toNat, 0, c.toNat, 0, dst.toNat, sc.toNat, 0])
  | .vpack src dst sc d a c => some (word 2 55 [2, 5] [1, src.toNat] [5, 5, 5, 5, 4, 5, 1, 2] [d.toNat, a.toNat, 0, c.toNat, 0, dst.toNat, sc.toNat, 0])
  | .vunpack src dst sc d a c => some (word 2 55 [2, 5] [2, src.toNat] [5, 5, 5, 5, 4, 5, 1, 2] [d.toNat, a.toNat, 0, c.toNat, 0, dst.toNat, sc.toNat, 0])
  | .vrnd src dst d a => some (word 2 55 [2, 5] [3, src.toNat] [5, 5, 5, 5, 4, 5, 1, 2] [d.toNat, a.toNat, 0, 0, 0, dst.toNat, 0, 0])
  | .vaddM fmt d a b la x => some (word 2 56 [3, 4] [fmt.toNat, 0] [5, 5, 5, 5, 4, 8] [d.toNat, a.toNat, b.toNat, 0, la.toNat, x.toNat])
  | .vmulM fmt d a b la x => some (word 2 56 [3, 4] [fmt.toNat, 1] [5, 5, 5, 5, 4, 8] [d.toNat, a.toNat, b.toNat, 0, la.toNat, x.toNat])
  | .vfmaM fmt d a b la x => some (word 2 56 [3, 4] [fmt.toNat, 2] [5, 5, 5, 5, 4, 8] [d.toNat, a.toNat, b.toNat, 0, la.toNat, x.toNat])
  | .addwin p d a b la => some (word 2 57 [7] [0] [5, 5, 5, 5, 4, 7, 1] [d.toNat, a.toNat, b.toNat, 0, la.toNat, 0, p.toNat])
  | .rdwin fmt d a la => some (word 2 57 [7] [1] [5, 5, 5, 5, 4, 3, 5] [d.toNat, a.toNat, 0, 0, la.toNat, 0, fmt.toNat])
  | .clrwin a la => some (word 2 57 [7] [2] [5, 5, 5, 5, 4, 8] [0, a.toNat, 0, 0, la.toNat, 0])
  | .jord n => some (word 2 58 [7] [0] [5, 5, 17, 5] [0, 0, 0, n.toNat])
  | .jseed fmt d a b la => some (word 2 58 [7] [1] [5, 5, 5, 5, 4, 1, 2, 5] [d.toNat, a.toNat, b.toNat, 0, la.toNat, 0, fmt.toNat, 0])
  | .jseedv fmt d a b la => some (word 2 58 [7] [2] [5, 5, 5, 5, 4, 1, 2, 5] [d.toNat, a.toNat, b.toNat, 0, la.toNat, 0, fmt.toNat, 0])
  | .jconst fmt d a la => some (word 2 58 [7] [3] [5, 5, 5, 5, 4, 1, 2, 5] [d.toNat, a.toNat, 0, 0, la.toNat, 0, fmt.toNat, 0])
  | .jext fmt d a k la => some (word 2 58 [7] [4] [5, 5, 5, 5, 4, 1, 2, 5] [d.toNat, a.toNat, 0, 0, la.toNat, 0, fmt.toNat, k.toNat])
  | .jder fmt d a k la => some (word 2 58 [7] [5] [5, 5, 5, 5, 4, 1, 2, 5] [d.toNat, a.toNat, 0, 0, la.toNat, 0, fmt.toNat, k.toNat])
  | .jtrunc fmt d a k la => some (word 2 58 [7] [6] [5, 5, 5, 5, 4, 1, 2, 5] [d.toNat, a.toNat, 0, 0, la.toNat, 0, fmt.toNat, k.toNat])
  | .jfrd d h => some (word 2 58 [7] [7] [5, 5, 5, 5, 4, 7, 1] [d.toNat, 0, 0, 0, 0, 0, h.toNat])
  | .jfclr lo hi => some (word 2 58 [7] [8] [5, 5, 12, 5, 5] [0, 0, 0, hi.toNat, lo.toNat])
  | .mcfg tile keep acc afmt bfmt rows1 cols1 => some (word 3 59 [7] [0] [5, 5, 5, 5, 4, 2, 1, 1, 5, 5, 6, 6, 14] [0, 0, 0, 0, 0, tile.toNat, keep.toNat, acc.toNat, afmt.toNat, bfmt.toNat, rows1.toNat, cols1.toNat, 0])
  | .mclr mask => some (word 2 59 [7] [1] [5, 5, 18, 4] [0, 0, 0, mask.toNat])
  | .mres d tile => some (word 2 59 [7] [2] [5, 5, 19, 1, 2] [d.toNat, 0, 0, 0, tile.toNat])
  | .mresRelease d tile => some (word 2 59 [7] [2] [5, 5, 19, 1, 2] [d.toNat, 0, 0, 1, tile.toNat])
  | .mma a b c tile kb1 mx sc desc => some (word 3 60 [7] [0] [5, 5, 5, 5, 4, 2, 2, 6, 1, 1, 6, 22] [0, a.toNat, b.toNat, c.toNat, 0, tile.toNat, 0, kb1.toNat, mx.toNat, sc.toNat, 0, desc.toNat])
  | .mmj a b c kb1 => some (word 3 60 [7] [1] [5, 5, 5, 5, 4, 2, 2, 6, 2, 6, 22] [0, a.toNat, b.toNat, c.toNat, 0, 0, 0, kb1.toNat, 0, 0, 0])
  | .mrd a b tile fmt => some (word 2 61 [7] [0] [5, 5, 5, 5, 4, 2, 1, 5] [0, a.toNat, b.toNat, 0, 0, tile.toNat, 0, fmt.toNat])
  | .macc a b tile fmt => some (word 2 61 [7] [1] [5, 5, 5, 5, 4, 2, 1, 5] [0, a.toNat, b.toNat, 0, 0, tile.toNat, 0, fmt.toNat])
  | .xpkd d a x => some (word 2 61 [7] [2] [5, 5, 5, 5, 4, 8] [d.toNat, a.toNat, 0, 0, 0, x.toNat])
  | .seedUpdateArrival _ _ => none
  | .handlerStarved _ => none
  | .supervisorRoute _ => none
  | .atomicExecute _ => none
  | .raddUnitAdd _ => none
  | .remoteStorePerform _ => none
  | .remoteLoadServe _ => none
  | .replyArrival _ => none
  | .longResultArrival _ _ => none
  | .bankWakeDone _ => none
  | .prefFill _ _ => none
  | .putgetUnit _ _ => none
  | .putgetEntryComplete _ => none
  | .remoteCounterIncrement _ => none
  | .translationWalk _ => none
  | .rowSectorEviction _ => none
  | .taskSettle _ => none
  | .taskCommit _ => none
  | .frontierChange => none
  | .matrixStep _ => none
  | .gatherFetch => none
  | .matrixOpComplete _ => none
  | .streamStep => none
  | .streamComplete => none
  | .windowUnitWrite _ _ => none
  | .arrivalReceive _ => none
  | .arrivalResend _ => none
  | .slotFill => none
  | .stealProbe _ => none
  | .yieldExpiry _ => none
  | .remoteSetevArrival _ _ _ _ => none
  | .eventUnitCycle => none
  | .barcfgAnswer _ _ => none
  | .barrierCombine _ => none
  | .barrierReleaseWake _ _ _ => none
  | .messageAccept _ => none
  | .redirect _ => none
  | .rtoResend _ => none
  | .refusalResend _ => none
  | .deadLetterNotice _ _ => none
  | .mailboxWrite _ => none
  | .buckerBuck => none
  | .buckerReplay => none
  | .keyringChangeApply _ _ => none
  | .deltaPacketAccept _ => none
  | .knownFrontierUpdate _ => none
  | .wpsetSwitchDone _ => none
  | .parkRequestServe _ => none
  | .spill _ => none
  | .reload _ => none
  | .rtsetApply _ _ => none
  | .tlbinvApply _ _ => none
  | .pgattrComplete _ => none
  | .boostInterval => none
  | .launchRecord _ => none
  | .launchSlotWrite _ _ _ _ => none
  | .launchStart _ => none
  | .launchEnd .. => none
  | .swapOut => none
  | .swapIn => none
  | .notchPoint => none
  | .earlyNotch => none
  | .notchCapture => none
  | .notchCopyLine => none
  | .notchCommit => none
  | .shadowFold => none
  | .rebase => none
  | .waitExpired _ => none
  | .tileWatchdog => none
  | .tileFault _ _ _ => none
  | .fieldPowerLoss _ => none
  | .siteUnreachable _ _ => none
  | .select => none
  | .restore => none
  | .replay => none
  | .bind => none
  | .release => none
  | .catchStore _ => none
  | .foldTile => none
  | .foldResidencySwitch => none
  | .recoveryFail => none
  | .hostMemAccess .. => none
  | .peerAccess .. => none
  | .scaleoutPacketReceive _ _ _ _ => none
  | .laneRetire _ => none
  | .portRekey _ => none
  | .collectiveStepReceive _ _ _ _ => none
  | .collectiveStepAck _ _ => none
  | .collectiveStepTimeout _ _ => none
  | .tierEpochEnd => none
  | .tierCopyLine _ => none
  | .tierSwitch _ => none
  | .jobCheckpointService => none
  | .jobRestore _ => none
  | .channelRetire _ => none
  | .stripeMove => none
  | .dieMapOut => none
  | .mapOutAck => none
  | .firmwareMeasure _ => none
  | .hingeAcknowledgement _ => none
  | .scaleoutPortDown _ => none
  | .scaleoutPortUp _ => none
  | .hostLinkDown => none
  | .hostLinkUp _ => none
  | .cxlSnoop _ => none
  | .standGrantWrite _ _ _ _ => none
  | .hostApertureWrite _ _ _ => none
  | .peerExportWrite _ _ _ => none
  | .podConfigure _ _ _ => none
  | .standDelegationWrite _ _ _ => none
  | .auditLogAck _ => none
  | .modulePowerOn _ => none
  | .linkRetry _ => none

/-- The instruction that the decoder reads from the bits w as the opcode table numbers them: the head in the highest
halfword of the row's bits, its tail below it, and zeros for a tail the row's bits do not reach. -/
noncomputable def decodeTableWord (nbits w : Nat) : Option Instr :=
  let n := (nbits - 16) / 16 * 16
  match decode ⟨.ofNat 16 (w / 2 ^ n), .ofNat 64 (w % 2 ^ n)⟩ with
  | .ok i => some i
  | .illegal _ => none

end Sys2Proof
end

