-- ==== Sys2Proof/Machine/SMap.lean ====
section
/-! DEFINITION. Sparse tables by a natural key, and the canonical byte memory: a list of keys strictly rising with no
entry equal to what an unlisted key reads as. -/

namespace Sys2Proof.Machine

/-- A table by key: pairs with keys strictly rising. -/
abbrev SMap (α : Type) := List (Nat × α)

namespace SMap
variable {α : Type}

/-- The entry at a key. -/
def find (k : Nat) : SMap α → Option α
  | [] => none
  | (j, x) :: m => if k < j then none else if j = k then some x else find k m

/-- The entry at a key, or the value an unlisted key reads as. -/
def getD (m : SMap α) (k : Nat) (d : α) : α := (find k m).getD d

/-- The table without the entry at a key. -/
def erase (k : Nat) : SMap α → SMap α
  | [] => []
  | (j, x) :: m => if k < j then (j, x) :: m else if j = k then m else (j, x) :: erase k m

/-- The table with the entry at a key replaced or added. -/
def put (k : Nat) (v : α) : SMap α → SMap α
  | [] => [(k, v)]
  | (j, x) :: m => if k < j then (k, v) :: (j, x) :: m else if j = k then (k, v) :: m else (j, x) :: put k v m

/-- Write a value; the value an unlisted key reads as is not listed. -/
def set [DecidableEq α] (d : α) (k : Nat) (v : α) (m : SMap α) : SMap α := if v = d then erase k m else put k v m

/-- Every key is at least `lo`, keys rise strictly and no entry is `d`. -/
def wfFrom [DecidableEq α] (d : α) : Nat → SMap α → Bool
  | _, [] => true
  | lo, (j, x) :: m => decide (lo ≤ j) && decide (x ≠ d) && wfFrom d (j + 1) m

end SMap

end Sys2Proof.Machine
end

