-- ==== Sys2Proof/Machine/State.lean ====
section
/-! DEFINITION. The state of the machine: one core with its sixteen strand slots and engines, the units of the tile it
stands on, the rim controller's tables and the module's memories, all plain data; the reasons a step can stop; and the
state after power-on. -/

namespace Sys2Proof.Machine

/-- The reasons for which the machine itself would stop. The manual gives none: what goes wrong is a trap, a status, a
lost packet or a recovery, and the machine goes on. No constructor, so nothing raises one. -/
inductive Fault where
deriving DecidableEq, Repr

/-- No meaning. -/
inductive Refusal where
  /-- Raised by the arm of an instruction that the model has not reached. Safe: the run stops. -/
  | notModelled (mnemonic : String)
deriving DecidableEq, Repr

/-! ## A strand slot -/

/-- The seven states of a slot (01 R12). -/
inductive SlotState where
  | empty | ready | window | sleep | matrix | trapped | parked
deriving DecidableEq, Repr

/-- A rectangle of the logical grid (08 R198). -/
structure Rect where
  colLo : Nat
  rowLo : Nat
  colHi : Nat
  rowHi : Nat
deriving DecidableEq, Repr

/-- What a sleeping slot waits for (01 R12): the condition that lets its head be tried again, or an answer that wakes
it when it arrives. -/
inductive Wait where
  /-- The loads, stores and atomics of the strand to the rectangle have performed (09 R229). -/
  | rect (r : Rect)
  /-- No `LDA` of the strand whose rectangle holds the tile awaits its value (08 R199). -/
  | acquire (ltn : Nat)
  /-- Every strong access has performed (09 R230). -/
  | strong
  /-- Every write of the paths of the mask has performed (09 R231). -/
  | paths (mask : BitVec 6)
  /-- Every access of the strand has performed (09 R232). -/
  | all
  /-- A put/get entry is free (08 R206). -/
  | entry
  /-- So many hold entries are free (12 R299, 13 R327). -/
  | hold (n : Nat)
  /-- The counter holds an error or the count (08 R212). -/
  | counter (k : BitVec 4) (target : Nat)
  /-- The word at an offset equals the value (false) or differs from it (true) (08 R213). -/
  | word (off : BitVec 22) (v : Word) (differs : Bool)
  /-- Event bits of a quarter, all or any; d receives the quarter (11 R276). -/
  | events (q : Fin 4) (mask : Word) (any : Bool) (d : Reg)
  /-- The inbound queue holds a message (12 R306). -/
  | message (q : Fin 8)
  /-- The inbound queue holds four words (12 R306). -/
  | words (q : Fin 8)
  /-- The delta queue holds an untaken record (13 R328). -/
  | records (q : Fin 16)
  /-- The known frontier exceeds the time; d receives it (13 R336). -/
  | frontier (t : Word) (d : Reg)
  /-- The strand's task holds the lowest key of the stand (09 R235, R236). -/
  | lowestKey
  /-- No speculative task of a lower key buffers the line (09 R234). -/
  | line (addr : Nat)
  /-- The results of all open windows have arrived (11 R279). -/
  | windows
  /-- Fewer than four collectives of the core are outstanding (18 R421). -/
  | collective
  /-- No stream, window write or entry of the strand names an ENC page (17 R406 ERASE). -/
  | encrypted
  /-- The tile cycle has been reached (11 R280). -/
  | cycle (c : Nat)
  /-- The switch of a slot's workspace is done; d receives the old one (16 R391). -/
  | switch (slot : Fin 16) (d : Reg) (old : Word)
  /-- An answer is to arrive: it writes the result and wakes the slot. -/
  | answer
deriving DecidableEq, Repr

/-- One write that the end of a window makes (01 R20). -/
inductive WinWrite where
  | reg (r : Reg) (v : Word)
  /-- The bits of the mask of vector register r. -/
  | vec (r : Nat) (v mask : Vec)
  /-- The bits of the mask of `sw`. -/
  | swSet (mask v : Word)
  | swOr (v : Word)
  | jfOr (v : BitVec 128)
deriving DecidableEq, Repr

/-- The head that a trap reports, with the address of the head after its bundle (07 R177). -/
structure HeadInfo where
  fpc : BitVec 22
  head : BitVec 16
  tail : Word
  pair : Bool
  second : Bool
  npc : BitVec 22
deriving DecidableEq, Repr

/-- A trap to be raised: its code, DETAIL and ADDR (07 R177). -/
structure Cause where
  code : BitVec 9
  detail : BitVec 32
  addr : Word
deriving DecidableEq, Repr

/-- How the data of a reply becomes the write of a window: not at all, an extended scalar (08 R195), or the enabled lanes
of a vector. -/
inductive Dest where
  | known
  | word (d : Reg) (bytes : Nat) (natural : Bool)
  | lanes (d : Reg) (mask : Vec)
deriving DecidableEq, Repr

/-- A head as it stands in its line: its code address, head and tail, the head after it in fetch order (03 R68), and
whether it is the second head of a pair (01 R19). -/
structure LineHead where
  pc : BitVec 22
  head : BitVec 16
  tail : Word
  next : BitVec 22
  second : Bool
deriving DecidableEq, Repr

/-- A live loop with its captured body (04 R108, R109). -/
structure Loop where
  body : List LineHead
  left : Nat
  pass : Nat
  /-- The increment line's thirty-two halfwords (03 R91). -/
  inc : List (BitVec 16)
  sigb : Byte
deriving DecidableEq, Repr

/-- An open lookahead window (01 R20). -/
structure Window where
  tag : Nat
  /-- Heads still to issue before the window ends. -/
  left : Nat
  arrived : Bool
  writes : List WinWrite
  dest : Dest
  /-- The trap that its end raises after its writes (08 R196, 13 R325). -/
  trap : Option Cause
  info : HeadInfo
  /-- The rectangle of an `LDA` (08 R199). -/
  acquire : Option Rect
  /-- A `JOIN`, whose old value decides at the window's end whether the strand goes on (11 R274). -/
  join : Bool
  /-- The slice line that a window operation writes at the end of its window, with the unit's bytes (05 R143). -/
  store : Option Nat
  /-- Where the strand resumes when the trap leaves RPC = FPC (13 R326): PC, fold and loops. -/
  back : Option (BitVec 22 × Byte × List Loop)
deriving DecidableEq, Repr

/-- What a handler keeps of the strand it serves (07 R174, R177, R182, R183). -/
structure Handler where
  served : Fin 16
  frame : List Word
  resumePriv : Bool
deriving DecidableEq, Repr

/-- A `qo` binding with its assembly buffer (12 R303). -/
structure QoBinding where
  dest : Word
  len : Nat
  buf : List Word
deriving DecidableEq, Repr

/-- A stamped task's key after its stamp: the slot it started in (09 R233). -/
structure TaskKey where
  stamp : Word
  ltn : Nat
  core : Nat
  slot : Nat
deriving DecidableEq, Repr

/-- A buffered line of a speculative task: which bytes are written, and their values (09 R233). -/
structure SpecLine where
  mask : List Bool
  data : List Byte
deriving DecidableEq, Repr

/-- A stamped task (09 R233 to R237). Lines are named by their address in the model's memory. -/
structure Task where
  key : TaskKey
  settled : Bool
  words : List Word
  pc : BitVec 22
  priv : Bool
  /-- The workspace at the task's creation and what its 768 bytes held then (09 R237). -/
  wp : BitVec 22
  regs : List Byte
  lines : SMap SpecLine
  reads : List Nat
deriving DecidableEq, Repr

/-- A trap that a slot takes at its first turn after an error has arrived (08 R196, 12 R300, 18 R423). `info` is the
store's head; none means that the head due is reported. -/
structure Deferred where
  cause : Cause
  info : Option HeadInfo
deriving DecidableEq, Repr

/-- A slice line of a payload not yet moved (01 R16): a `SEND` or `DQPUSH` read, or a `RECV` write with its words. -/
structure PayloadLine where
  line : Nat
  off : BitVec 22
  n : Nat
  /-- Words to write with their poison, none for a read. -/
  write : Option (List (Word × Bool))
  /-- The hold entry that a read adds its words to, and whether it is the last of them. -/
  hold : Option Nat
  last : Bool
deriving DecidableEq, Repr

/-- A `DQPUSH` whose records are still being read (13 R327): where they go, the hold entries it has taken, the slot's hold at
its issue, the least time of the records as they stood then, its head, and what has been read. -/
structure Push where
  ltn : Nat
  core : Nat
  q : Nat
  entries : Nat
  held : Word
  least : Word
  info : HeadInfo
  records : List Delta
deriving DecidableEq, Repr

/-- The sources that the heads of a bundle read, where they are kept apart from what the bundle writes: memory, `sw`, `jf`
and the stochastic seed as they stood at a turn (01 R19, 07 R184). -/
structure Snap where
  mem : List Host.Cell
  sw : Word
  jf : BitVec 128
  sseed0 : Word
  sseed1 : Word
deriving DecidableEq, Repr

/-- One strand slot. -/
structure Slot where
  st : SlotState
  /-- Names the strand: no two strands of the core share it. -/
  strand : Nat
  pc : BitVec 22
  priv : Bool
  sw : Word
  jf : BitVec 128
  fold : Byte
  /-- An annulled first head of a pair ends the block, with the partner that still issues (03 R80). -/
  ends : Bool
  wp : BitVec 22
  /-- The line that the strand has entered, with its thirty-two halfwords (03 R70). -/
  line : Option (BitVec 22 × List (BitVec 16))
  windows : List Window
  loops : List Loop
  lastTurn : Option Nat
  wait : Option Wait
  /-- The tile cycle in which the current wait began (19 R450). -/
  waitFrom : Option Nat
  /-- For a head that has issued and then sleeps: where it stands, with the fold and the loops before it (18 R423, 19 R450). -/
  waitAt : Option (BitVec 22 × Byte × List Loop)
  exempt : Bool
  handler : Option Handler
  qi : Option (Fin 8)
  qo : Option QoBinding
  /-- Records taken by the latest `DQPOP`, with their queue (13 R321). -/
  taken : List (Fin 16 × Delta)
  task : Option Task
  /-- SET mask and quarter of a strand made from a `TASK` entry (11 R269). -/
  setOnEnd : Option (Fin 4 × Word)
  deferred : List Deferred
  payload : List PayloadLine
  pushes : List Push
  /-- Park requests that wait for this slot's boundary (16 R385), and the order in which it was parked. -/
  parkAsked : List ParkReq
  parkedAt : Nat
  /-- Its context is in the spill area (16 R389). -/
  spilled : Bool
  /-- Where the slot goes when it is unparked: the state before the park. -/
  before : SlotState
  /-- The bucker strand (12 R302). -/
  bucker : Bool
  /-- The checker withheld this head once (01 R27). -/
  retried : Bool
  /-- The rim's firmware performs this slot's bundle, every format code of R43 accepted, from the sources as they stood at
  the raising turn (02 R43, 07 R184). -/
  emulate : Option Snap
deriving DecidableEq, Repr

/-- A slot that holds no strand; the fields of a strand at their creation values (01 R35, R36; 03 R78). -/
def Slot.none : Slot :=
  { st := .empty, strand := 0, pc := 0, priv := false, sw := 0xFF00, jf := 0, fold := 0x5A, ends := false, wp := 0, line := .none,
    windows := [], loops := [], lastTurn := .none, wait := .none, waitFrom := .none, waitAt := .none, exempt := false,
    handler := .none, qi := .none, qo := .none, taken := [], task := .none, setOnEnd := .none, deferred := [],
    payload := [], pushes := [], parkAsked := [], parkedAt := 0, spilled := false, before := .ready, bucker := false,
    retried := false, emulate := .none }

/-! ## The core's engines -/

/-- A completion counter (08 R211). -/
structure Counter where
  count : BitVec 32
  err : Byte
  faddr : Word
deriving DecidableEq, Repr

/-- What a put/get entry moves (08 R206). -/
inductive PgKind where
  | put | get | transposed (es : BitVec 2) (pitch : Nat) | putn | getn | radd (b16 : Bool)
deriving DecidableEq, Repr

/-- An entry of the put/get queue (08 R206 to R210). -/
structure PgEntry where
  id : Nat
  kind : PgKind
  strand : Nat
  slot : Nat
  /-- Device-virtual address, or the SRAM destination of a `RADD`. -/
  dev : Nat
  /-- Slice offset. -/
  slice : Nat
  units : Nat
  /-- Notify address and value. -/
  notify : Option (Nat × Word)
  ctr : PgCtr
  /-- Units started and units performed. -/
  started : Nat
  performed : Nat
  err : Byte
  faddr : Word
  /-- 0 while units run, 1 once the notify write has been made, 2 once the counters have been incremented. -/
  stage : Nat
deriving DecidableEq, Repr

/-- A matrix tile (10 R241, R242): its 3,072 words, listed where they are not zero, its configuration and owner, and
whether an operation on it is in progress or parked (R246). -/
structure MTile where
  words : SMap (BitVec 32)
  configured : Bool
  acc : Bool
  afmt : BitVec 5
  bfmt : BitVec 5
  rows : Nat
  cols : Nat
  owner : Option (Fin 16)
  live : Bool
deriving DecidableEq, Repr

/-- The kinds of matrix operation (10 R247 to R260). -/
inductive MatKind where
  | mma | mmj | mrd | macc | xpkd
deriving DecidableEq, Repr

/-- A line in an operation's latch (10 R255): the cycle of its fetch, what stops the unit that uses it (R256), its bytes. -/
structure Latched where
  at_ : Nat
  bad : Option Cause
  bytes : List Byte
deriving DecidableEq, Repr

/-- A live matrix operation (10 R254 to R260), with the operands it read at issue. -/
structure MatOp where
  slot : Fin 16
  kind : MatKind
  tiles : List Nat
  /-- Slice offsets of the rows of A (R248). -/
  rowsA : List Nat
  /-- Base of B; destination or source rows of `MRD` and `MACC`; and their pitch. -/
  base : Nat
  pitch : Nat
  mx : Bool
  scale : Option (BitVec 32)
  planeA : Nat
  planeB : Nat
  /-- Coefficient strides and order of `MMJ` (R257). -/
  sa : Nat
  sb : Nat
  jo : Nat
  fmt : BitVec 5
  /-- `sw`, w28 and the stochastic seed at issue. -/
  sw : Word
  index : Word
  seed : BitVec 128
  /-- Slice destination and source of `XPKD`, and their registers. -/
  dst : Nat
  src : Nat
  regs : Reg × Reg
  /-- What the two registers hold beyond the offsets: the form of the address (08 R188). -/
  form : Word × Word
  /-- First unit of this issue, number of units, steps of a unit, and steps performed. -/
  first : Nat
  units : Nat
  perUnit : Nat
  steps : Nat
  /-- Lines to fetch in order (R255): for planes and A with the steps that must have been performed before and the first
  unit of their group; then those of B. -/
  wantA : List (Nat × Nat × Nat)
  wantB : List Nat
  /-- Lines fetched: of planes and A by slice offset, of B by step. -/
  latchA : SMap Latched
  latchB : SMap Latched
  flags : Word
  /-- What stops the operation at a unit, and whether a park has ended it there (R256). -/
  stop : Option Cause
  halt : Bool
  /-- The head and where it stands: NPC, fold, loops and window counts before it. -/
  info : HeadInfo
  npc : BitVec 22
  fold : Byte
  loops : List Loop
  counts : List (Nat × Nat)
deriving DecidableEq, Repr

/-- A stream form in the stream unit (05 R136 to R139), with what it read at its issue. -/
structure Stream where
  slot : Fin 16
  strand : Nat
  tag : Nat
  /-- 0 `VADD.M`, 1 `VMUL.M`, 2 `VFMA.M`. -/
  op : Nat
  fmt : BitVec 3
  a : Nat
  b : Nat
  d : Nat
  n : Nat
  regs : Reg × Reg × Reg
  sw : Word
  /-- w28 and the stochastic seed. -/
  index : Word
  seed : BitVec 128
  /-- Steps performed. -/
  step : Nat
  /-- Cycles left of the step in progress, 0 before it starts; and the banks of its accesses not yet served. -/
  left : Nat
  banks : List (Fin 3)
  flags : Word
  jf : BitVec 128
  /-- The last step is done, or a subnormal operand has stopped it (R139). -/
  ended : Bool
  stopped : Option Cause
deriving DecidableEq, Repr

/-- An operation of the window unit (05 R141 to R144) whose window is open, or whose write has still to be made: what the
window's 88 bytes hold after it, the words that it writes, and when its result is ready. -/
structure WinOp where
  slot : Fin 16
  strand : Nat
  tag : Nat
  addr : Nat
  after : List Byte
  writes : List (Nat × Word)
  due : Nat
deriving DecidableEq, Repr

/-- A delta queue (13 R314, R315). -/
structure DQueue where
  valid : Bool
  cp : BitVec 2
  log2cap : Nat
  qid : BitVec 16
  base : BitVec 22
  /-- Untaken records in queue order. -/
  untaken : List Delta
  /-- Ring place of the first untaken record, and what the engine has left in the ring. -/
  head : Nat
  ring : List Host.Cell
deriving DecidableEq, Repr

/-- An operation of the delta engine whose window is open (13 R325): its tag, none for packet acceptance; the accesses that
still claim a bank, with whether each reads; the arrangement's ranges, and what the engine has left there (13 R339). -/
structure EngineOp where
  tag : Option Nat
  accesses : List (Nat × Bool)
  spans : List (Nat × Nat)
  cells : List Host.Cell
deriving DecidableEq, Repr

/-- A message of an inbound queue (12 R301): its source and the words not yet popped. -/
structure InMsg where
  sltn : Nat
  score : Nat
  words : List Word
  /-- Which of the words come from poisoned lines (17 R407). -/
  poison : List Bool
deriving DecidableEq, Repr

/-- A message in the bucker's heap (12 R302). -/
structure HeapMsg where
  queue : BitVec 3
  sltn : Nat
  score : Nat
  seq : BitVec 32
  words : List Word
  poison : List Bool
  /-- Heap lines that the bucker has still to write, and lines it has replayed. -/
  toWrite : Nat
  replayed : Nat
  /-- The lines of the heap that it takes, its header's first. -/
  places : List Nat
deriving DecidableEq, Repr

/-- The bucker strand of a core (12 R302). -/
structure Bucker where
  enabled : Bool
  base : BitVec 22
  lines : Nat
  heap : List HeapMsg
deriving DecidableEq, Repr

/-- A strand that waits at a barrier slot (11 R285): the generation that it waits for, none until the combining point has
named it, and what happens then: RES goes to `reg`; `BARA` writes the generation as soon as it is named. `info`, `fold`
and `loops` take the head back when the combining point refuses it (R284); `member` and `arrived` are the slot's bits before
the arrival. -/
structure BarWaiter where
  slot : Fin 16
  strand : Nat
  gen : Option (BitVec 16)
  reg : Option Reg
  answer : Bool
  info : HeadInfo
  fold : Byte
  loops : List Loop
  member : Bool
  arrived : Bool
deriving DecidableEq, Repr

/-- A `BARCFG` that awaits the combining point: what that has decided, the cycle in which its answer arrives, and the answer
once it is there (11 R284). -/
structure BarAsk where
  slot : Fin 16
  strand : Nat
  b : BitVec 7
  scope : BitVec 3
  word : Word
  seen : Option Bool
  due : Nat
  ok : Option Bool
deriving DecidableEq, Repr

/-- A barrier slot with the domain's own state at its combining point (11 R281). -/
structure Bar where
  count : BitVec 24
  scope : BitVec 3
  op : BitVec 3
  gen : BitVec 16
  arr : BitVec 24
  perm : BitVec 24
  members : BitVec 16
  arrived : BitVec 16
  acc : Word
  res : Word
  /-- COUNT and OP of the open generation's first arrival at the combining point (R284). -/
  first : Option (BitVec 24 × BitVec 3)
  /-- GEN of the domain at the combining point. -/
  domGen : BitVec 16
  waiters : List BarWaiter
deriving DecidableEq, Repr

/-- An unconfigured barrier slot (11 R281). -/
def Bar.none : Bar := ⟨0, 0, 0, 0, 0, 0, 0, 0, 0, 0, .none, 0, []⟩

/-- The overflow region of the deque (11 R272). -/
structure Deque where
  hw : List TaskEntry
  base : BitVec 22
  ovfn : Nat
  /-- Entries in the region; the first of them stands at the base. -/
  inRegion : Nat
  first : Nat
deriving DecidableEq, Repr

/-- An exclusion range (19 R435): lines, and whether it leaves at the next notch. -/
structure Exclusion where
  base : Nat
  lines : Nat
  removed : Bool
deriving DecidableEq, Repr

/-- A spilled context (16 R389): the slot's record and its owned tiles. -/
structure Spilled where
  slot : Slot
  from_ : Fin 16
  regs : List Byte
  tiles : List (Fin 4 × MTile)
  /-- It has been unparked and waits for a slot. -/
  wanted : Bool
  /-- What its area in device memory holds: keys and bytes (R389). -/
  area : List (Nat × List Byte)
deriving DecidableEq, Repr

/-- A trap that waits for a handler slot or for the supervisor route (07 R175, R184): the served slot, the trapping
cycle, the vector, the frame, and for FORMAT_ABSENT the sources that an emulation reads. -/
structure TrapReq where
  slot : Fin 16
  since : Nat
  vector : Word
  frame : List Word
  sources : Option Snap
deriving DecidableEq, Repr

/-- What reaches the core in a cycle and is there for its strands from the next one on: a write at one of the tile's
slices (09 R222), a message in an inbound queue (12 R301), records in a delta queue (13 R318). -/
inductive Landing where
  | store (key : Nat) (data : List (Bool × Byte)) (poison : Bool)
  | message (q : Fin 8) (m : InMsg)
  | records (q : Fin 16) (l : List Delta)
deriving DecidableEq, Repr

/-- The core. -/
structure Core where
  ltn : Nat
  num : Nat
  slots : Vector Slot 16
  /-- The slot that last took a turn (01 R14), and a spare matrix cycle (01 R22), and a gather (10 R255). -/
  rot : Fin 16
  /-- The slot that a droop bubble has delayed: it takes the next turn (01 R25). -/
  owed : Option (Fin 16)
  matRot : Fin 16
  gatherRot : Fin 16
  nextStrand : Nat
  nextTag : Nat
  droop : Word
  /-- Slice reads of this cycle and of the sixteen before it, latest first (01 R25). -/
  reads : List Nat
  bankpm : Word
  /-- Banks waking from RETAIN and the cycle in which each is ACTIVE (01 R33). -/
  waking : List (Fin 3 × Nat)
  /-- Banks served in the current cycle and in the one before it (01 R17). -/
  served : List (Fin 3)
  servedBefore : List (Fin 3)
  /-- What this cycle has brought, first to come first. -/
  landing : List Landing
  /-- Lines of a commit in progress, with the cycle in which it is over (09 R236). -/
  commits : List (Nat × List Nat)
  /-- Banks that workspace buffer traffic claims in the coming cycle (01 R17). -/
  claimed : List (Fin 3)
  thv : Vector Word 16
  sseed0 : Word
  sseed1 : Word
  handlerQ : List TrapReq
  /-- Frames on their way to the rim controller (07 R184). -/
  superQ : List TrapReq
  k : Vector Counter 16
  pg : List PgEntry
  nextEntry : Nat
  /-- Read buffers of paths G, M and D: older lines that may still be served (09 R221). -/
  bufG : SMap (List Byte)
  bufM : SMap (List Byte)
  bufD : SMap (List Byte)
  tiles : Vector MTile 4
  mat : List MatOp
  streams : List Stream
  winOps : List WinOp
  dq : Vector DQueue 16
  engine : List EngineOp
  mq : Vector (List InMsg) 8
  bucker : Bucker
  deque : Deque
  arrivals : List Arrival
  /-- Ready tasks with their places in the table (11 R278). -/
  ready : List (Nat × TaskEntry)
  /-- The cycle in which a slot was last filled: at most one is in a cycle (11 R265). -/
  filledAt : Option Nat
  /-- Next victim of the steal search, none while the core is not idle (11 R273). -/
  stealAt : Option Nat
  bars : SMap Bar
  barAsks : List BarAsk
  perf : Vector Word 64
  excl : SMap Exclusion
  boost : BitVec 2
  collOrd : BitVec 32
  collOut : Nat
  /-- Park requests not yet served, with the cycle of their arrival (16 R387). -/
  parkReqs : List (ParkReq × Bool)
  parks : Nat
  spilled : SMap Spilled
  nextSpill : Nat
deriving DecidableEq, Repr

/-! ## The tile -/

/-- A request sent and not yet answered (12 R295, 20 R463). -/
structure Sent where
  q : Req
  /-- The tile cycle from which it is sent again. -/
  due : Nat
  /-- Kept in the request interface, since its destination is not BOUND (12 R516). -/
  kept : Bool
  strand : Nat
  info : HeadInfo
deriving DecidableEq, Repr

/-- Where a packet of the hold buffer stands (12 R297, R299). -/
inductive HoldState where
  | waiting | sent (cycle : Nat) | refused (cycle : Nat) | mailbox
deriving DecidableEq, Repr

/-- An entry of the hold buffer (12 R299). -/
structure HoldEntry where
  id : Nat
  p : Packet
  st : HoldState
  strand : Nat
deriving DecidableEq, Repr

/-- An entry of the task table (11 R277, R278). -/
structure TableEntry where
  index : Nat
  core : Nat
  entry : TaskEntry
  ready : Bool
deriving DecidableEq, Repr

/-- A leaf of the translation cache (17 R401): base page, log2 of its bytes, its table entry, and the address at which
that entry stands. -/
structure Leaf where
  asid : Nat
  va : Nat
  log2 : Nat
  e : Word
  entryAt : Nat
deriving DecidableEq, Repr

/-- The states of the notch machine (19 R439). -/
inductive NotchState where
  | run | waitCopy | waitFold | capture | copy | commit
deriving DecidableEq, Repr

/-- One record of the skid log (19 R445, R446): its header and words, and the event it stands for; a value read and the
close of an interval stand for none. -/
structure LogRec where
  hdr : Word
  words : List Word
  ev : Option Instr
  /-- The tile cycle of its consumption. -/
  cycle : Nat
deriving DecidableEq, Repr

/-- The notch machine, its map and log (19 R433 to R446, R454). -/
structure Notch where
  st : NotchState
  n : Nat
  half : Bool
  /-- Lines written since the last notch, by their key (slice lines by address, state lines by number). -/
  dirty : SMap Unit
  /-- The frozen map F and the lines of it still to copy. -/
  frozenMap : List Nat
  /-- Delta entries of the notch in progress: key, metadata, poison and bytes. -/
  delta : List (Nat × BitVec 16 × Bool × List Byte)
  /-- The same of the notch that is folding, not yet folded. -/
  folding : List (Nat × BitVec 16 × Bool × List Byte)
  log : List LogRec
  prevLog : List LogRec
  /-- Records written since the launch. -/
  total : Nat
  /-- The interval's END is written and its log closed. -/
  opened : Nat
  asked : Bool
  nnum : Nat
  cnum : Nat
  recoveries : Nat
  /-- Core-clock cycles of the freeze so far (19 R443). -/
  frozenFor : Nat
deriving DecidableEq, Repr

/-- The tile. -/
structure Tile where
  cycle : Nat
  frozen : Bool
  events : Vector Word 4
  /-- Sets and clears of the current cycle (11 R275). -/
  sets : List (Fin 4 × Word)
  clears : List (Fin 4 × Word)
  table : List TableEntry
  hold : List HoldEntry
  nextHold : Nat
  sent : List Sent
  /-- Next SEQ of the channels to each LTN and next expected SEQ of those from it, on the two networks (12 R294). -/
  seqReq : SMap (BitVec 32)
  seqMsg : SMap (BitVec 32)
  expReq : SMap (BitVec 32)
  expMsg : SMap (BitVec 32)
  /-- Source LTNs whose channel is blocked by a refusal (12 R301). -/
  blocked : List Nat
  /-- The reorder store (12 R295). -/
  reorderReq : List Req
  reorderMsg : List Packet
  keyring : SMap KeyEntry
  /-- LTNs whose entry has changed in this cycle: what is held for them goes in the next one (12 R299). -/
  changed : List Nat
  clocks : Vector (Option Word) 8
  known : Word
  ranges : SMap (BitVec 256)
  tlb : List Leaf
  niv : BitVec 5
  wdl : BitVec 5
  notch : Notch
  /-- Records that a replay has still to apply (19 R447). -/
  replay : List LogRec
  progress : Nat
  /-- Log records that the hinge has acknowledged, and packets that wait for it (20 R462): the records that each needs,
  and the cycles until its arrival. -/
  acked : Nat
  waitingAck : List (Nat × Nat × Instr)
deriving DecidableEq, Repr

/-! ## The rim and the module -/

/-- A manifest that the checkpoint service has written (21 R493, R494): its step, where it stands, its bytes with both
signatures, and its shards: address, lines, offset of the object's header in the store, header and digest. -/
structure Manifest where
  step : Word
  va : Nat
  bytes : List Byte
  shards : List (Nat × Nat × Nat × List Byte × BitVec 384)
deriving DecidableEq, Repr

/-- A stand of the stand table (16 R371, R374), with what the rim keeps for it. -/
structure Stand where
  a : Word
  b : Word
  standdel : Word
  keydel : Word
  /-- Grant: HBM ranges in units of 2 MiB, first and last, and far-tier byte ranges (17 R395). -/
  hbm : List (Nat × Nat)
  far : List (Nat × Nat)
  secret : BitVec 128
  ptroot : Word
  tierctl : Word
  tierskip : Word
  poisonMade : BitVec 32
  poisonUsed : BitVec 32
  cretry : Byte
  ctmo : BitVec 16
  /-- Pod members by module ID, in rank order, and this module's rank (18 R420). -/
  pod : List Nat
  rank : Nat
  hostref : BitVec 32
  peerref : BitVec 32
  jshard : Word
  jckpt : Word
  jstat : Word
  /-- Bytes of the checkpoint store in use, and the manifests in it (21 R493). -/
  jused : Nat
  manifests : List Manifest
  boostok : Bool
  ranges : SMap (BitVec 256)
deriving DecidableEq, Repr

/-- The states of a launch (16 R378). -/
inductive LaunchState where
  | queued | running | done | fault | refused | swapped
deriving DecidableEq, Repr

/-- A launch: its record's words and the fields of its status block (16 R375, R378). -/
structure Launch where
  words : List Word
  stand : Nat
  st : LaunchState
  reason : Nat
  info : FaultInfo
  dlcnt : BitVec 32
  dldst : Word
  dlsrc : Word
  dlseq : BitVec 32
  cyc : Word
  startedAt : Nat
  faults : Nat
deriving DecidableEq, Repr

/-- A row sector of the rim cache: 32 row lines of 32 bytes, which of them are valid and which dirty, and for every dirty
byte what HBM holds beneath it. The keys of `beneath` are the byte mask; the sector's own bytes are those of the model's
memory, which every read sees (08 R215). -/
structure RowSector where
  valid : BitVec 32
  dirty : BitVec 32
  beneath : SMap Byte
deriving DecidableEq, Repr

/-- A column sector: its tag, the addresses of the 32 row lines that it covers, their 1,024 bytes in transposed order, and
which row lines are poisoned (08 R215, R216; 17 R407). -/
structure ColSector where
  base : Nat
  pitch : Nat
  es : Nat
  lines : List Nat
  data : List Byte
  poison : List Bool
deriving DecidableEq, Repr

/-- A swap pair of the tiering engine (17 R409): leaf addresses, frames and lines exchanged. -/
structure SwapPair where
  id : Nat
  stand : Nat
  farLeaf : Nat
  nearLeaf : Nat
  farFrame : Nat
  nearFrame : Nat
  next : Nat
deriving DecidableEq, Repr

/-- A `PGATTR` conversion in progress (17 R405). -/
structure Convert where
  slot : Fin 16
  tag : Nat
  dev : Nat
  leaf : Nat
  old : Word
  new : Word
  line : Nat
deriving DecidableEq, Repr

/-- A collective (18 R421 to R424). -/
structure Collective where
  ltn : Nat
  core : Nat
  slot : Nat
  strand : Nat
  ord : BitVec 32
  stand : Nat
  op : Nat
  lk : BitVec 4
  buf : Nat
  nel : Nat
  tag : Word
  stw : Nat
  /-- Steps sent and acknowledged, steps received and applied, resends of the current step. -/
  sentStep : Nat
  ackedStep : Nat
  applied : Nat
  resends : Nat
  /-- The buffer's working copy: NEL elements. -/
  data : List (BitVec 16)
  ended : Bool
  /-- Until it begins: the put/get entries of its strand with a lower number go before it. -/
  queued : Option Nat
deriving DecidableEq, Repr

/-- A scale-out port (18 R415, R416). -/
structure Port where
  up : Bool
  lanes : Nat
  counter : Nat
  epoch : Nat
deriving DecidableEq, Repr

/-- A field's boost account (21 R499). -/
structure BoostField where
  cords : Nat
  /-- 0 nominal, 1 = 2.0 GHz, 2 = 2.1 GHz. -/
  step : Nat
  place : Bool
  gliding : Bool
  idle : Nat
  claim : Nat
deriving DecidableEq, Repr

/-- The stages of a recovery (20 R465). -/
inductive RecStage where
  | lockout | hold | select | restore | replay | bind | release | fold | fail
deriving DecidableEq, Repr

/-- A recovery of the Sawyer (20 R464 to R476). -/
structure Recovery where
  stage : RecStage
  kind : FaultKind
  core : Nat
  fpc : Nat
  fcyc : Nat
  oldSite : Nat
  newSite : Nat
  folded : Bool
  catch_ : List CatchItem
  /-- Number of the recovery-point notch, and the core-clock cycle of detection. -/
  notch : Nat
  since : Nat
deriving DecidableEq, Repr

/-- A swapped-out or checkpoint image of the tile: core, tile and the bytes of its slices (16 R383, 19 R434). -/
structure Image where
  core : Core
  tile : Tile
  mem : List Host.Cell
  metas : SMap (BitVec 16)
  poison : SMap Unit
  /-- Events of the tile itself that were on their way. -/
  agenda : List (Nat × Instr)
  fresh : Nat
deriving DecidableEq, Repr

/-- A message in the spill mailbox, with the mailbox lines that it takes, its header's first (12 R297, R298). -/
structure Mail where
  places : List Nat
  packet : Packet
deriving DecidableEq, Repr

/-- A tile swapped out (16 R382, R383): its stand, the slots that the rim controller has parked, its image, and what the
rim controller keeps of its launch. -/
structure Swapped where
  stand : Nat
  slots : List (Fin 16)
  image : Image
  sections : List (Nat × Nat)
  mailbox : List Mail
deriving DecidableEq, Repr

/-- The rim controller's tables, services and ports. -/
structure Rim where
  /-- Grade B (00 R2). -/
  gradeB : Bool
  /-- Logical tiles that the module holds: LTNs below this number (00 R2, R3; 20 R480). -/
  held : Nat
  stands : SMap Stand
  /-- Launch slots: the latest write at each of the four offsets (18 R413). -/
  launchSlots : SMap (BitVec 512)
  launches : List Launch
  lastImages : SMap (BitVec 384)
  keys : SMap (BitVec 512)
  /-- Frame grade map by 4 KiB frame: grade, and the key slot under which its lines are encrypted (17 R404). -/
  frames : SMap (BitVec 2 × Option Nat)
  /-- Key epoch under which a line was written: the key itself (17 R406). -/
  lineKeys : SMap (BitVec 512)
  /-- The rim cache: row sectors by the number of their 1 KiB block, and column sectors, latest last (08 R215). -/
  rows : SMap RowSector
  columns : List ColSector
  pairs : List SwapPair
  nextPair : Nat
  /-- Accesses of the epoch by far or near page address of its leaf (17 R409). -/
  hot : SMap Nat
  convert : Option Convert
  apertures : SMap (Word × Word)
  exports : SMap (Word × Word)
  modid : BitVec 22
  groupRoutes : SMap (BitVec 32)
  localRoutes : SMap (BitVec 32)
  ports : SMap Port
  hostUp : Bool
  hostWidth : Nat
  /-- CXL IDE runs on the host link (18 R412). -/
  hostIde : Bool
  collectives : List Collective
  hbmcap : Nat
  pending : Option Nat
  dies : Nat
  flat : Bool
  active : List Nat
  rebuild : Nat
  retiring : Option Nat
  bmax : Nat
  fields : SMap BoostField
  lmsleft : Nat
  /-- Entries of the audit log by number, and the next number (20 R483, 21 R496). -/
  audit : SMap (List Word)
  nextAudit : Nat
  measured : List (BitVec 384)
  /-- Job checkpoints asked for: the step, and the launch whose end asks (21 R491). -/
  jobs : List (Word × Option Launch)
  /-- The recovery of the modelled tile. -/
  recovery : Option Recovery
  retired : List Nat
  /-- Sites that hold spare tiles, by 32 x row + column (20 R469), and the logical tiles that a recovery has moved
  off their first site. -/
  saplings : List Nat
  sites : SMap Nat
  /-- The last fault of the modelled tile: kind, notch that opened its interval, fault cycle and site (20 R461). -/
  lastFault : Option (FaultKind × Nat × Nat × Nat)
  /-- The tile with which the modelled one shares a site, whether it is resident, and the core-clock cycles or tile cycles
  since the last switch (20 R479). -/
  foldMate : Option Nat
  resident : Bool
  foldQuantum : Nat
  /-- Tiles swapped out, and the pre-emption in progress: the stand that takes the tile and the slots parked for it. -/
  swapped : List Swapped
  preempt : Option (Nat × List (Fin 16))
  standid : Word
  lseq : Word
  visibleTop : Nat
  twb : BitVec 22
  mbox : Nat
  mboxl : Nat
  mailbox : List Mail
  spillBase : Nat
  swapBase : Nat
  /-- Loaded sections of the running image, as slice ranges (03 R93). -/
  sections : List (Nat × Nat)
deriving DecidableEq, Repr

/-- What a head's issue left behind, for the bundle logic (01 R16, R19). -/
inductive Issued where
  | done
  /-- A head on which the strand stays for another turn (01 R20). -/
  | partway
  /-- A trap: with RPC = NPC or not, by a decode check or not (03 R77). -/
  | trapped (c : Cause) (next decode : Bool)
  | forfeited
  | slept
  /-- A droop bubble stands in place of the turn (01 R25). -/
  | bubble
deriving DecidableEq, Repr

/-- The head being issued: the model's own context of the turn (log entry 5). -/
structure Issue where
  slot : Fin 16
  /-- Address of the bundle's first head. -/
  bpc : BitVec 22
  info : HeadInfo
  /-- Address of the head after the bundle (03 R68). -/
  npc : BitVec 22
  /-- Fold before the bundle and after it (03 R79). -/
  foldBefore : Byte
  foldAfter : Byte
  result : Issued
  /-- The strand, and the first window tag of the bundle's own windows. -/
  strand : Nat
  tag0 : Nat
  /-- The sources of a bundle that reads them as they stood at a turn: a pair's second head to take effect, and an
  emulated bundle (01 R19, 07 R184). -/
  snap : Option Snap
  /-- What a loop pass adds to a memory operand's address (04 R110). -/
  step : Int
deriving DecidableEq, Repr

/-- What the other cores and tiles of the stand hold of its common order: the keys of their outstanding stamped tasks (09
R233, R235), and the times below which their producers have not gone and their records in flight stand (09 R238). -/
structure Outside where
  keys : List TaskKey
  times : List Word
deriving DecidableEq, Repr

/-- The machine. -/
structure State where
  core : Core
  tile : Tile
  rim : Rim
  /-- All bytes: slices at 2^63 + the global form of their address, device memory at its device-physical address;
  an unlisted byte reads 0. -/
  mem : List Host.Cell
  /-- Metadata by 64-byte line number (08 R192, R204), poisoned lines (17 R407). -/
  metas : SMap (BitVec 16)
  poison : SMap Unit
  /-- Base image and recovery point of the tile (19 R438, R441). -/
  base : Option Image
  recovery : Option Image
  /-- The state lines of the notch in progress (19 R439). -/
  captured : Option Image
  /-- Core-clock cycles, which a freeze does not stop (19 R430). -/
  clk : Nat
  /-- Events of the tile by the tile cycle they fall due, and of the rim by the core clock. -/
  agenda : List (Nat × Instr)
  clkAgenda : List (Nat × Instr)
  /-- External events waiting, first to come first. -/
  inputs : List Instr
  /-- Tile cycles in which the checker stage finds a mismatch (01 R27): a physical cause, from outside. -/
  upsets : List Nat
  /-- Errors of a line, by core-clock cycle (17 R407, 20 R460): one that cannot be corrected, in a line of memory, or a corrected
  one in the core's slice or buffers. Physical causes, from outside. -/
  errors : List (Nat × Option Nat)
  /-- What other cores and tiles hold, from a tile cycle on (log entry 6): from outside, latest last. -/
  outside : List (Nat × Outside)
  /-- Steal probes of the tile's other cores, by tile cycle and core (11 R273); and resets of a barrier's domain by the
  `BARCFG` of another core, by tile cycle (11 R284). From outside (log entry 6). -/
  probes : List (Nat × Nat)
  barResets : List (Nat × BitVec 7)
  /-- EXP of this tile's request channels at the other tiles, whose slices the model's memory holds (12 R295). -/
  farExp : SMap (BitVec 32)
  /-- Index of the next free value (log entry 1). -/
  fresh : Nat
  issue : Issue
deriving DecidableEq, Repr

/-! ## Reset -/

/-- An empty delta queue entry: not declared (13 R314). -/
def DQueue.none : DQueue := ⟨false, 0, 0, 0, 0, [], 0, []⟩

/-- A tile as the launch leaves it: words zero, unconfigured, unowned (10 R241). -/
def MTile.none : MTile := ⟨[], false, false, 0, 0, 0, 0, .none, false⟩

/-- The core after power-on. Values that the spec does not give: log entries 2 and 3. -/
def Core.reset : Core :=
  { ltn := 0, num := 0, slots := .replicate 16 Slot.none, rot := 15, owed := .none, matRot := 15, gatherRot := 15, nextStrand := 1,
    nextTag := 0, droop := 3, reads := [], bankpm := 0, waking := [], served := [], servedBefore := [], landing := [], commits := [], claimed := [], thv := .replicate 16 0,
    sseed0 := 0, sseed1 := 0, handlerQ := [], superQ := [], k := .replicate 16 ⟨0, 0, 0⟩, pg := [], nextEntry := 0, bufG := [],
    bufM := [], bufD := [], tiles := .replicate 4 MTile.none, mat := [], streams := [], winOps := [],
    dq := .replicate 16 DQueue.none, engine := [], mq := .replicate 8 [], bucker := ⟨false, 0, 0, []⟩, deque := ⟨[], 0, 0, 0, 0⟩,
    arrivals := [], ready := [], filledAt := .none, stealAt := .none, bars := [], barAsks := [], perf := .replicate 64 0, excl := [],
    boost := 0, collOrd := 0, collOut := 0, parkReqs := [], parks := 0, spilled := [], nextSpill := 0 }

/-- The notch machine at launch: RUN, n = 1, h = 1 (19 R439). -/
def Notch.reset : Notch :=
  { st := .run, n := 1, half := true, dirty := [], frozenMap := [], delta := [], folding := [], log := [],
    prevLog := [], total := 0, opened := 0, asked := false, nnum := 0, cnum := 0, recoveries := 0,
    frozenFor := 0 }

/-- The tile after power-on. Clocks CLOSED and the known frontier 0: log entry 2. -/
def Tile.reset : Tile :=
  { cycle := 0, frozen := false, events := .replicate 4 0, sets := [], clears := [], table := [], hold := [],
    nextHold := 0, sent := [], seqReq := [], seqMsg := [], expReq := [], expMsg := [], blocked := [],
    reorderReq := [], reorderMsg := [], keyring := [], changed := [], clocks := .replicate 8 .none, known := 0,
    ranges := [], tlb := [], niv := 20, wdl := 21, notch := Notch.reset, replay := [], progress := 0, acked := 0,
    waitingAck := [] }

/-- The first site of a logical tile, as R485 places LTN 12: row + 1, column + 1. Log entry 3. -/
def homeSite (ltn : Nat) : Nat := 32 * (ltn / 30 + 1) + (ltn % 30 + 1)

/-- The logical tiles of a grade, of which a module never comes to hold more (00 R2, R3). -/
def gradeTiles (gradeB : Bool) : Nat := if gradeB then 850 else 900

/-- The spare sites of a grade at power-on, 124 or 174: those that hold no logical tile (00 R2). -/
def spareSites (gradeB : Bool) : List Nat :=
  (List.range 1024).filter fun s =>
    !(decide (1 ≤ s / 32 ∧ 1 ≤ s % 32 ∧ s % 32 ≤ 30 ∧ 30 * (s / 32 - 1) + (s % 32 - 1) < gradeTiles gradeB))

/-- The rim of a module of a grade after power-on (16 R371; 17 R410; 18 R412 to R426; 21 R486, R498, R499). Log entries 2, 3 and
12. -/
def Rim.ofGrade (gradeB : Bool) : Rim :=
  { gradeB := gradeB, held := gradeTiles gradeB, stands := [], launchSlots := [], launches := [], lastImages := [], keys := [], frames := [],
    lineKeys := [], rows := [], columns := [], pairs := [], nextPair := 0, hot := [], convert := .none,
    apertures := [], exports := [], modid := 0, groupRoutes := [], localRoutes := [], ports := [], hostUp := true,
    hostWidth := 16, hostIde := true, collectives := [], hbmcap := 2480 * 2 ^ 30, pending := .none, dies := 0,
    flat := false, active := List.range 1280, rebuild := 0, retiring := .none, bmax := 8,
    fields := (List.range 16).map fun f => (f, ⟨4, 0, false, false, 0, 0⟩), lmsleft := 2 ^ 30,
    audit := [], nextAudit := 0, measured := [], jobs := [], recovery := .none, retired := [],
    saplings := spareSites gradeB, sites := [], lastFault := .none, foldMate := .none, resident := true,
    foldQuantum := 0, swapped := [], preempt := .none, standid := 0, lseq := 0, visibleTop := 0x2A0000,
    twb := 0, mbox := 0, mboxl := 0, mailbox := [], spillBase := 0, swapBase := 0, sections := [] }

/-- The rim of the modelled module, which is of grade A (log entry 3). -/
def Rim.reset : Rim := Rim.ofGrade false

/-- The issue context while no head issues (log entry 5). -/
def Issue.reset : Issue :=
  { slot := 0, bpc := 0, info := ⟨0, 0, 0, false, false, 0⟩, npc := 0, foldBefore := 0, foldAfter := 0, result := .done,
    strand := 0, tag0 := 0, snap := .none, step := 0 }

/-- The machine right after reset: power-on of the module, with no stand defined and nothing launched. -/
def State.reset : State :=
  { core := Core.reset, tile := Tile.reset, rim := Rim.reset, mem := [], metas := [], poison := [], base := .none,
    recovery := .none, captured := .none, clk := 0, agenda := [], clkAgenda := [(19000, .boostInterval)], inputs := [], upsets := [], errors := [], outside := [],
    probes := [], barResets := [],
    farExp := [], fresh := 0, issue := Issue.reset }

end Sys2Proof.Machine
end

