-- ==== Sys2Proof/Machine/Ops.lean ====
section
/-! DEFINITION. The named operations: memory and registers, queue ports, windows, taking a trap and returning from
one, forfeiting and sleeping. -/

namespace Sys2Proof.Machine

abbrev Result := Host.Outcome State Fault Refusal

/-! ## Numbers and bytes -/

/-- Little-endian value of bytes (02 R39). -/
def leNat : List Byte → Nat
  | [] => 0
  | b :: bs => b.toNat + 256 * leNat bs

/-- The n little-endian bytes of a number (02 R39). -/
def leBytes : Nat → Nat → List Byte
  | 0, _ => []
  | n + 1, v => .ofNat 8 v :: leBytes n (v / 256)

/-- Bits [hi:lo] of a number. -/
def bits (v hi lo : Nat) : Nat := v / 2 ^ lo % 2 ^ (hi + 1 - lo)

/-- A natural read as an n-bit two's complement integer. -/
def signed (n v : Nat) : Int := if v % 2 ^ n < 2 ^ (n - 1) then (v % 2 ^ n : Nat) else (v % 2 ^ n : Nat) - 2 ^ n

/-- An integer modulo 2^n. -/
def wrap (n : Nat) (v : Int) : Nat := (v % 2 ^ n).toNat

/-- A number as a 64-bit word. -/
def w64 (v : Nat) : Word := .ofNat 64 v

/-! ## Memory -/

/-- The bytes from a key on. -/
def bytesAt (m : List Host.Cell) (k : Nat) : Nat → List Byte
  | 0 => []
  | n + 1 => SMap.getD m k 0 :: bytesAt m (k + 1) n

/-- The little-endian number in n bytes from a key on. -/
def natAt (m : List Host.Cell) (k n : Nat) : Nat := leNat (bytesAt m k n)

/-- Write bytes from a key on; the canonical form is kept. -/
def putBytes (m : List Host.Cell) (k : Nat) : List Byte → List Host.Cell
  | [] => m
  | b :: bs => putBytes (SMap.set 0 k b m) (k + 1) bs

/-- Write the enabled bytes from a key on. -/
def putMasked (m : List Host.Cell) (k : Nat) : List (Bool × Byte) → List Host.Cell
  | [] => m
  | (e, b) :: bs => putMasked (if e then SMap.set 0 k b m else m) (k + 1) bs

/-- The canonical form of memory: keys strictly rising, no entry 0. -/
def Memory.wf (m : List Host.Cell) : Bool := SMap.wfFrom 0 0 m

/-- Where a slice begins in the model's memory: the global form of R188. -/
def sliceBase (ltn core : Nat) : Nat := 2 ^ 63 + ltn * 2 ^ 26 + core * 2 ^ 22

namespace State

/-- The key of an offset of the issuing core's slice. -/
def key (s : State) (off : Nat) : Nat := sliceBase s.core.ltn s.core.num + off

def slot (s : State) (i : Fin 16) : Slot := s.core.slots[i]

def setSlot (s : State) (i : Fin 16) (x : Slot) : State :=
  { s with core := { s.core with slots := s.core.slots.set i x } }

def modSlot (s : State) (i : Fin 16) (f : Slot → Slot) : State := s.setSlot i (f (s.slot i))

/-- The slot whose head issues. -/
def me (s : State) : Slot := s.slot s.issue.slot

def modMe (s : State) (f : Slot → Slot) : State := s.modSlot s.issue.slot f

/-- Raise a performance counter (01 R37). -/
def bump (s : State) (n : Fin 64) : State :=
  { s with core := { s.core with perf := s.core.perf.set n (s.core.perf[n] + 1) } }

/-- The next free value (log entry 1). -/
def free (s : State) : Word × State := (Config.freeValue s.fresh, { s with fresh := s.fresh + 1 })

/-- Count slice reads of this cycle, by any agent of the core (01 R25). -/
def countReads (s : State) (n : Nat) : State :=
  { s with core := { s.core with reads := match s.core.reads with
      | [] => [n]
      | r :: rs => (r + n) :: rs } }

/-- An agent of the core is served by a bank in this cycle (01 R17). -/
def serve (s : State) (off : Nat) : State :=
  { s with core := { s.core with served := s.core.served ++ [.ofNat 3 (off / 2 ^ 20)] } }

/-- Is a line of the tile part of a commit in progress, so that every access to it waits (09 R236)? -/
def committing (s : State) (line : Nat) : Bool :=
  s.core.commits.any fun (c, ls) => decide (s.tile.cycle < c) && ls.contains line

/-- Must an access to an offset wait in this cycle: its bank has been served, or its line is being committed? -/
def bankBusy (s : State) (off : Nat) : Bool :=
  (s.core.served.any fun b => b.val == off / 2 ^ 20 % 3) || s.committing (s.key off / 64)

/-- The same for a range, which may lie in two banks. -/
def rangeBusy (s : State) (off n : Nat) : Bool :=
  (List.range ((off % 64 + n + 63) / 64)).any fun i => s.bankBusy (off / 64 * 64 + 64 * i)

/-- Serve a range in the banks where it lies. -/
def serveRange (s : State) (off n : Nat) : State :=
  if off / 2 ^ 20 = (off + n - 1) / 2 ^ 20 then s.serve off else (s.serve off).serve (off + n - 1)

/-- Put an event on the tile's agenda, n tile cycles from now, behind those of its rank in the same cycle. -/
def after (s : State) (n : Nat) (i : Instr) : State :=
  { s with agenda := insert (s.tile.cycle + n) i s.agenda }
where
  /-- A notch falls before everything else of its cycle (19 R431). Engines claim banks in the order of R17: arrivals
  before the gather unit, before put/get units (01 R17). -/
  rank : Instr → Nat
    | .notchPoint | .earlyNotch => 0
    | .gatherFetch => 2
    | .putgetUnit .. => 3
    | _ => 1
  insert (c : Nat) (i : Instr) : List (Nat × Instr) → List (Nat × Instr)
    | [] => [(c, i)]
    | (d, j) :: l =>
      if c < d ∨ (c = d ∧ rank i < rank j) then (c, i) :: (d, j) :: l else (d, j) :: insert c i l

/-- Put an event on the rim's agenda, n core-clock cycles from now. -/
def afterClk (s : State) (n : Nat) (i : Instr) : State :=
  { s with clkAgenda := after.insert (s.clk + n) i s.clkAgenda }

/-- The task of a slot while it is speculative (09 R235). -/
def speculative (s : State) (i : Fin 16) : Option Task :=
  match (s.slot i).task with
  | some t => if t.settled then none else some t
  | none => none

/-- What the other cores and tiles of the stand hold in this cycle (log entry 6). -/
def others (s : State) : Outside :=
  ((s.outside.filter fun o => decide (o.1 ≤ s.tile.cycle)).getLast?.map (·.2)).getD ⟨[], []⟩

end State

/-- Every slot number. -/
def allSlots : List (Fin 16) := [0, 1, 2, 3, 4, 5, 6, 7, 8, 9, 10, 11, 12, 13, 14, 15]

/-- Is a key before another: stamp, LTN, core, slot (09 R233)? -/
def TaskKey.lt (a b : TaskKey) : Bool :=
  decide (a.stamp.toNat < b.stamp.toNat) || (a.stamp == b.stamp && (decide (a.ltn < b.ltn) || (a.ltn == b.ltn &&
    (decide (a.core < b.core) || (a.core == b.core && decide (a.slot < b.slot))))))

namespace State

/-- Does a slice line belong to this tile? -/
def ownLine (s : State) (line : Nat) : Bool :=
  decide (sliceBase s.core.ltn 0 ≤ line * 64) && decide (line * 64 < sliceBase (s.core.ltn + 1) 0)

/-- The contents of a line as a delta entry holds it (19 R437). -/
def lineImage (s : State) (line : Nat) : Nat × BitVec 16 × Bool × List Byte :=
  (line, s.metas.getD line 0, (SMap.find line s.poison).isSome, bytesAt s.mem (line * 64) 64)

/-- A line is about to be written: an uncopied line of the frozen map is copied first (19 R440) and the line is marked
in the dirty map (19 R434). -/
def touchLine (s : State) (line : Nat) : State :=
  if s.ownLine line then
    let n := s.tile.notch
    let n := if n.frozenMap.contains line then
        { n with delta := n.delta ++ [s.lineImage line], frozenMap := n.frozenMap.erase line } else n
    { s with tile := { s.tile with notch := { n with dirty := SMap.put line () n.dirty } } }
  else s

/-- Mark the lines of a range as written. -/
def touchRange (s : State) (k n : Nat) : State :=
  (List.range ((k % 64 + n + 63) / 64)).foldl (fun s i => s.touchLine (k / 64 + i)) s

/-- A task begins again in its slot with its key, and nothing of its run is left in the core (09 R237). Who waits to park it goes
on waiting. -/
def beginAgain (s : State) (i : Fin 16) (t : Task) : State :=
  let x := s.slot i
  let s := s.setSlot i { Slot.none with
    st := .ready, strand := x.strand, pc := t.pc, priv := t.priv, wp := t.wp, lastTurn := x.lastTurn,
    parkAsked := x.parkAsked, task := some { t with lines := [], reads := [] } }
  { s with core := { s.core with
    mat := s.core.mat.filter fun o => o.slot != i
    streams := s.core.streams.filter fun o => o.slot != i
    winOps := s.core.winOps.filter fun o => o.slot != i
    tiles := s.core.tiles.map fun m => if m.owner = some i then { m with owner := none, live := false } else m } }

/-- The bytes of a task's workspace at its creation, with the words that it was created with (09 R237). -/
def workspaceAgain (s : State) (t : Task) : State :=
  let k := s.key t.wp.toNat
  { s with mem := putBytes (putBytes s.mem k t.regs) k ((t.words.map fun w => leBytes 8 w.toNat).flatten) }

/-- An abort (09 R237): the buffered lines and the read set go, and the workspace and the PC of the creation come back. -/
def abortTask (s : State) (i : Fin 16) : State :=
  match (s.slot i).task with
  | none => s
  | some t => ((s.beginAgain i t).touchRange (s.key t.wp.toNat) 768).workspaceAgain t

/-- Abort the speculative tasks, other than the writer's own, that have read a line (09 R234): all of them for a
writer that is no stamped task, those of higher keys for a task. -/
def conflict (s : State) (writer : Option (Fin 16)) (line : Nat) : State :=
  allSlots.foldl (fun s i =>
    match s.speculative i with
    | none => s
    | some t =>
      if some i = writer || !t.reads.contains line then s
      else match writer.bind fun w => (s.slot w).task with
        | some u => if u.key.lt t.key then s.abortTask i else s
        | none => s.abortTask i) s

/-- A write performs at its point (09 R221): the lines it touches are tracked, a line that one write sets whole loses
its poison, or takes the poison of the data (17 R407), and readers in speculation abort (09 R234). -/
def write (s : State) (writer : Option (Fin 16)) (k : Nat) (data : List Byte) (poisoned : Bool := false) : State :=
  let first := k / 64
  let last := (k + data.length - 1) / 64
  let lines := if data.isEmpty then [] else (List.range (last + 1 - first)).map (first + ·)
  let s := lines.foldl (fun s l => (s.touchLine l).conflict writer l) s
  let poison := lines.foldl (fun p l =>
    if poisoned then SMap.put l () p
    else if decide (k ≤ l * 64) && decide (l * 64 + 64 ≤ k + data.length) then SMap.erase l p else p) s.poison
  { s with mem := putBytes s.mem k data, poison := poison }

/-- Write the enabled bytes of a granule; a granule set only in part keeps its poison (17 R407). -/
def writeLanes (s : State) (writer : Option (Fin 16)) (k : Nat) (data : List (Bool × Byte)) : State :=
  if data.all (·.1) then s.write writer k (data.map (·.2))
  else if data.any (·.1) then
    let s := (s.touchLine (k / 64)).conflict writer (k / 64)
    { s with mem := putMasked s.mem k data }
  else s

/-- Write the metadata field of a line, which counts as a write to it (08 R192). -/
def writeMeta (s : State) (line : Nat) (v : BitVec 16) : State :=
  let s := s.touchLine line
  { s with metas := SMap.set 0 line v s.metas }

/-- Something reaches the core in this cycle. -/
def land (s : State) (l : Landing) : State := { s with core := { s.core with landing := s.core.landing ++ [l] } }

/-- Mark the lines of a range as poisoned (17 R407). -/
def poisonRange (s : State) (k n : Nat) : State :=
  { s with poison := (List.range ((k % 64 + n + 63) / 64)).foldl (fun p i => SMap.put (k / 64 + i) () p) s.poison }

/-- Free bytes (log entry 1). -/
def freeBytes (s : State) (n : Nat) : List Byte × State :=
  ((List.range n).map fun i => (Config.freeValue (s.fresh + i)).setWidth 8, { s with fresh := s.fresh + n })

/-- The cells of memory in some ranges. -/
def cellsIn (s : State) (spans : List (Nat × Nat)) : List Host.Cell :=
  s.mem.filter fun c => spans.any fun (k, n) => decide (k ≤ c.1) && decide (c.1 < k + n)

/-- The contents of some ranges become undefined (00 R10, log entry 1). -/
def ruin (s : State) (spans : List (Nat × Nat)) : State :=
  spans.foldl (fun s (k, n) => let (b, s) := s.freeBytes n; s.write none k b) s

/-- Has the delta operation of a window an access that has not yet been served (13 R337)? -/
def engineBusy (s : State) (tag : Nat) : Bool := s.core.engine.any fun o => o.tag == some tag && !o.accesses.isEmpty

/-- A delta operation ends: an arrangement into which anything else has been stored while it ran is undefined (13 R339). -/
def endEngineOp (s : State) (tag : Nat) : State :=
  match s.core.engine.find? fun o => o.tag == some tag with
  | none => s
  | some o =>
    let t : State := { s with core := { s.core with engine := s.core.engine.filter fun x => x.tag != some tag } }
    if s.cellsIn o.spans = o.cells then t else t.ruin o.spans

/-- Is any line of a range poisoned? -/
def poisoned (s : State) (k n : Nat) : Bool :=
  !n == 0 && (List.range ((k + n - 1) / 64 + 1 - k / 64)).any fun i => (SMap.find (k / 64 + i) s.poison).isSome

/-! ## Registers -/

/-- Where scalar register r of a slot lies (01 R28). -/
def wKey (s : State) (i : Fin 16) (r : Nat) : Nat := s.key ((s.slot i).wp.toNat + 8 * r)

/-- Where vector register r of a slot lies (01 R28). -/
def vKey (s : State) (i : Fin 16) (r : Nat) : Nat := s.key ((s.slot i).wp.toNat + 256 + 32 * r)

/-- The sources of the issuing slot as they stand (01 R19). -/
def sources (s : State) (i : Fin 16) : Snap := ⟨s.mem, (s.slot i).sw, (s.slot i).jf, s.core.sseed0, s.core.sseed1⟩

/-- Memory as the issuing head reads it: no head of a pair sees the other's result (01 R19). -/
def rdMem (s : State) : List Host.Cell :=
  match s.issue.snap with
  | some p => p.mem
  | none => s.mem

/-- The value of a scalar register of the issuing slot. -/
def regW (s : State) (r : Nat) : Word := w64 (natAt s.rdMem (s.wKey s.issue.slot r) 8)

/-- The value of a vector register of the issuing slot. -/
def regV (s : State) (r : Nat) : Vec := .ofNat 256 (natAt s.rdMem (s.vKey s.issue.slot r) 32)

/-- `sw` as the head reads it. -/
def rdSw (s : State) : Word :=
  match s.issue.snap with
  | some p => p.sw
  | none => s.me.sw

/-- `jf` as the head reads it. -/
def rdJf (s : State) : BitVec 128 :=
  match s.issue.snap with
  | some p => p.jf
  | none => s.me.jf

/-- Write a scalar register of a slot: its bytes in the slice (01 R30). -/
def setW (s : State) (i : Fin 16) (r : Nat) (v : Word) : State :=
  s.write (some i) (s.wKey i r) (leBytes 8 v.toNat)

/-- Write the bits of a mask of a vector register of a slot. -/
def setV (s : State) (i : Fin 16) (r : Nat) (v mask : Vec) : State :=
  let old : Vec := .ofNat 256 (natAt s.mem (s.vKey i r) 32)
  s.write (some i) (s.vKey i r) (leBytes 32 ((v &&& mask) ||| (old &&& ~~~mask)).toNat)

/-- Write the bits of a mask of `sw`. -/
def setSw (s : State) (mask v : Word) : State := s.modMe fun x => { x with sw := (v &&& mask) ||| (x.sw &&& ~~~mask) }

/-- Write N, Z, C and V (01 R35). -/
def setNZCV (s : State) (n z c v : Bool) : State :=
  s.setSw 0xF (.ofNat 64 (8 * n.toNat + 4 * z.toNat + 2 * c.toNat + v.toNat))

/-- OR sticky flags into `sw` (02 R51). -/
def orSw (s : State) (f : Word) : State := s.modMe fun x => { x with sw := x.sw ||| f }

/-- OR jet flags into `jf` (06 R152). -/
def orJf (s : State) (f : BitVec 128) : State := s.modMe fun x => { x with jf := x.jf ||| f }

end State

/-! ## Traps -/

/-- The defined cause codes (07 R186; 11 R290; 12 R309; 13 R338; 16 R392; 18 R427; 19 R457). -/
abbrev cILLEGAL : BitVec 9 := 0x001
abbrev cFORMAT : BitVec 9 := 0x002
abbrev cTARGET : BitVec 9 := 0x003
abbrev cWARD : BitVec 9 := 0x004
abbrev cPRIVILEGE : BitVec 9 := 0x005
abbrev cWINDOW : BitVec 9 := 0x020
abbrev cWP : BitVec 9 := 0x021
abbrev cSW : BitVec 9 := 0x022
abbrev cLOOPCOUNT : BitVec 9 := 0x023
abbrev cLOOPDEPTH : BitVec 9 := 0x024
abbrev cUNBOUND : BitVec 9 := 0x025
abbrev cNOTHANDLER : BitVec 9 := 0x026
abbrev cSUBNORMAL : BitVec 9 := 0x040
abbrev cSCALE : BitVec 9 := 0x041
abbrev cXPK : BitVec 9 := 0x042
abbrev cRANGE : BitVec 9 := 0x043
abbrev cJET : BitVec 9 := 0x044
abbrev cMISALIGNED : BitVec 9 := 0x060
abbrev cADDRESS : BitVec 9 := 0x061
abbrev cGATED : BitVec 9 := 0x062
abbrev cPOISON : BitVec 9 := 0x063
abbrev cXLATE : BitVec 9 := 0x064
abbrev cPLANE : BitVec 9 := 0x080
abbrev cTASKFULL : BitVec 9 := 0x0A0
abbrev cBARCFG : BitVec 9 := 0x0A1
abbrev cBARMEMBER : BitVec 9 := 0x0A2
abbrev cSTAMP : BitVec 9 := 0x0A3
abbrev cDEADLETTER : BitVec 9 := 0x0C0
abbrev cDIFF : BitVec 9 := 0x0E0
abbrev cTIME : BitVec 9 := 0x0E1
abbrev cARFULL : BitVec 9 := 0x0E2
abbrev cARINVALID : BitVec 9 := 0x0E3
abbrev cSLOT : BitVec 9 := 0x100
abbrev cSTANDBUSY : BitVec 9 := 0x101
abbrev cSTANDINVALID : BitVec 9 := 0x102
abbrev cSTANDDENIED : BitVec 9 := 0x103
abbrev cCOLLECTIVE : BitVec 9 := 0x120
abbrev cWAITEXPIRED : BitVec 9 := 0x140
abbrev cTILEFAULT : BitVec 9 := 0x141
abbrev cDOUBLE : BitVec 9 := 0x1E0
abbrev cSTARVED : BitVec 9 := 0x1E1

/-- The eight words of a trap frame (07 R177). -/
def frameWords (x : Slot) (i : Fin 16) (c : Cause) (h : HeadInfo) (rpc npc : BitVec 22) (fold : Byte) : List Word :=
  [ w64 (c.detail.toNat * 2 ^ 32 + x.priv.toNat * 2 ^ 18 + h.second.toNat * 2 ^ 17 + h.pair.toNat * 2 ^ 16
      + c.code.toNat),
    h.fpc.setWidth 64, rpc.setWidth 64, npc.setWidth 64, x.sw, c.addr,
    w64 (h.head.toNat * 2 ^ 48 + fold.toNat * 2 ^ 40 + x.windows.length * 2 ^ 37 + x.loops.length * 2 ^ 34
      + i.val * 2 ^ 22 + x.wp.toNat),
    h.tail ]

namespace State

/-- May a slot be filled: EMPTY, and not the bucker's (01 R13)? -/
def fillable (s : State) (i : Fin 16) : Bool :=
  (s.slot i).st == .empty && !(s.core.bucker.enabled && i == 15)

/-- The lowest-numbered slot that may be filled (07 R175, 11 R265). -/
def emptySlot (s : State) : Option (Fin 16) := allSlots.find? s.fillable

/-- Start the handler of a request on a slot (07 R174): WP at the handler workspace, PC at ENTRY, `sw` reset, the mode
of the vector, fold 0x5A. It is READY in the next cycle. -/
def startHandler (s : State) (h : Fin 16) (q : TrapReq) : State :=
  let v := q.vector.toNat
  let wp := bits v 53 32 + 1024 * q.slot.val
  let x : Slot := { Slot.none with
    st := .sleep, wait := some (.cycle (s.tile.cycle + 1)), strand := s.core.nextStrand
    pc := .ofNat 22 (bits v 21 0), priv := q.vector.getLsbD 62
    wp := .ofNat 22 wp, lastTurn := (s.slot h).lastTurn,
    handler := some ⟨q.slot, q.frame, (q.frame.getD 0 0).getLsbD 18⟩ }
  { s with core := { s.core with nextStrand := s.core.nextStrand + 1, filledAt := some s.tile.cycle } }.setSlot h x

/-- A POISON trap counts in the stand (17 R407, R410). -/
def usedPoison (s : State) : State :=
  let n := bits s.rim.standid.toNat 21 16
  match SMap.find n s.rim.stands with
  | some t => { s with rim := { s.rim with stands := SMap.put n { t with poisonUsed := t.poisonUsed + 1 } s.rim.stands } }
  | none => s

/-- Give a frame to the rim controller (07 R184). -/
def toSupervisor (s : State) (q : TrapReq) : State :=
  let s : State := { s with core := { s.core with superQ := s.core.superQ ++ [q] } }
  s.after 1 (.supervisorRoute q.slot)

/-- The strand of a slot enters TRAPPED, to go on at `rpc` with its fold there (07 R173). -/
def stopSlot (s : State) (i : Fin 16) (c : Cause) (rpc : BitVec 22) (fold : Byte) : State :=
  let t := s.modSlot i fun x => { x with
    st := .trapped, pc := rpc, fold := fold, wait := none, waitFrom := some (x.waitFrom.getD s.tile.cycle), before := .ready }
  if c.code == cPOISON then t.usedPoison else t

/-- A handler starts for a request, or the request is queued and may starve (07 R174, R175). -/
def callHandler (s : State) (q : TrapReq) : State :=
  match (if s.core.handlerQ.isEmpty ∧ s.core.filledAt ≠ some s.tile.cycle then s.emptySlot else none) with
  | some e => s.startHandler e q
  | none => ({ s with core := { s.core with handlerQ := s.core.handlerQ ++ [q] } } : State).after 65536 (.handlerStarved q.slot)

/-- Where the frame of a request stands in the handler region (07 R174, R177). -/
def frameBase (q : TrapReq) : Nat := bits q.vector.toNat 53 32 + 1024 * q.slot.val + 768

/-- Workspace buffer traffic to a range of the slice claims its banks in the coming cycle, before every other agent
(01 R17). -/
def claim (s : State) (off n : Nat) : State :=
  { s with core := { s.core with
    claimed := s.core.claimed ++ [.ofNat 3 (off / 2 ^ 20), .ofNat 3 ((off + n - 1) / 2 ^ 20)] } }

/-- The frame of a request goes to its handler workspace, as workspace buffer traffic, and the handler is called (07 R174,
R177). -/
def giveFrame (s : State) (q : TrapReq) : State :=
  ((s.write none (s.key (frameBase q)) ((q.frame.map fun w => leBytes 8 w.toNat).flatten)).claim (frameBase q) 64).callHandler q

/-- Take a trap on a slot (07 R173 to R175, R184): the strand enters TRAPPED, the frame goes to the handler workspace,
and a handler starts or is queued. A vector that is off, a trap of a handler, and a cause that reaches no vector take
the supervisor route: the rim controller is given the frame. `rpc` is where the strand resumes, `fold` its fold there. -/
def takeTrap (s : State) (i : Fin 16) (c : Cause) (h : HeadInfo) (rpc npc : BitVec 22) (fold : Byte) : State :=
  let x := s.slot i
  let q : TrapReq := ⟨i, s.tile.cycle, s.core.thv[c.code.toNat / 32 % 16], frameWords x i c h rpc npc fold,
    if c.code == cFORMAT then some (s.sources i) else none⟩
  let t := s.stopSlot i c rpc fold
  if x.emulate.isSome then t.toSupervisor q
  else if x.handler.isSome then
    t.toSupervisor { q with frame := q.frame.set 0 ((q.frame.getD 0 0 &&& ~~~0x1FF) ||| 0x1E0) }
  else if !q.vector.getLsbD 63 then t.toSupervisor q
  else t.giveFrame q

/-- The state with the head unissued: PC and fold as before the bundle (07 R173). -/
def unissued (s : State) (r : Issued) : State :=
  { s.modMe fun x => { x with pc := s.issue.bpc, fold := s.issue.foldBefore } with
    issue := { s.issue with result := r, snap := none } }

/-- The head raises a trap of its own and takes no effect; RPC = FPC (07 R186). -/
def raise (s : State) (code : BitVec 9) (addr : Word := 0) (detail : BitVec 32 := 0) : Result :=
  let t := s.unissued (.trapped ⟨code, detail, addr⟩ false false)
  .next (t.takeTrap s.issue.slot ⟨code, detail, addr⟩ s.issue.info s.issue.info.fpc s.issue.npc s.issue.foldBefore)

/-- The head fails a decode check (03 R77). -/
def raiseDecode (s : State) (code : BitVec 9) (detail : BitVec 32 := 0) : Result :=
  let t := s.unissued (.trapped ⟨code, detail, 0⟩ false true)
  .next (t.takeTrap s.issue.slot ⟨code, detail, 0⟩ s.issue.info s.issue.info.fpc s.issue.npc s.issue.foldBefore)

/-- The head raises a trap whose RPC is NPC (07 R179, 12 R300): the bundle's heads stay folded, and the block that an
annulled first head ends is over. DESIGN CHOICE (log entry 46): where the bundle ends a loop body, no loop is updated, so the
strand resumes at the head that follows in fetch order with the loop still live. -/
def raiseNext (s : State) (code : BitVec 9) (addr : Word := 0) (detail : BitVec 32 := 0) : Result :=
  let t := (s.unissued (.trapped ⟨code, detail, addr⟩ true false)).modMe fun x => { x with ends := false }
  .next (t.takeTrap s.issue.slot ⟨code, detail, addr⟩ s.issue.info s.issue.npc s.issue.npc s.issue.foldAfter)

/-- The bundle forfeits its turn (01 R16). -/
def forfeit (s : State) : Result := .next ((s.unissued .forfeited).bump 0)

/-- The head waits and is tried again once the condition holds (01 R12). -/
def sleep (s : State) (w : Wait) : Result :=
  .next ((s.unissued .slept).modMe fun x => { x with
    st := .sleep, wait := some w, waitFrom := some (x.waitFrom.getD s.tile.cycle), waitAt := none })

/-- A droop bubble takes the place of the turn (01 R25). -/
def bubble (s : State) : Result := .next (s.unissued .bubble)

/-- The head has issued and the strand sleeps until an answer writes its result (01 R12). -/
def await (s : State) (w : Wait) : State := s.modMe fun x => { x with
  st := .sleep, wait := some w, waitAt := some (s.issue.info.fpc, s.issue.foldBefore, x.loops) }

/-! ## The return from a trap -/

/-- A whole-word write of `sw` (01 R35, 06 R146): reserved bits are kept zero. -/
def swWriteMask : Word := 0x000003FFBFFFFF0F

/-- Does a whole-word write of `sw` name a reserved rounding mode (01 R35)? -/
def swIllegal (v : Word) : Bool := decide (4 < bits v.toNat 23 21)

/-- Resume the served strand (07 R182): `sw` and PC from frame words 4 and 2 in the slice; the saved fold when the
resume address is the one that the wafer wrote, else a block start. The strand is READY from the next cycle. -/
def resume (s : State) (h : Handler) : State :=
  let x := s.slot h.served
  let base := s.me.wp.toNat + 768
  let pc : BitVec 22 := .ofNat 22 (natAt s.rdMem (s.key (base + 16)) 8)
  let sw := w64 (natAt s.rdMem (s.key (base + 32)) 8) &&& swWriteMask
  let rpc : BitVec 22 := (h.frame.getD 2 0).setWidth 22
  let fold : Byte := if pc == rpc then .ofNat 8 (bits (h.frame.getD 6 0).toNat 47 40) else 0x5A
  s.setSlot h.served { x with
    st := .ready, pc := pc, sw := sw, fold := fold, priv := h.resumePriv, wait := none,
    line := if pc == rpc then x.line else none, ends := x.ends && pc == rpc }

end State

end Sys2Proof.Machine
end

