-- ==== Sys2Proof/Machine/Fields.lean ====
section
/-! DEFINITION. What the loop, ward and bundle logic ask of a head: where its operand fields lie in its tail (04 R110),
its SIG if it ends a block (03 R78), whether a loop body may hold it (04 R108). -/

namespace Sys2Proof.Machine

/-- The lowest bits of the d, a and b operand fields in the tail; the d field of a tile head is its two-bit tile
number; `mem` is the access size when a is the address of a memory operand (04 R110). -/
structure StepFields where
  d : Option Nat
  a : Option Nat
  b : Option Nat
  tile : Bool
  mem : Nat
deriving DecidableEq, Repr

/-- The major opcode, the minor and the tail form of a head (03 R66). -/
def majorOf (h : BitVec 16) : Nat := bits h.toNat 12 7
def minorOf (h : BitVec 16) : Nat := bits h.toNat 6 0
def tailForm (h : BitVec 16) : Nat := bits h.toNat 14 13

/-- The operand fields of a head that a loop steps, by the opcode map (03 R71, R76; 04 R110). DESIGN CHOICE (log entry 46): the
access size of `PREF`, which covers more than it touches, is one line whatever X is. -/
def stepFields (h : BitVec 16) (tail : Word) : StepFields :=
  let m := minorOf h
  let T := tailForm h
  let x := bits tail.toNat
  match majorOf h with
  | 0x01 =>
    if T = 1 then ⟨some 11, some 6, some 1, false, 0⟩
    else if T = 2 then ⟨some 27, some 22, some 17, false, 0⟩
    else ⟨none, none, none, false, 0⟩
  | 0x02 =>
    if T = 1 then ⟨some 11, some 6, none, false, 0⟩
    else ⟨none, none, none, false, 0⟩
  | 0x03 =>
    if T = 2 ∧ m &&& 0x7f = 0x0 then ⟨some 27, some 22, none, false, 0⟩
    else if T = 2 ∧ m &&& 0x7f = 0x1 then ⟨some 27, none, none, false, 0⟩
    else if T = 3 ∧ m &&& 0x7f = 0x1 then ⟨some 59, none, none, false, 0⟩
    else if T = 3 ∧ m &&& 0x7f = 0x2 then ⟨some 59, some 54, none, false, 0⟩
    else ⟨none, none, none, false, 0⟩
  | 0x04 =>
    if T = 2 then ⟨some 27, some 22, none, false, 0⟩
    else ⟨none, none, none, false, 0⟩
  | 0x05 =>
    if T = 1 then ⟨none, some 6, some 1, false, 0⟩
    else ⟨none, none, none, false, 0⟩
  | 0x06 =>
    if T = 2 then ⟨none, some 22, none, false, 0⟩
    else if T = 1 then ⟨none, some 6, some 1, false, 0⟩
    else ⟨none, none, none, false, 0⟩
  | 0x08 =>
    if T = 1 then ⟨none, some 3, none, false, 0⟩
    else ⟨none, none, none, false, 0⟩
  | 0x09 =>
    if T = 3 ∧ m &&& 0x7f = 0x0 then ⟨none, some 43, none, false, 0⟩
    else ⟨none, none, none, false, 0⟩
  | 0x0a =>
    if T = 1 ∧ (m &&& 0xf = 0x0 ∨ m &&& 0xf = 0x1 ∨ m &&& 0xf = 0x2 ∨ m &&& 0xf = 0x3 ∨ m &&& 0xf = 0x6 ∨ m &&& 0xf = 0x7) then ⟨some 11, some 6, some 1, false, 0⟩
    else if T = 1 ∧ (m &&& 0xf = 0x8 ∨ m &&& 0xf = 0x9 ∨ m &&& 0xf = 0xa) then ⟨some 11, some 6, none, false, 0⟩
    else if T = 2 ∧ m &&& 0xf = 0x4 then ⟨some 27, some 22, some 17, false, 0⟩
    else if T = 2 ∧ m &&& 0xf = 0x5 then ⟨some 27, some 22, none, false, 0⟩
    else ⟨none, none, none, false, 0⟩
  | 0x0b =>
    if T = 1 then ⟨none, some 6, some 1, false, 0⟩
    else ⟨none, none, none, false, 0⟩
  | 0x0c =>
    if T = 2 then ⟨some 27, some 22, none, false, 0⟩
    else ⟨none, none, none, false, 0⟩
  | 0x0d =>
    if T = 2 ∧ (m &&& 0x7f = 0x0 ∨ m &&& 0x7f = 0x1 ∨ m &&& 0x7f = 0x2 ∨ m &&& 0x7f = 0x4) then ⟨some 27, none, none, false, 0⟩
    else if T = 2 ∧ m &&& 0x7f = 0x3 then ⟨none, some 22, none, false, 0⟩
    else if T = 1 then ⟨some 11, some 6, some 1, false, 0⟩
    else ⟨none, none, none, false, 0⟩
  | 0x0f =>
    if T = 2 ∧ m &&& 0x7f = 0x2 then ⟨none, some 22, none, false, 0⟩
    else if T = 1 ∧ m &&& 0x7f = 0x1 then ⟨none, some 3, none, false, 0⟩
    else if T = 1 ∧ m &&& 0x7f = 0x3 then ⟨some 11, some 6, none, false, 0⟩
    else ⟨none, none, none, false, 0⟩
  | 0x10 =>
    if T = 2 then ⟨some 27, some 22, none, false, 2 ^ bits m 6 5⟩
    else ⟨none, none, none, false, 0⟩
  | 0x11 =>
    if T = 2 then ⟨some 27, some 22, none, false, 32⟩
    else ⟨none, none, none, false, 0⟩
  | 0x12 =>
    if T = 2 then ⟨some 27, some 22, some 17, false, 0⟩
    else ⟨none, none, none, false, 0⟩
  | 0x13 =>
    if T = 2 then ⟨some 27, some 22, some 17, false, 0⟩
    else ⟨none, none, none, false, 0⟩
  | 0x14 =>
    if T = 2 then ⟨some 27, some 22, some 17, false, 0⟩
    else ⟨none, none, none, false, 0⟩
  | 0x15 =>
    if T = 2 then ⟨none, some 22, some 17, false, 0⟩
    else ⟨none, none, none, false, 0⟩
  | 0x16 =>
    if T = 3 ∧ (m &&& 0x7f = 0x0 ∨ m &&& 0x7f = 0x1) then ⟨none, some 54, some 49, false, 0⟩
    else if T = 3 ∧ (m &&& 0x7f = 0x2 ∨ m &&& 0x7f = 0x3) then ⟨some 59, some 54, some 49, false, 0⟩
    else ⟨none, none, none, false, 0⟩
  | 0x17 =>
    if T = 2 ∧ m &&& 0x7f = 0x0 then ⟨some 27, some 22, none, false, 0⟩
    else if T = 2 ∧ m &&& 0x7f = 0x1 then ⟨some 27, some 22, some 17, false, 0⟩
    else ⟨none, none, none, false, 0⟩
  | 0x18 =>
    if T = 2 ∧ (m &&& 0x77 = 0x30 ∨ m &&& 0x77 = 0x31) then ⟨some 27, some 22, none, false, 64⟩
    else if T = 2 ∧ m &&& 0x1f = 0x2 then ⟨none, some 22, none, false, 64⟩
    else ⟨none, none, none, false, 0⟩
  | 0x19 =>
    if T = 1 then ⟨none, some 6, none, false, 0⟩
    else ⟨none, none, none, false, 0⟩
  | 0x1a =>
    if T = 3 then ⟨none, some 54, some 49, false, 0⟩
    else ⟨none, none, none, false, 0⟩
  | 0x1b =>
    if T = 1 ∧ (m &&& 0x7f = 0x2 ∨ m &&& 0x7f = 0x4) then ⟨none, some 6, none, false, 0⟩
    else ⟨none, none, none, false, 0⟩
  | 0x1c =>
    if T = 3 then ⟨none, some 54, some 49, false, 0⟩
    else if T = 2 ∧ (m &&& 0x7f = 0x1 ∨ m &&& 0x7f = 0x2) then ⟨none, some 22, none, false, 0⟩
    else if T = 2 ∧ m &&& 0x7f = 0x3 then ⟨some 27, some 22, none, false, 0⟩
    else ⟨none, none, none, false, 0⟩
  | 0x1d =>
    if T = 2 ∧ m &&& 0xf = 0x0 then ⟨none, some 22, none, false, 0⟩
    else if T = 2 ∧ (m &&& 0xf = 0x2 ∨ m &&& 0xf = 0x3 ∨ m &&& 0xf = 0x4) then ⟨some 27, some 22, none, false, 0⟩
    else ⟨none, none, none, false, 0⟩
  | 0x1e =>
    if T = 2 ∧ (m &&& 0x7f = 0x0 ∨ m &&& 0x7f = 0x1) then ⟨none, some 22, some 17, false, 0⟩
    else if T = 2 ∧ m &&& 0x7f = 0x2 then ⟨some 27, some 22, some 17, false, 0⟩
    else if T = 2 ∧ m &&& 0x7f = 0x3 then ⟨some 27, none, none, false, 0⟩
    else ⟨none, none, none, false, 0⟩
  | 0x1f =>
    if T = 2 ∧ (m = 0x0 ∧ x 1 0 = 1) then ⟨none, some 22, none, false, 0⟩
    else if T = 2 ∧ m &&& 0x7f = 0x1 then ⟨some 27, none, none, false, 0⟩
    else if T = 2 ∧ m &&& 0x7f = 0x2 then ⟨some 27, some 22, none, false, 0⟩
    else ⟨none, none, none, false, 0⟩
  | 0x20 =>
    if T = 2 ∧ m &&& 0x7f = 0x0 then ⟨none, some 22, some 17, false, 0⟩
    else if T = 2 ∧ (m &&& 0x7f = 0x1 ∨ m &&& 0x7f = 0x2) then ⟨some 27, some 22, some 17, false, 0⟩
    else ⟨none, none, none, false, 0⟩
  | 0x21 =>
    if T = 2 ∧ (m &&& 0x7f = 0x0 ∨ m &&& 0x7f = 0x3) then ⟨none, some 22, some 17, false, 0⟩
    else if T = 2 ∧ (m &&& 0x7f = 0x1 ∨ m &&& 0x7f = 0x2) then ⟨some 27, some 22, some 17, false, 0⟩
    else ⟨none, none, none, false, 0⟩
  | 0x22 =>
    if T = 1 ∧ m &&& 0x7f = 0x0 then ⟨none, some 6, none, false, 0⟩
    else if T = 1 ∧ m &&& 0x7f = 0x1 then ⟨some 11, none, none, false, 0⟩
    else if T = 1 ∧ m &&& 0x7f = 0x2 then ⟨some 11, some 6, none, false, 0⟩
    else ⟨none, none, none, false, 0⟩
  | 0x23 =>
    if T = 2 ∧ (m &&& 0x7f = 0x0 ∨ m &&& 0x7f = 0x1 ∨ m &&& 0x7f = 0x2) then ⟨some 27, some 22, none, false, 0⟩
    else if T = 2 ∧ m &&& 0x7f = 0x3 then ⟨none, some 22, some 17, false, 0⟩
    else ⟨none, none, none, false, 0⟩
  | 0x24 =>
    if T = 2 ∧ (m &&& 0x7f = 0x0 ∨ m &&& 0x7f = 0x1) then ⟨none, some 22, none, false, 0⟩
    else if T = 2 ∧ m &&& 0x7f = 0x2 then ⟨some 27, some 22, some 17, false, 0⟩
    else if T = 2 ∧ ((m = 0x3 ∧ x 1 0 = 0) ∨ m &&& 0x7f = 0x4) then ⟨some 27, some 22, none, false, 0⟩
    else if T = 2 ∧ ((m = 0x3 ∧ x 1 0 = 1) ∨ (m = 0x3 ∧ x 1 0 = 2)) then ⟨some 27, none, none, false, 0⟩
    else ⟨none, none, none, false, 0⟩
  | 0x26 =>
    if T = 1 then ⟨some 11, none, none, false, 0⟩
    else if T = 2 then ⟨none, some 22, none, false, 0⟩
    else ⟨none, none, none, false, 0⟩
  | 0x30 =>
    if T = 1 then ⟨some 11, some 6, some 1, false, 0⟩
    else if T = 2 then ⟨some 27, some 22, some 17, false, 0⟩
    else ⟨none, none, none, false, 0⟩
  | 0x31 =>
    if T = 1 then ⟨some 11, some 6, some 1, false, 0⟩
    else if T = 2 then ⟨some 27, some 22, some 17, false, 0⟩
    else ⟨none, none, none, false, 0⟩
  | 0x32 =>
    if T = 1 then ⟨some 11, some 6, none, false, 0⟩
    else if T = 2 then ⟨some 27, some 22, none, false, 0⟩
    else ⟨none, none, none, false, 0⟩
  | 0x33 =>
    if T = 1 then ⟨some 11, some 6, some 1, false, 0⟩
    else ⟨none, none, none, false, 0⟩
  | 0x34 =>
    if T = 1 then ⟨some 11, some 6, some 1, false, 0⟩
    else ⟨none, none, none, false, 0⟩
  | 0x35 =>
    if T = 2 ∧ m &&& 0x7f = 0x0 then ⟨some 27, some 22, some 17, false, 0⟩
    else if T = 2 ∧ (m &&& 0x7f = 0x1 ∨ m &&& 0x7f = 0x2 ∨ m &&& 0x7f = 0x3 ∨ m &&& 0x7f = 0x4) then ⟨some 27, some 22, none, false, 0⟩
    else ⟨none, none, none, false, 0⟩
  | 0x36 =>
    if T = 2 ∧ (m &&& 0x7f = 0x0 ∨ m &&& 0x7f = 0x2 ∨ m &&& 0x7f = 0x3) then ⟨some 27, some 22, some 17, false, 0⟩
    else if T = 2 ∧ m &&& 0x7f = 0x1 then ⟨some 27, some 22, none, false, 0⟩
    else ⟨none, none, none, false, 0⟩
  | 0x37 =>
    if T = 2 then ⟨some 27, some 22, none, false, 0⟩
    else ⟨none, none, none, false, 0⟩
  | 0x38 =>
    if T = 2 then ⟨some 27, some 22, some 17, false, 0⟩
    else ⟨none, none, none, false, 0⟩
  | 0x39 =>
    if T = 2 ∧ m &&& 0x7f = 0x0 then ⟨some 27, some 22, if x 0 0 = 1 then some 17 else none, false, 0⟩
    else if T = 2 ∧ m &&& 0x7f = 0x1 then ⟨some 27, some 22, none, false, 0⟩
    else if T = 2 ∧ m &&& 0x7f = 0x2 then ⟨none, some 22, none, false, 0⟩
    else ⟨none, none, none, false, 0⟩
  | 0x3a =>
    if T = 2 ∧ (m &&& 0x7f = 0x1 ∨ m &&& 0x7f = 0x2) then ⟨some 27, some 22, some 17, false, 0⟩
    else if T = 2 ∧ (m &&& 0x7f = 0x3 ∨ m &&& 0x7f = 0x4 ∨ m &&& 0x7f = 0x5 ∨ m &&& 0x7f = 0x6) then ⟨some 27, some 22, none, false, 0⟩
    else if T = 2 ∧ m &&& 0x7f = 0x7 then ⟨some 27, none, none, false, 0⟩
    else ⟨none, none, none, false, 0⟩
  | 0x3b =>
    if T = 3 then ⟨some 38, none, none, true, 0⟩
    else if T = 2 ∧ m &&& 0x7f = 0x2 then ⟨some 27, none, none, false, 0⟩
    else ⟨none, none, none, false, 0⟩
  | 0x3c =>
    if T = 3 ∧ m &&& 0x7f = 0x0 then ⟨some 38, some 54, some 49, true, 0⟩
    else if T = 3 ∧ m &&& 0x7f = 0x1 then ⟨none, some 54, some 49, false, 0⟩
    else ⟨none, none, none, false, 0⟩
  | 0x3d =>
    if T = 2 ∧ (m &&& 0x7f = 0x0 ∨ m &&& 0x7f = 0x1) then ⟨some 6, some 22, some 17, true, 0⟩
    else if T = 2 ∧ m &&& 0x7f = 0x2 then ⟨some 27, some 22, none, false, 0⟩
    else ⟨none, none, none, false, 0⟩
  | _ => ⟨none, none, none, false, 0⟩

/-- Block-ending heads (03 R78), by major and minor (03 R76; 07 R178; 11 R269). -/
def blockEnding (h : BitVec 16) : Bool :=
  match majorOf h with
  | 0x07 | 0x08 | 0x09 => true
  | 0x0F => minorOf h == 1
  | 0x1B => minorOf h == 0
  | _ => false

/-- The SIG of a block-ending head, by its tail form (03 R71). -/
def sigOf (h : BitVec 16) (tail : Word) : Byte :=
  match tailForm h with
  | 1 => tail.extractLsb' 8 8
  | 2 => tail.extractLsb' 24 8
  | _ => tail.extractLsb' 56 8

/-- `LOOP` and `LOOPI`, with their body length less one (04 R107). -/
def loopLen (h : BitVec 16) (tail : Word) : Option Nat :=
  if majorOf h = 0x09 then some (bits tail.toNat 42 38) else none

/-- A head that no loop body may hold (04 R108): a block-ending head other than a loop, or `MIGRATE`. -/
def bodyForbids (h : BitVec 16) : Bool :=
  (blockEnding h && majorOf h != 0x09) || (majorOf h == 0x1B && minorOf h == 4)

/-- Class V heads (03 R75). -/
def vectorClass (h : BitVec 16) : Bool := decide (0x30 ≤ majorOf h)

/-- Stores, whose bytes follow the register writes of the cycle (01 R30): `ST`, `STV`, `STG`, `STL`, `STMETA`. -/
def storeHead (h : BitVec 16) : Bool :=
  (decide (0x10 ≤ majorOf h ∧ majorOf h ≤ 0x13) || majorOf h == 0x18) && minorOf h % 8 == 1

/-- Heads whose own effect follows their partner's: those that end, park or move the strand (01 R19), `QUIT`, `FORK`,
`JOIN` and `MIGRATE`, `RETT`, `PARK`; and stores (R30). -/
def takesLast (h : BitVec 16) : Bool :=
  majorOf h == 0x1B || (majorOf h == 0x0F && minorOf h == 1) || (majorOf h == 0x23 && minorOf h == 1) || storeHead h

/-- A whole-word write of `sw` takes effect before the partner's writes (04 R96). -/
def takesFirst (h : BitVec 16) (tail : Word) : Bool :=
  majorOf h == 0x0D && minorOf h == 3 && bits tail.toNat 21 0 == 0

end Sys2Proof.Machine
end

