-- ==== Sys2Proof/Machine/Net.lean ====
section
/-! DEFINITION. Addresses and their checks (08 R188, R189), sites and legs (08 R190), packets of the request network
(12 R295, R516; 20 R463) and of the message network with the hold buffer (12 R297, R299). -/

namespace Sys2Proof.Machine

/-- Where a checked SRAM address leads. -/
inductive Place where
  | here (off : Nat)
  | remote (ltn core off : Nat)
  | trap (code : BitVec 9)
  /-- A local bank in RETAIN or waking (01 R33). -/
  | waking (bank : Fin 3)
deriving DecidableEq, Repr

/-- ERR codes of R211. -/
abbrev errMap : Nat := 1
abbrev errRefused : Nat := 2
abbrev errGated : Nat := 3
abbrev errLink : Nat := 4

namespace State

/-- The number of the running stand (16 R374). -/
def standNo (s : State) : Nat := bits s.rim.standid.toNat 21 16

def stand (s : State) : Option Stand := SMap.find s.standNo s.rim.stands

/-- A packed rectangle (08 R198). -/
def unpackRect (w : Nat) : Rect := ⟨bits w 7 0, bits w 15 8, bits w 23 16, bits w 31 24⟩

/-- The stand's rectangle; without a stand it holds no tile. -/
def standRect (s : State) : Rect :=
  match s.stand with
  | some t => if t.b.getLsbD 63 then unpackRect (bits t.a.toNat 31 0) else ⟨1, 1, 0, 0⟩
  | none => ⟨1, 1, 0, 0⟩

/-- Does a rectangle hold a logical tile (00 R3)? -/
def inRect (r : Rect) (ltn : Nat) : Bool :=
  decide (r.colLo ≤ ltn % 30) && decide (ltn % 30 ≤ r.colHi) && decide (r.rowLo ≤ ltn / 30) && decide (ltn / 30 ≤ r.rowHi)

/-- Is an LTN a tile of the stand that the grade holds (08 R189 order 2)? -/
def inStand (s : State) (ltn : Nat) : Bool := inRect s.standRect ltn && decide (ltn < s.rim.held)

/-- The module's last logical row. -/
def lastRow (s : State) : Nat := (s.rim.held - 1) / 30

/-- A rectangle operand, checked as R198 checks it. -/
def rectOperand (s : State) (w : Word) : Option Rect :=
  let r := unpackRect (bits w.toNat 31 0)
  if bits w.toNat 63 32 != 0 || decide (r.colHi < r.colLo) || decide (30 ≤ r.colHi) || decide (r.rowHi < r.rowLo)
      || decide (s.lastRow < r.rowHi) then none else some r

/-- The power state of a bank: 0 ACTIVE, 1 RETAIN, 2 GATED (01 R34). -/
def bankState (s : State) (b : Nat) : Nat := bits s.core.bankpm.toNat (2 * b + 1) (2 * b)

/-- A strand touches a range of its own slice (01 R33). -/
def bankCheck (s : State) (off n : Nat) : Option Place :=
  let check (b : Nat) : Option Place :=
    if s.bankState b == 2 then some (.trap cGATED)
    else if s.core.waking.any (fun w => w.1.val == b) then some (.waking (.ofNat 3 b))
    else if s.bankState b == 1 then some (.waking (.ofNat 3 b))
    else none
  match check (off / 2 ^ 20) with
  | some p => some p
  | none => check ((off + n - 1) / 2 ^ 20)

/-- A RETAIN bank begins to wake; a waking one goes on (01 R33). -/
def startWake (s : State) (b : Fin 3) : State :=
  if s.core.waking.any (fun w => w.1 == b) then s
  else
    let s : State := { s with core := { s.core with waking := s.core.waking ++ [(b, s.tile.cycle + 24)] } }
    s.after 24 (.bankWakeDone b)

/-- The form of an SRAM address: LTN, core and offset (08 R188); a local address names the issuing core. -/
def addrForm (s : State) (a : Word) : Option (Nat × Nat × Nat) :=
  let v := a.toNat
  if v < 2 ^ 22 then some (s.core.ltn, s.core.num, v)
  else if decide (2 ^ 63 ≤ v) && bits v 62 38 == 0 then some (bits v 37 26, bits v 25 22, bits v 21 0)
  else none

/-- The checks of an SRAM address in their order (08 R189). -/
def checkAddr (s : State) (a : Word) (n align : Nat) : Place :=
  match s.addrForm a with
  | none => .trap cADDRESS
  | some (ltn, core, off) =>
    let own := ltn == s.core.ltn && core == s.core.num
    if !(s.inStand ltn || bits a.toNat 63 63 == 0) then .trap cADDRESS
    else if decide (s.rim.visibleTop < off + n) then .trap cADDRESS
    else if off % align != 0 then .trap cMISALIGNED
    else if own then (s.bankCheck off n).getD (.here off)
    else .remote ltn core off

/-- The checks of an address that must be local. -/
def checkLocal (s : State) (a : Word) (n align : Nat) : Place :=
  match s.checkAddr a n align with
  | .remote .. => .trap cADDRESS
  | p =>
    match s.addrForm a with
    | some (ltn, core, _) => if ltn == s.core.ltn && core == s.core.num then p else .trap cADDRESS
    | none => p

/-! ## The skid log -/

/-- CKP of the running stand: 2 = no notches and no recovery (16 R371). -/
def ckp (s : State) : Nat :=
  match s.stand with
  | some t => bits t.b.toNat 59 58
  | none => 2

/-- Write a record of the skid log with the cycle of its consumption, unless a replay applies it (19 R444 to R447). `ev` is
the input itself, which a replay applies again. The hinge's acknowledgement comes one unloaded round trip later (20 R462,
log entry 7). -/
def record (s : State) (kind core slot : Nat) (words : List Word) (ev : Option Instr) : State :=
  if s.ckp = 2 ∨ s.tile.replay ≠ [] then s
  else
    let n := s.tile.notch
    let hdr := w64 (kind * 2 ^ 58 + core % 16 * 2 ^ 54 + slot % 16 * 2 ^ 50 + words.length % 1024 * 2 ^ 40
      + (s.tile.cycle - n.opened) % 2 ^ 32)
    let s : State := { s with tile := { s.tile with notch := { n with
      log := n.log ++ [⟨hdr, words, ev, s.tile.cycle⟩], total := n.total + 1 } } }
    s.after 46 (.hingeAcknowledgement (n.total + 1))

/-- Log an external input. -/
def logged (s : State) (kind core slot : Nat) (words : List Word) (ev : Instr) : State := s.record kind core slot words (some ev)

/-- A value that an agent outside the tile has set is read: it is logged, or in a replay taken from the log (19 R449). -/
def valueRead (s : State) (v : Word) : Word × State :=
  match s.tile.replay with
  | r :: rs =>
    if r.ev.isNone && bits r.hdr.toNat 63 58 == 8 then
      (r.words.headD v, { s with tile := { s.tile with replay := rs } })
    else (v, s)
  | [] => (v, s.record 8 s.core.num s.issue.slot.val [v] none)

/-! ## Sites and legs -/

/-- The keyring entry of an LTN (12 R296). -/
def keyOf (s : State) (ltn : Nat) : KeyEntry := SMap.getD s.tile.keyring ltn ⟨.absent, 0, false, 0, 0⟩

/-- The site that holds a logical tile. -/
def siteOf (s : State) (ltn : Nat) : Nat :=
  match SMap.find ltn s.tile.keyring with
  | some e => 32 * e.srow + e.scol
  | none => SMap.getD s.rim.sites ltn (homeSite ltn)

def dist (a b : Nat) : Nat := if a ≤ b then b - a else a - b

/-- One unloaded leg between two tiles: 6 + 2d + f tile cycles (08 R190). -/
def leg (s : State) (a b : Nat) : Nat :=
  let p := s.siteOf a
  let q := s.siteOf b
  6 + 2 * (dist (p / 32) (q / 32) + dist (p % 32) (q % 32))
    + (dist (p / 32 / 8) (q / 32 / 8) + dist (p % 32 / 8) (q % 32 / 8))

/-! ## The request network -/

/-- The event by which a request performs at its home core. -/
def reqEvent (q : Req) : Instr :=
  match q.kind with
  | .load _ => .remoteLoadServe q
  | .store _ | .storeVec _ | .notify => .remoteStorePerform q
  | .atom .. => .atomicExecute q
  | .radd _ => .raddUnitAdd q
  | .count .. => .remoteCounterIncrement q

/-- Release a packet once the hinge has acknowledged the log of earlier cycles (20 R462). -/
def release (s : State) (n : Nat) (i : Instr) : State :=
  let now := (s.tile.notch.log.filter fun r => r.cycle == s.tile.cycle).length
  let need := s.tile.notch.total - now
  if s.tile.acked < need then
    { s with tile := { s.tile with waitingAck := s.tile.waitingAck ++ [(need, n, i)] } }
  else s.after n i

/-- Change a put/get entry. -/
def modEntry (s : State) (id : Nat) (f : PgEntry → PgEntry) : State :=
  { s with core := { s.core with pg := s.core.pg.map fun e => if e.id = id then f e else e } }

/-- A unit, notify write or remote increment of an entry has performed, or faulted; the first fault is recorded (08 R210,
R211). -/
def unitDone (s : State) (id : Nat) (err : Nat) (addr : Word) : State :=
  (s.modEntry id fun e => { e with
    performed := if e.stage = 0 then e.performed + 1 else e.performed
    err := if e.err = 0 then .ofNat 8 err else e.err
    faddr := if e.err = 0 ∧ err ≠ 0 then addr else e.faddr }).after 1 (.putgetEntryComplete id)

/-- The name of a request among resends, beyond those of the hold buffer. -/
def reqId (ltn : Nat) (seq : BitVec 32) : Nat := 2 ^ 48 + ltn * 2 ^ 32 + seq.toNat

/-- Send a request: its SEQ is assigned, and it is kept until it is answered; toward a tile that is not BOUND it is kept
in the request interface, toward one that has EXITED it is dropped (12 R294, R295, R516). -/
def sendReq (s : State) (q : Req) (strand : Nat) (info : HeadInfo) : State :=
  let seq := SMap.getD s.tile.seqReq q.dltn 0
  let q := { q with seq := seq }
  let st := (s.keyOf q.dltn).st
  if st == .exited then
    match q.entry with
    | some id => s.unitDone id 0 0
    | none => s
  else
    let kept := !(st == .bound)
    let s : State := { s with tile := { s.tile with
      seqReq := SMap.put q.dltn (seq + 1) s.tile.seqReq,
      sent := s.tile.sent ++ [⟨q, s.tile.cycle + 4096, kept, strand, info⟩] } }
    if kept then s
    else (s.release (s.leg s.core.ltn q.dltn) (reqEvent q)).after 4096 (.rtoResend (reqId q.dltn seq))

/-- The accesses of a strand that FENCE.R over a rectangle waits for are all answered (09 R229). -/
def rectClear (s : State) (strand : Nat) (r : Rect) : Bool :=
  s.tile.sent.all fun x => !(x.strand == strand && x.q.entry.isNone && inRect r x.q.dltn)

/-! ## The message network -/

/-- Hold entries that the strands' `DQPUSH`es have taken and not yet filled (13 R327). -/
def holdTaken (s : State) : Nat := (allSlots.map fun i => ((s.slot i).pushes.map (·.entries)).sum).sum

/-- Free entries of the hold buffer, of its 32 (12 R299). -/
def holdFree (s : State) : Nat := 32 - s.tile.hold.length - s.holdTaken

/-- Has the channel to a tile a packet waiting that later ones must join (12 R297)? -/
def channelHeld (s : State) (ltn : Nat) : Bool :=
  s.tile.hold.any fun h => h.p.dltn == ltn && (match h.st with | .sent _ => false | _ => true)

/-- Do the packets that wait in a channel all wait in the mailbox path (12 R297)? -/
def channelMailed (s : State) (ltn : Nat) : Bool :=
  s.tile.hold.all fun h => h.p.dltn != ltn || (match h.st with | .sent _ | .mailbox => true | _ => false)

/-- Flits of a packet beyond its first (08 R190, 12 R305). -/
def extraFlits (b : Body) : Nat :=
  match b with
  | .message _ w => (w.length + 7) / 8 - 1
  | .delta _ r => (r.length * 4 + 7) / 8 - 1
  | _ => 0

/-- What a packet's arrival at this core is. -/
def packetEvent (p : Packet) : Instr :=
  match p.body with
  | .message .. => .messageAccept p
  | .delta .. => .deltaPacketAccept p
  | .arrival a => .arrivalReceive a
  | .setev q m => .remoteSetevArrival p.sltn p.seq.toNat q m
  | .park q => .parkRequestServe q
  | .notice => .deadLetterNotice p.sltn p.seq.toNat

/-- What becomes of a packet by the state of its destination's entry (12 R297, R516; 13 R318). -/
inductive Fate where
  | send | keep | mailbox | dead
deriving DecidableEq, Repr

def fate (s : State) (p : Packet) : Fate :=
  match (s.keyOf p.dltn).st with
  | .bound => .send
  | .swapped => (match p.body with
    | .message .. => .mailbox
    | _ => .keep)
  | .exited => .dead
  | _ => .keep

/-- Record a dead letter in the launch status and count it (12 R300). -/
def deadLetter (s : State) (core slot : Nat) (dst : Word) (seq : BitVec 32) : State :=
  let s := s.bump 18
  let f (l : Launch) : Launch :=
    if l.stand == s.standNo && l.st == .running then
      if l.dlcnt == 0 then
        { l with dlcnt := 1, dldst := dst, dlsrc := w64 (s.core.ltn * 2 ^ 52 + core * 2 ^ 48 + slot * 2 ^ 44), dlseq := seq }
      else { l with dlcnt := l.dlcnt + 1 }
    else l
  { s with rim := { s.rim with launches := s.rim.launches.map f } }

/-- The destination word that a packet carries, in global form. -/
def packetDest (p : Packet) : Word :=
  let q := match p.body with
    | .message q _ => q.toNat
    | .delta q _ => q.toNat
    | _ => 0
  w64 (2 ^ 63 + p.dltn * 2 ^ 26 + p.dcore * 2 ^ 22 + q)

/-- A held packet is dropped as a dead letter; its strand, if it still has its slot, traps at its next turn (12 R300).
`detail` is bit 30 of DETAIL for an undeclared delta queue (13 R318). -/
def dropHeld (s : State) (h : HoldEntry) (detail : BitVec 32 := 0) : State :=
  let s : State := { s with tile := { s.tile with hold := s.tile.hold.filter fun x => x.id != h.id } }
  let s := s.deadLetter h.p.score h.p.slot (packetDest h.p) h.p.seq
  let i : Fin 16 := .ofNat 16 h.p.slot
  if (s.slot i).strand = h.strand ∧ (s.slot i).st ≠ .empty then
    s.modSlot i fun x => { x with
      deferred := x.deferred ++ [⟨⟨cDEADLETTER, 0x80000000 ||| detail ||| .ofNat 32 (h.p.dltn % 4096), 0⟩, none⟩] }
  else s

/-- Put a packet on the network (12 R295): it reaches this core by the loop-back port, and is sent again after RTO. What
goes to another core is answered from outside (log entry 6); of one to another core of this tile, the tile itself
consumes the SEQ. -/
def launchPacket (s : State) (id : Nat) (p : Packet) : State :=
  let s :=
    if p.dltn == s.core.ltn then
      if p.dcore == s.core.num then s.release (6 + extraFlits p.body) (packetEvent p)
      else s.release 6 (.deadLetterNotice p.sltn p.seq.toNat)
    else s
  s.after 4096 (.rtoResend id)

def setHold (s : State) (id : Nat) (st : HoldState) : State :=
  { s with tile := { s.tile with hold := s.tile.hold.map fun h => if h.id = id then { h with st := st } else h } }

/-- Is the payload of a held packet still being read (12 R305)? -/
def forming (s : State) (id : Nat) : Bool := allSlots.any fun i => (s.slot i).payload.any fun l => l.hold == some id

/-- Decide a held packet's fate and act on it (12 R297, R516). -/
def sendHeld (s : State) (h : HoldEntry) : State :=
  match s.fate h.p with
  | .send => (s.setHold h.id (.sent s.tile.cycle)).launchPacket h.id h.p
  | .keep => s.setHold h.id .waiting
  | .mailbox => (s.setHold h.id .mailbox).after 1 (.mailboxWrite h.id)
  | .dead => s.dropHeld h

/-- Send what waits in a channel, in SEQ order, up to the first packet that must wait (12 R297, R299). -/
def drain (s : State) (ltn : Nat) : State := go s s.tile.hold
where
  go (s : State) : List HoldEntry → State
    | [] => s
    | h :: hs =>
      if h.p.dltn ≠ ltn then go s hs
      else match h.st with
      | .sent _ => go s hs
      | .refused _ => s
      | .mailbox => if s.fate h.p = .mailbox then go s hs else s
      | .waiting =>
        if s.forming h.id || s.fate h.p = .keep then s else go (s.sendHeld h) hs

/-- Form a packet: it takes a hold entry and a SEQ, and goes by the state of its destination's keyring entry
(12 R297, R299; 13 R318; 12 R516), once its payload has been read. The caller has seen that an entry is free and that
the destination has not EXITED. -/
def sendPacket (s : State) (dltn dcore : Nat) (body : Body) (strand : Nat) (poison : BitVec 64 := 0)
    (later : Bool := false) : State :=
  let seq := SMap.getD s.tile.seqMsg dltn 0
  let body := match body with
    | .arrival a => .arrival { a with seq := seq }
    | .park q => .park { q with seq := seq }
    | b => b
  let p : Packet := ⟨s.core.ltn, s.core.num, s.issue.slot.val, dltn, dcore, seq, body, poison⟩
  let id := s.tile.nextHold
  let held := s.channelHeld dltn && !(s.fate p = .mailbox && s.channelMailed dltn)
  let s : State := { s with tile := { s.tile with
    seqMsg := SMap.put dltn (seq + 1) s.tile.seqMsg, nextHold := id + 1,
    hold := s.tile.hold ++ [⟨id, p, .waiting, strand⟩] } }
  if later || held then s else s.sendHeld ⟨id, p, .waiting, strand⟩

/-- Destination words (12 R293, 13 R317): tile, core and queue; a global form must name a tile of the stand. -/
def destWord (s : State) (w : Word) (qbits : Nat) : Option (Nat × Nat × Nat) :=
  let v := w.toNat
  let q := v % 2 ^ qbits
  if v < 2 ^ qbits then some (s.core.ltn, s.core.num, q)
  else if decide (2 ^ 63 ≤ v) && bits v 62 38 == 0 && bits v 21 qbits == 0 && s.inStand (bits v 37 26) then
    some (bits v 37 26, bits v 25 22, q)
  else none

end State

/-- The global form of a destination word. -/
def globalDest (ltn core q : Nat) : Word := w64 (2 ^ 63 + ltn * 2 ^ 26 + core * 2 ^ 22 + q)

end Sys2Proof.Machine
end

