-- ==== Sys2Proof/Machine/Operands.lean ====
section
/-! DEFINITION. Operand forms: register fields, queue ports, parity, and the checks a head passes before it takes effect
(01 R16, R31, R32; 03 R77; 12 R303). -/

namespace Sys2Proof.Machine

/-- How a head uses a register field. -/
inductive Use where
  /-- A source under the parity rule. -/
  | src
  /-- A source read through the third port, exempt from parity. -/
  | third
  /-- The destination. -/
  | dst
  /-- The accumulating destination, read through the third port and written. -/
  | acc
deriving DecidableEq, Repr

/-- A register operand of a head: the first register, how many consecutive registers it spans, whether it is a vector
field, how it is used and whether a queue port may stand there. -/
structure Opd where
  r : Reg
  n : Nat
  vec : Bool
  use : Use
  port : Bool
deriving DecidableEq, Repr

namespace Opd

def src (r : Reg) : Opd := ⟨r, 1, false, .src, true⟩
def dst (r : Reg) : Opd := ⟨r, 1, false, .dst, true⟩
def third (r : Reg) : Opd := ⟨r, 1, false, .third, true⟩
def acc (r : Reg) : Opd := ⟨r, 1, false, .acc, true⟩
def vsrc (r : Reg) : Opd := ⟨r, 1, true, .src, true⟩
def vdst (r : Reg) : Opd := ⟨r, 1, true, .dst, true⟩
def vthird (r : Reg) : Opd := ⟨r, 1, true, .third, true⟩
def vacc (r : Reg) : Opd := ⟨r, 1, true, .acc, true⟩
/-- The same operand where no port may stand. -/
def noPort (o : Opd) : Opd := { o with port := false }
/-- The same operand as the first of n registers. -/
def span (o : Opd) (n : Nat) : Opd := { o with n := n }

def isPort (o : Opd) : Bool := decide (30 ≤ o.r.toNat)
def reads (o : Opd) : Bool := o.use != .dst
def writes (o : Opd) : Bool := o.use == .dst || o.use == .acc

/-- A vector number 16 to 29, a port the head does not take, `qo` as a source or `qi` as a destination (01 R31). -/
def illegal (o : Opd) : Bool :=
  (o.vec && decide (16 ≤ o.r.toNat) && decide (o.r.toNat < 30))
    || (o.isPort && !o.port) || (o.r == 31 && o.reads) || (o.r == 30 && o.writes)

end Opd

/-- Two sources of one head whose register numbers have the same parity (01 R32). -/
def parityClash : List Opd → Bool
  | [] => false
  | o :: os => (o.use == .src && !o.isPort &&
      os.any fun p => p.use == .src && !p.isPort && p.r.toNat % 2 == o.r.toNat % 2) || parityClash os

/-- Pop n words off an inbound queue, message boundaries ignored (12 R301). No message of a queue is empty. -/
def popWords : Nat → List InMsg → Option (List Word × List InMsg)
  | 0, q => some ([], q)
  | _ + 1, [] => none
  | n + 1, m :: q =>
    match m.words with
    | [] => none
    | w :: ws =>
      (popWords n (if ws.isEmpty then q else { m with words := ws, poison := m.poison.drop 1 } :: q)).map fun (x, r) =>
        (w :: x, r)

/-- Words that an inbound queue holds (12 R301). -/
def queueWords (q : List InMsg) : Nat := (q.map fun m => m.words.length).sum

namespace State

/-- Words that the head pops from `qi` (01 R31). -/
def qiNeed (os : List Opd) : Nat :=
  (os.filter fun o => o.reads && o.r == 30).foldl (fun n o => n + (if o.vec then 4 else 1)) 0

/-- Words that the head pushes to `qo` (01 R31). -/
def qoPush (os : List Opd) : Nat :=
  (os.filter fun o => o.writes && o.r == 31).foldl (fun n o => n + (if o.vec then 4 else 1)) 0

/-- Messages that a `qo` binding forms when n words are appended, and what its buffer then holds (12 R303). -/
def qoForms (b : QoBinding) (n : Nat) : Nat × Nat :=
  if b.len = 0 then (0, 0) else ((b.buf.length + n) / b.len, (b.buf.length + n) % b.len)

/-- Does a slice range touch a payload line that a transfer of the strand has not moved (01 R16): a line to be read
may not be touched either, nor a line to be written? -/
def payloadHeld (s : State) (off n : Nat) : Bool :=
  s.me.payload.any fun p => decide (p.line * 64 < off + n) && decide (off < p.line * 64 + 64)

/-- Slice ranges of the registers a head reads or writes (01 R28). -/
def opdRanges (s : State) (os : List Opd) : List (Nat × Nat) :=
  (os.filter fun o => !o.isPort).map fun o =>
    if o.vec then (s.me.wp.toNat + 256 + 32 * o.r.toNat, 32 * o.n) else (s.me.wp.toNat + 8 * o.r.toNat, 8 * o.n)

/-- The LTN that a slot's `qo` names, if its entry is EXITED (12 R300). -/
def qoDead (s : State) (i : Fin 16) : Option Nat :=
  ((s.slot i).qo.bind fun b => s.destWord b.dest 3).bind fun d => if (s.keyOf d.1).st == .exited then some d.1 else none

/-- The trap of a dead letter that a strand's own buffer has made (12 R300). -/
def deadCause (ltn : Nat) : Cause := ⟨cDEADLETTER, .ofNat 32 (ltn % 4096), 0⟩

/-- A head whose `qo` write has made a dead letter traps once it has taken its effect (12 R300). -/
def afterDead (s : State) (ltn : Nat) : Result → Result
  | .next t =>
    if t.issue.result == .done && t.core.perf[18] != s.core.perf[18] then t.raiseNext cDEADLETTER 0 (.ofNat 32 (ltn % 4096))
    else .next t
  | r => r

/-- What the queue ports and the workspace ask of the head before it issues: an unbound port traps (01 R31), an
over-full assembly buffer traps (12 R303), a speculative task settles before it uses a port (09 R235), a poisoned register
line traps (17 R407), a queue or hold buffer that is not ready forfeits (01 R16), and a message completed for a dead
destination is dropped and traps (12 R300). -/
def portsReady (s : State) (os : List Opd) (k : Unit → Result) : Result :=
  let need := qiNeed os
  let push := qoPush os
  let reads := s.opdRanges (os.filter Opd.reads)
  let touched := s.opdRanges os
  let qiState : Option Bool := if need = 0 then some true else s.me.qi.map fun q => decide (need ≤ queueWords s.core.mq[q])
  let poisoned := reads.find? fun r => s.poisoned (s.key r.1) r.2
  match qiState, (if push = 0 then some (⟨0, 1, []⟩ : QoBinding) else s.me.qo) with
  | none, _ => s.raise cUNBOUND
  | _, none => s.raise cUNBOUND
  | some ready, some b =>
    let full := decide (64 < b.buf.length + push) && decide (push = 4)
    let forms := if push = 0 then 0 else (qoForms b push).1
    let dead := if forms = 0 then none else s.qoDead s.issue.slot
    if full then s.raise cRANGE
    else if (s.speculative s.issue.slot).isSome && decide (0 < need + push) then s.sleep .lowestKey
    else if let some r := poisoned then s.raise cPOISON (w64 r.1)
    else if !ready || (dead.isNone && decide (s.holdFree < forms)) || touched.any (fun r => s.payloadHeld r.1 r.2) then s.forfeit
    else match dead with
      | some l => s.afterDead l (k ())
      | none => k ()

/-- The checks of a head in the order of R77: ports and vector numbers, parity, formats (the offending codes), the
privilege of the mode, then the ports' own conditions. -/
def issueHead (s : State) (os : List Opd) (formats : List (BitVec 5 × Bool)) (privileged : Bool)
    (k : State → Result) (extra : Bool := true) : Result :=
  if os.any Opd.illegal || !extra then s.raiseDecode cILLEGAL
  else if parityClash os then s.raiseDecode cILLEGAL
  else match formats.find? fun f => !f.2 && !(s.me.emulate.isSome && decide (f.1.toNat < 16)) with
    | some f => s.raiseDecode cFORMAT (f.1.setWidth 32)
    | none =>
      if privileged && !s.me.priv then s.raiseDecode cPRIVILEGE
      else s.portsReady os fun _ => k s

/-! ## Reading and writing operands -/

/-- Read a scalar source; `qi` pops one word (01 R31). -/
def readW (s : State) (r : Reg) : Word × State :=
  if r == 30 then
    match s.me.qi with
    | some q => match popWords 1 s.core.mq[q] with
      | some (ws, m) => (ws.headD 0, { s with core := { s.core with mq := s.core.mq.set q m } })
      | none => (0, s)
    | none => (0, s)
  else (s.regW r.toNat, s)

/-- Four words as a vector, the first lowest (01 R31). -/
def vecOf (ws : List Word) : Vec := .ofNat 256 (leNat ((ws.map fun w => leBytes 8 w.toNat).flatten))

/-- Read a vector source; `qi` pops four words (01 R31). -/
def readV (s : State) (r : Reg) : Vec × State :=
  if r == 30 then
    match s.me.qi with
    | some q => match popWords 4 s.core.mq[q] with
      | some (ws, m) => (vecOf ws, { s with core := { s.core with mq := s.core.mq.set q m } })
      | none => (0, s)
    | none => (0, s)
  else (s.regV r.toNat, s)

/-- Send messages of L words off the front of an assembly buffer (12 R303); those for a destination that has EXITED are dead
letters, which take no SEQ (R300). -/
def formMessages (s : State) (ltn core q len : Nat) : Nat → List Word → List Word × State
  | 0, buf => (buf, s)
  | n + 1, buf =>
    let s := if (s.keyOf ltn).st == .exited then
        s.deadLetter s.core.num s.issue.slot.val (globalDest ltn core q) (SMap.getD s.tile.seqMsg ltn 0)
      else s.sendPacket ltn core (.message (.ofNat 3 q) (buf.take len)) s.me.strand
    formMessages s ltn core q len n (buf.drop len)

/-- Push words to `qo` (12 R303). The head has been seen to be ready for it. -/
def pushQo (s : State) (ws : List Word) : State :=
  match s.me.qo with
  | none => s
  | some b =>
    match s.destWord b.dest 3 with
    | none => s
    | some (ltn, core, q) =>
      let (buf, s) := formMessages s ltn core q b.len (qoForms b ws.length).1 (b.buf ++ ws)
      s.modMe fun x => { x with qo := some { b with buf := buf } }

/-- Write a scalar destination; `qo` pushes one word (01 R31). -/
def writeW (s : State) (r : Reg) (v : Word) : State :=
  if r == 31 then s.pushQo [v] else s.setW s.issue.slot r.toNat v

/-- The four words of a vector, lowest first. -/
def wordsOf (v : Vec) : List Word := [v.extractLsb' 0 64, v.extractLsb' 64 64, v.extractLsb' 128 64, v.extractLsb' 192 64]

/-- Write the bits of a mask of a vector destination. `qo` pushes four words (01 R31), disabled elements as zero (05
R124). -/
def writeV (s : State) (r : Reg) (v mask : Vec) : State :=
  if r == 31 then s.pushQo (wordsOf (v &&& mask))
  else s.setV s.issue.slot r.toNat v mask

/-! ## Windows -/

/-- Is a fifth window about to be opened (01 R21)? -/
def windowsFull (s : State) : Bool := decide (4 ≤ s.me.windows.length)

/-- Open the window of a long head whose result the caller brings at its arrival: LA heads, the bundle's own not counted
(01 R20). -/
def openWindow (s : State) (la : BitVec 4) (w : Window) : State :=
  let s := s.modMe fun x => { x with windows := x.windows ++ [{ w with tag := s.core.nextTag, left := la.toNat }] }
  { s with core := { s.core with nextTag := s.core.nextTag + 1 } }

/-- A window whose writes are known at issue and which arrive n cycles later (01 R20). A trap at its end reports the head
due, or, with `again`, takes the strand back to this head. -/
def longResult (s : State) (la : BitVec 4) (n : Nat) (writes : List WinWrite) (trap : Option Cause := none)
    (again : Bool := false) (acquire : Option Rect := none) : State :=
  let tag := s.core.nextTag
  let back := if again then some (s.issue.info.fpc, s.issue.foldBefore, s.me.loops) else none
  (s.openWindow la ⟨tag, 0, false, writes, .known, trap, s.issue.info, acquire, false, none, back⟩).after n
    (.longResultArrival s.issue.slot tag)

/-- Does a slot's strand, of that name, wait for an answer? -/
def awaits (s : State) (strand : Nat) (i : Fin 16) : Bool := (s.slot i).strand == strand && (s.slot i).wait == some .answer

/-- An answer arrives for a sleeping strand, in the slot it asked from or in the one to which a reload has brought it: its
registers are written and it is READY in the next cycle (11 R288, 13 R336); a parked or spilled strand has its wait complete
(16 R385, R390). -/
def answer (s : State) (i : Fin 16) (strand : Nat) (ws : List (Reg × Word)) : State :=
  let i := if s.awaits strand i then i else (allSlots.find? (s.awaits strand)).getD i
  if s.awaits strand i then
    let s := ws.foldl (fun s (r, v) => s.setW i r.toNat v) s
    s.modSlot i fun x => { x with
      wait := if x.st == .sleep then some (.cycle (s.tile.cycle + 1)) else none, waitFrom := none
      before := if x.st == .parked then .ready else x.before }
  else { s with core := { s.core with spilled := s.core.spilled.map fun (n, c) =>
    if c.slot.strand = strand ∧ c.slot.wait = some .answer then
      (n, { c with
        slot := { c.slot with wait := none, waitFrom := none, before := .ready }
        regs := ws.foldl (fun b (r, v) => b.take (8 * r.toNat) ++ leBytes 8 v.toNat ++ b.drop (8 * r.toNat + 8)) c.regs })
    else (n, c) } }

/-- Change the record of a strand, in its slot or spilled. -/
def modStrand (s : State) (strand : Nat) (f : Slot → Slot) : State :=
  let g (x : Slot) : Slot := if x.strand = strand ∧ x.st ≠ .empty then f x else x
  { s with core := { s.core with
    slots := s.core.slots.map g
    spilled := s.core.spilled.map fun (n, c) => (n, { c with slot := g c.slot }) } }

/-- Apply a write that the end of a window makes (01 R20). -/
def applyWrite (s : State) : WinWrite → State
  | .reg r v => s.writeW r v
  | .vec r v mask => s.writeV (.ofNat 5 r) v mask
  | .swSet mask v => s.setSw mask v
  | .swOr v => s.orSw v
  | .jfOr v => s.orJf v

/-- Change the window of a tag. -/
def modWindow (s : State) (i : Fin 16) (tag : Nat) (f : Window → Window) : State :=
  s.modSlot i fun x => { x with windows := x.windows.map fun w => if w.tag = tag then f w else w }

end State

/-- w28, which a head that may round stochastically reads unnamed (02 R55). -/
def drawOpd (sw : Word) : List Opd := if bits sw.toNat 23 21 = 4 then [(Opd.third 28).noPort] else []

/-- The mask of a scalar or vector lane enable: bit i of VM enables 32-bit lane i (01 R35). -/
def laneMask (vm : Byte) : Vec :=
  (List.range 8).foldl (fun m i => if vm.getLsbD i then m ||| ((0xFFFFFFFF : Vec) <<< (32 * i)) else m) 0

/-- The fields of `sw` (01 R35). -/
def swVM (sw : Word) : Byte := sw.extractLsb' 8 8
def swJO (sw : Word) : Nat := bits sw.toNat 20 16
def swRM (sw : Word) : Nat := bits sw.toNat 23 21
def swSUB (sw : Word) : Bool := sw.getLsbD 24
def swRIX (sw : Word) : Nat := bits sw.toNat 39 32
def swSKIP (sw : Word) : Nat := bits sw.toNat 41 40

/-- RIX as bits of `sw`. -/
def rixBits (n : Nat) : Word := w64 (n % 256 * 2 ^ 32)
def rixMask : Word := 0x000000FF00000000

end Sys2Proof.Machine
end

