-- ==== Sys2Proof/Machine/Fetch.lean ====
section
/-! DEFINITION. Instruction lines (03 R67 to R70), folds (03 R79), the loop buffer with its increments (04 R107 to
R111), and the head that a strand fetches. -/

namespace Sys2Proof.Machine

/-! ## Lines -/

/-- The fold after a head (03 R79). -/
def foldHead (s : Byte) (h : BitVec 16) : Byte := (s ^^^ h.extractLsb' 8 8).rotateLeft 1 ^^^ h.extractLsb' 0 8

/-- The halfwords of a number, lowest first, as one value. -/
def halfwords : List (BitVec 16) → Nat
  | [] => 0
  | h :: hs => h.toNat + 2 ^ 16 * halfwords hs

/-- The heads of a line with their tails found from the top down, and the lowest halfword that a tail takes; none when
a tail would reach below the header (03 R67). -/
def scanHeads (base : Nat) (hws : List (BitVec 16)) : List (BitVec 16) → Nat → Nat → Bool →
    Option (List LineHead × Nat)
  | [], _, top, _ => some ([], top)
  | h :: hs, i, top, second =>
    let n := tailLen h
    if top < n then none
    else
      let tail : Word := .ofNat 64 (halfwords ((hws.drop (top - n)).take n))
      let next := if hs.isEmpty then base + 64 + 2 else base + 2 * (i + 1)
      match scanHeads base hws hs (i + 1) (top - n) (h.getLsbD 15 && !second) with
      | none => none
      | some (rest, t) => some (⟨.ofNat 22 (base + 2 * i), h, tail, .ofNat 22 next, second⟩ :: rest, t)

/-- The heads of the line that begins at a code address, when it passes the line checks (03 R67). -/
def lineHeads (base : Nat) (hws : List (BitVec 16)) : Option (List LineHead) :=
  let h0 := (hws.headD 0).toNat
  let n := h0 / 2048
  if n = 0 ∨ h0 % 2048 ≠ 0 then none
  else match scanHeads base hws ((hws.drop 1).take n) 1 32 false with
    | none => none
    | some (hs, top) =>
      if top < n + 1 ∨ ((hws.drop (n + 1)).take (top - n - 1)).any (· ≠ 0) then none else some hs

/-- The thirty-two halfwords of the line at a key. -/
def lineAt (m : List Host.Cell) (k : Nat) : List (BitVec 16) :=
  (List.range 32).map fun i => .ofNat 16 (natAt m (k + 2 * i) 2)

/-- N of a line (03 R65). -/
def headCount (hws : List (BitVec 16)) : Nat := (hws.headD 0).toNat / 2048

/-- What a fetch gives. -/
inductive Fetch where
  | head (h : LineHead) (s : State)
  | trap (c : Cause)
  | waking (bank : Fin 3)

/-- The captured head at a code address: that of the innermost loop whose body holds it (04 R108). -/
def bufferedHead (ls : List Loop) (pc : BitVec 22) : Option LineHead :=
  ls.reverse.findSome? fun l => l.body.find? fun h => h.pc == pc

namespace State

/-- Fetch the head at a code address for a slot: from its loop buffer, from the line that it stands in, or from a line
that it now enters, which is a slice read (03 R69, R70, R77 checks 1 and 2; 01 R25, R33; 17 R407). The head index is checked
before the line where the address has been produced, and not reached by falling into the line (R69). -/
def fetchHead (s : State) (i : Fin 16) (pc : BitVec 22) : Fetch :=
  match bufferedHead (s.slot i).loops pc with
  | some h => .head h s
  | none =>
    let base := pc.toNat / 64 * 64
    if pc.getLsbD 0 || decide (s.rim.visibleTop ≤ pc.toNat) then .trap ⟨cTARGET, 0, 0⟩
    else
      let entered := match (s.slot i).line with
        | some (a, hws) => if a.toNat = base then some hws else none
        | none => none
      let index := pc.toNat / 2 % 32
      let within (s : State) (produced : Bool) (hws : List (BitVec 16)) : Fetch :=
        if index = 0 ∨ (headCount hws < index ∧ (produced ∨ headCount hws ≠ 0)) then .trap ⟨cTARGET, 0, 0⟩
        else match lineHeads base hws with
        | none => .trap ⟨cILLEGAL, 0, 0⟩
        | some hs =>
          match hs.find? fun h => h.pc == pc with
          | none => .trap ⟨cTARGET, 0, 0⟩
          | some h => .head h s
      match entered with
      | some hws => within s false hws
      | none =>
        match s.bankCheck base 64 with
        | some (.trap c) => .trap ⟨c, 0, 0⟩
        | some (.waking b) => .waking b
        | _ =>
          if s.poisoned (s.key base) 64 then .trap ⟨cPOISON, 0, w64 base⟩
          else
            let hws := lineAt s.rdMem (s.key base)
            within ((s.countReads 1).modSlot i fun x => { x with line := some (.ofNat 22 base, hws) })
              (s.slot i).line.isNone hws

/-! ## Loops -/

end State

/-- A signed five-bit step of an increment halfword (03 R91). DESIGN CHOICE (log entry 46): bit 0 of the halfword, which is
zero, is ignored. -/
def stepOf (inc : BitVec 16) (lo : Nat) : Int := signed 5 (bits inc.toNat (lo + 4) lo)

/-- The summed steps of the live loops whose body holds a head: for d, a and b (04 R110). -/
def loopSteps (ls : List Loop) (pc : BitVec 22) : Int × Int × Int :=
  ls.foldl (fun (d, a, b) l =>
    match l.body.findIdx? fun h => h.pc == pc with
    | none => (d, a, b)
    | some j =>
      let inc := l.inc.getD j 0
      (d + l.pass * stepOf inc 11, a + l.pass * stepOf inc 6, b + l.pass * stepOf inc 1)) (0, 0, 0)

/-- Add a step to a field of a tail: modulo 4 for a tile number, otherwise none outside 0 to 31 (04 R110). -/
def stepField (tail : Word) (pos : Option Nat) (tile : Bool) (n : Int) : Option Word :=
  match pos with
  | none => if n = 0 then some tail else none
  | some p =>
    let w := if tile then 2 else 5
    let f := bits tail.toNat (p + w - 1) p
    let v : Int := if tile then (f + n) % 4 else f + n
    if v < 0 ∨ 31 < v then none else some (w64 (tail.toNat - f * 2 ^ p + v.toNat * 2 ^ p))

/-- The instruction that a head is on this pass, and what the loops add to the address of its memory operand. -/
noncomputable def effective (ls : List Loop) (h : LineHead) : Decoded × Int :=
  let raw := decode ⟨h.head, h.tail⟩
  match raw with
  | .illegal e => (.illegal e, 0)
  | .ok _ =>
    let f := stepFields h.head h.tail
    let (d, a, b) := loopSteps ls h.pc
    if d = 0 ∧ a = 0 ∧ b = 0 then (raw, 0)
    else
      let address := if f.mem = 0 then 0 else a
      let a := if f.mem = 0 then a else 0
      let tail := ((stepField h.tail f.d f.tile d).bind (stepField · f.a false a)).bind (stepField · f.b false b)
      match tail with
      | none => (.illegal .reservedValue, 0)
      | some t => (decode ⟨h.head, t⟩, address * f.mem)

/-- The loops after a head has issued or been annulled, and the head after it (04 R109). Loops are listed outermost
first. -/
def loopUpdate (ls : List Loop) (pc next : BitVec 22) : List Loop × BitVec 22 :=
  go ls.reverse
where
  go : List Loop → List Loop × BitVec 22
    | [] => ([], next)
    | l :: rest =>
      match l.body.getLast? with
      | none => ((l :: rest).reverse, next)
      | some h =>
        if h.pc ≠ pc then ((l :: rest).reverse, next)
        else if 1 < l.left then
          (({ l with left := l.left - 1, pass := l.pass + 1 } :: rest).reverse, (l.body.headD h).pc)
        else go rest

/-- The SIGB that the fold is compared with after a head: that of the innermost loop whose pass ends there (03 R81). -/
def bodyEndSig (ls : List Loop) (pc : BitVec 22) : Option Byte :=
  match ls.getLast? with
  | none => none
  | some l => match l.body.getLast? with
    | some h => if h.pc = pc then some l.sigb else none
    | none => none

/-- Does a head need a step that its operands cannot take (04 R108)? -/
def stepUnused (f : StepFields) (inc : BitVec 16) : Bool :=
  (stepOf inc 11 != 0 && f.d.isNone) || (stepOf inc 6 != 0 && f.a.isNone) || (stepOf inc 1 != 0 && f.b.isNone)

end Sys2Proof.Machine
end

