-- ==== Sys2Proof/Machine/Flags.lean ====
section
/-! DEFINITION. The condition flags: what additions, subtractions, tests and floating comparisons set (04 R94, R97,
R103), and the condition codes on them (04 R97). -/

namespace Sys2Proof.Machine

/-- N, Z, C and V. -/
structure NZCV where
  n : Bool
  z : Bool
  c : Bool
  v : Bool
deriving DecidableEq, Repr

/-- a + b + carry with its flags (04 R94). -/
def addFlags (a b : Word) (c : Bool) : Word × NZCV :=
  let r := a + b + (if c then 1 else 0)
  (r, ⟨r.msb, r == 0, decide (2 ^ 64 ≤ a.toNat + b.toNat + c.toNat), a.msb == b.msb && r.msb != a.msb⟩)

/-- a − b as a + NOT b + 1 with its flags (04 R94). -/
def subFlags (a b : Word) : Word × NZCV := addFlags a (~~~b) true

/-- The flags of `TST` (04 R103). -/
def tstFlags (a b : Word) : NZCV := ⟨(a &&& b).msb, a &&& b == 0, false, false⟩

/-- The flags of `FCMP` for an ordered relation, or none when an operand is NaN (04 R97). -/
def relFlags : Option Ordering → NZCV
  | some .lt => ⟨true, false, false, false⟩
  | some .eq => ⟨false, true, true, false⟩
  | some .gt => ⟨false, false, true, false⟩
  | none => ⟨false, false, false, false⟩

/-- A condition code on the flags (04 R97). -/
def NZCV.holds (f : NZCV) (cc : BitVec 3) : Bool :=
  match cc.toNat with
  | 0 => f.z
  | 1 => !f.z
  | 2 => f.n != f.v
  | 3 => f.z || f.n != f.v
  | 4 => !f.c
  | _ => !f.c || f.z

/-- The flags in `sw` (01 R35). -/
def flagsOf (sw : Word) : NZCV := ⟨sw.getLsbD 3, sw.getLsbD 2, sw.getLsbD 1, sw.getLsbD 0⟩

namespace State

def setFlags (s : State) (f : NZCV) : State := s.setNZCV f.n f.z f.c f.v

/-- Write the flags of a compare and, when its condition holds, the pending skip count (04 R103). -/
def compare (s : State) (f : NZCV) (k : BitVec 2) (cc : BitVec 3) : State :=
  let s := s.setFlags f
  if f.holds cc && k != 0 then s.setSw 0x0000030000000000 (w64 (k.toNat * 2 ^ 40)) else s

end State

end Sys2Proof.Machine
end

