-- ==== Sys2Proof/Machine/Control.lean ====
section
/-! DEFINITION. Transfers, `NOP` and loops (04 R104 to R109). -/

namespace Sys2Proof.Machine

namespace State

/-- A transfer: the strand goes on at a code address and enters its line anew (03 R70). -/
def jump (s : State) (pc : BitVec 22) : State := s.modMe fun x => { x with pc := pc, line := none }

/-- A register target: bits above a code address, or bit 0, raise BAD_TARGET (04 R105, 03 R69). -/
def badTarget (w : Word) : Bool := bits w.toNat 63 22 != 0 || w.getLsbD 0

/-- A target with head index 0, or with one above the N of its line (03 R69). A line above the visible top, in a bank that is
not ACTIVE, or poisoned gives its own trap when it is fetched (01 R33, 17 R407). -/
def badIndex (s : State) (pc : BitVec 22) : Bool :=
  let base := pc.toNat / 64 * 64
  let index := pc.toNat / 2 % 32
  index == 0 || (decide (pc.toNat < s.rim.visibleTop) && (s.bankCheck base 64).isNone && !s.poisoned (s.key base) 64
    && decide (headCount (lineAt s.rdMem (s.key base)) < index))

/-- A transfer is taken, in the state t: a head index that the target line does not have raises BAD_TARGET on the
transfer, which then has no effect (03 R69). -/
def goTo (s t : State) (pc : BitVec 22) : Result := if s.badIndex pc then s.raise cTARGET else .next (t.jump pc)

/-- A transfer to an immediate target, whose bit 0 must be zero (03 R69). -/
def transfer (s : State) (os : List Opd) (tgt : BitVec 22) (k : State → Result) : Result :=
  s.issueHead os [] false k (extra := !tgt.getLsbD 0)

/-- The heads of a body of n heads from a code address on (04 R107), and the state with the last of their lines entered:
the strand executes heads of it (03 R70). -/
def bodyHeads (s : State) (i : Fin 16) : Nat → BitVec 22 → Except (Cause ⊕ Fin 3) (List LineHead × State)
  | 0, _ => .ok ([], s)
  | n + 1, pc =>
    match s.fetchHead i pc with
    | .trap c => .error (.inl c)
    | .waking b => .error (.inr b)
    | .head h t => (bodyHeads t i n h.next).map fun (hs, t) => (h :: hs, t)

/-- Does an inner loop's body reach beyond the body that holds it (04 R108)? A loop that stands first in a pair has its
partner before its body. -/
def innerBeyond : List LineHead → Bool
  | [] => false
  | h :: hs =>
    (match loopLen h.head h.tail with
      | some n => decide (hs.length < (if h.head.getLsbD 15 && !h.second then 1 else 0) + n + 1)
      | none => false) || innerBeyond hs

/-- The checks of a capture (04 R108). -/
def bodyIllegal (body : List LineHead) (inc : List (BitVec 16)) : Bool :=
  (match body.getLast? with
    | some h => h.head.getLsbD 15 && !h.second
    | none => false)
  || body.any (fun h => bodyForbids h.head)
  || innerBeyond body
  || (body.zip inc).any fun (h, s) => stepUnused (stepFields h.head h.tail) s

/-- Issue a loop of `count` passes over the LEN + 1 heads after the bundle (04 R107, R108); `s` is the state before
the operands were read, `r` the one after. A step table in a payload line not yet moved forfeits (01 R16). -/
def startLoop (s r : State) (count : Nat) (sigb : Byte) (len : BitVec 5) (inc : BitVec 22) : Result :=
  if 0xFFFFFFFF < count then s.raise cLOOPCOUNT
  else match r.bodyHeads s.issue.slot (len.toNat + 1) s.issue.npc with
    | .error (.inl c) => s.raise c.code c.addr c.detail
    | .error (.inr b) => (s.startWake b).forfeit
    | .ok (body, r) =>
      if count = 0 then
        .next (r.modMe fun x => { x with pc := (body.getLast?.map (·.next)).getD x.pc })
      else
        let table : Except (Cause ⊕ Fin 3) (List (BitVec 16)) :=
          if inc = 0 then .ok (List.replicate 32 0)
          else match s.checkLocal (inc.setWidth 64) 64 64 with
            | .here off => if s.poisoned (s.key off) 64 then .error (.inl ⟨cPOISON, 0, w64 off⟩)
                           else .ok (lineAt s.rdMem (s.key off))
            | .trap c => .error (.inl ⟨c, 0, inc.setWidth 64⟩)
            | .waking b => .error (.inr b)
            | .remote .. => .error (.inl ⟨cADDRESS, 0, inc.setWidth 64⟩)
        let r := if inc = 0 then r else r.countReads 1
        if inc ≠ 0 ∧ s.payloadHeld inc.toNat 64 then s.forfeit
        else match table with
        | .error (.inl c) => s.raise c.code c.addr c.detail
        | .error (.inr b) => (s.startWake b).forfeit
        | .ok table =>
          if bodyIllegal body table then s.raise cILLEGAL
          else if 4 ≤ s.me.loops.length then s.raise cLOOPDEPTH
          else .next (r.modMe fun x => { x with loops := x.loops ++ [⟨body, count, 0, table, sigb⟩] })

end State

/-- Where `BR` and `BRC` go: a displacement from their own head (03 R71). -/
def branchTarget (s : State) (tgt : BitVec 22) : BitVec 22 := s.issue.info.fpc + tgt

def execBr (_ : Byte) (tgt : BitVec 22) (s : State) : Result :=
  s.transfer [] tgt fun s => s.goTo s (branchTarget s tgt)

/-- Transfers when the condition holds on the flags as they stand when the head issues (04 R97, R104). -/
def execBrc (cc : BitVec 3) (_ : Byte) (tgt : BitVec 22) (s : State) : Result :=
  s.transfer [] tgt fun s => if (flagsOf s.rdSw).holds cc then s.goTo s (branchTarget s tgt) else .next s

def execJmp (_ : Byte) (tgt : BitVec 22) (s : State) : Result := s.transfer [] tgt fun s => s.goTo s tgt

/-- The return register w29, which calls write unnamed. -/
def linkOpd : Opd := (Opd.dst 29).noPort

/-- Writes the return address, the head after the bundle, to w29 (04 R105). -/
def execCall (_ : Byte) (tgt : BitVec 22) (s : State) : Result :=
  s.transfer [linkOpd] tgt fun s => s.goTo (s.setW s.issue.slot 29 (s.issue.npc.setWidth 64)) tgt

def execCallr (_ : Byte) (a : Reg) (s : State) : Result :=
  s.issueHead [.src a, linkOpd] [] false fun s₁ =>
    let (x, s₂) := s₁.readW a
    if State.badTarget x then s.raise cTARGET
    else s.goTo (s₂.setW s₂.issue.slot 29 (s₂.issue.npc.setWidth 64)) (x.setWidth 22)

def execRet (_ : Byte) (a : Reg) (s : State) : Result :=
  s.issueHead [.src a] [] false fun s₁ =>
    let (x, s₂) := s₁.readW a
    if State.badTarget x then s.raise cTARGET else s.goTo s₂ (x.setWidth 22)

/-- Takes a turn and has no other effect (04 R106). -/
def execNop (s : State) : Result := s.issueHead [] [] false fun s => .next s

/-- INC must be a multiple of 64 (04 R107). -/
def execLoop (_ sigb : Byte) (a : Reg) (len : BitVec 5) (inc : BitVec 22) (s : State) : Result :=
  s.issueHead [.src a] [] false (extra := inc.toNat % 64 == 0) fun r =>
    let (x, r) := r.readW a
    s.startLoop r x.toNat sigb len inc

def execLoopi (_ sigb : Byte) (len : BitVec 5) (inc : BitVec 22) (cnt : BitVec 16) (s : State) : Result :=
  s.issueHead [] [] false (extra := inc.toNat % 64 == 0) fun r => s.startLoop r cnt.toNat sigb len inc

end Sys2Proof.Machine
end

