-- ==== Sys2Proof/Machine/Float.lean ====
section
/-! DEFINITION. Number formats and the single rounding (02 R38 to R60): exact values, formats by code, arithmetic on
exact values, rounding with its flags, conversions, and the key-hash generator. -/

namespace Sys2Proof.Machine

/-- An exact value: (−1)^neg × m × 2^e, an infinity or a NaN (02 R42). An inexact quotient, root or function value
carries its discarded part as a one in the lowest of many bits. -/
inductive Val where
  | nan
  | inf (neg : Bool)
  | fin (neg : Bool) (m : Nat) (e : Int)
deriving DecidableEq, Repr

/-- Flags FI, FZ, FO, FU and FX, most significant first: bits [29:25] of `sw` (01 R35). -/
abbrev FFlags := BitVec 5

abbrev fI : FFlags := 0b10000
abbrev fZ : FFlags := 0b01000
abbrev fO : FFlags := 0b00100
abbrev fU : FFlags := 0b00010
abbrev fX : FFlags := 0b00001

/-- Floating flags as bits of `sw`. -/
def swFlags (f : FFlags) : Word := (f.setWidth 64) <<< 25

/-- A floating format (02 R40). -/
structure Fmt where
  width : Nat
  ebits : Nat
  mbits : Nat
  bias : Nat
  /-- It has infinities. -/
  hasInf : Bool
  /-- R57 applies to it. -/
  flushable : Bool
  /-- Largest finite code, and canonical NaN (02 R42). -/
  maxCode : Nat
  nan : Nat
deriving DecidableEq, Repr

def fp32 : Fmt := ⟨32, 8, 23, 127, true, true, 0x7F7FFFFF, 0x7FC00000⟩
def fp16 : Fmt := ⟨16, 5, 10, 15, true, true, 0x7BFF, 0x7E00⟩
def bf16 : Fmt := ⟨16, 8, 7, 127, true, true, 0x7F7F, 0x7FC0⟩
def e4m3 : Fmt := ⟨8, 4, 3, 7, false, false, 0x7E, 0x7F⟩
def e5m2 : Fmt := ⟨8, 5, 2, 15, true, false, 0x7B, 0x7E⟩
def e2m1 : Fmt := ⟨4, 2, 1, 1, false, false, 0x7, 0x7⟩
def e8m0 : Fmt := ⟨8, 8, 0, 127, false, false, 0xFE, 0xFF⟩
def fp64 : Fmt := ⟨64, 11, 52, 1023, true, false, 0x7FEFFFFFFFFFFFFF, 0x7FF8000000000000⟩

/-- The format codes of floating formats (02 R43). -/
abbrev cFP32 : Nat := 8
abbrev cFP16 : Nat := 9
abbrev cBF16 : Nat := 10
abbrev cE4M3 : Nat := 11
abbrev cE5M2 : Nat := 12
abbrev cE2M1 : Nat := 13
abbrev cE8M0 : Nat := 14
abbrev cFP64 : Nat := 15

/-- The floating format of a code 0x08 to 0x0F (02 R43). -/
def fmtOf (c : Nat) : Fmt :=
  match c with
  | 8 => fp32 | 9 => fp16 | 10 => bf16 | 11 => e4m3 | 12 => e5m2 | 13 => e2m1 | 14 => e8m0 | _ => fp64

def isInt (c : Nat) : Bool := decide (c < 8)

/-- Bits of an element of a format (02 R38, R40). -/
def fmtWidth (c : Nat) : Nat := if c < 8 then 8 * 2 ^ (c % 4) else (fmtOf c).width

/-- Bits that a natural takes. -/
def bitLen (m : Nat) : Nat := if m = 0 then 0 else m.log2 + 1

/-- m × 2^n, n of either sign, rounded down. -/
def shiftBy (m : Nat) (n : Int) : Nat := if 0 ≤ n then m <<< n.toNat else m >>> (-n).toNat

/-- The value that a code of a format stands for (02 R40, R41). -/
def unpackF (c : Nat) (v : Nat) : Val :=
  if c < 8 then
    let i := if c < 4 then signed (fmtWidth c) v else ((v % 2 ^ fmtWidth c : Nat) : Int)
    .fin (decide (i < 0)) i.natAbs 0
  else
    let f := fmtOf c
    let v := v % 2 ^ f.width
    if c = cE8M0 then (if v = 255 then .nan else .fin false 1 ((v : Int) - 127))
    else
      let neg := v.testBit (f.width - 1)
      let e := bits v (f.width - 2) f.mbits
      let m := bits v (f.mbits - 1) 0
      if f.hasInf && e == 2 ^ f.ebits - 1 then (if m = 0 then .inf neg else .nan)
      else if c = cE4M3 ∧ e = 15 ∧ m = 7 then .nan
      else if e = 0 then .fin neg m (1 - f.bias - f.mbits)
      else .fin neg (m + 2 ^ f.mbits) (e - f.bias - f.mbits)

/-- Is a code a subnormal of its format? -/
def isSubnormal (c : Nat) (v : Nat) : Bool :=
  let f := fmtOf c
  decide (8 ≤ c) && c != cE8M0 && bits v (f.width - 2) f.mbits == 0 && bits v (f.mbits - 1) 0 != 0

/-- How a result is rounded: the mode of `sw`.RM, flush of subnormal results (SUB = 1), and the draw u (02 R50, R53). -/
structure Rnd where
  mode : Nat
  flush : Bool
  draw : Nat
deriving DecidableEq, Repr

/-- m × 2^e rounded to a multiple of 2^q, as a count of 2^q, and whether anything was discarded (02 R50, R53). -/
def roundAt (neg : Bool) (m : Nat) (e q : Int) (r : Rnd) : Nat × Bool :=
  if q ≤ e then (m <<< (e - q).toNat, false)
  else
    let sh := (q - e).toNat
    let hi := m >>> sh
    let rem := m % 2 ^ sh
    if rem = 0 then (hi, false)
    else
      let half := 2 ^ (sh - 1)
      let up := match r.mode with
        | 0 => decide (half < rem) || (rem == half && hi % 2 == 1)
        | 1 => false
        | 2 => !neg
        | 3 => neg
        | _ => decide (2 ^ 24 ≤ (rem <<< 24) >>> sh + r.draw % 2 ^ 24)
      (hi + up.toNat, true)

/-- The result of an overflow (02 R52). -/
def overflowed (f : Fmt) (neg : Bool) (mode : Nat) : Nat :=
  let inf := (2 ^ f.ebits - 1) <<< f.mbits
  let mag := if !f.hasInf then f.maxCode
    else match mode with
      | 1 => f.maxCode
      | 2 => if neg then f.maxCode else inf
      | 3 => if neg then inf else f.maxCode
      | _ => inf
  mag + neg.toNat <<< (f.width - 1)

/-- The float to E8M0 row of R59. DESIGN CHOICE (log entry 46): an integer takes this row too, so that 0 and a negative integer
give 0xFF with FI. -/
def roundE8M0 (r : Rnd) (neg : Bool) (m : Nat) (e : Int) : Nat × FFlags :=
  if neg ∨ m = 0 then (0xFF, fI)
  else
    let L := bitLen m
    let x : Int := e + L - 1
    let frac := m - 2 ^ (L - 1)
    let up := frac != 0 && (match r.mode with
      | 0 => decide (2 ^ L < 4 * frac) || (4 * frac == 2 ^ L && decide ((x + 127) % 2 = 1))
      | 2 => true
      | 1 | 3 => false
      | _ => decide (2 ^ 24 ≤ (frac <<< 24) >>> (L - 1) + r.draw % 2 ^ 24))
    let code : Int := x + 127 + up.toNat
    if code < 0 then (0, fU ||| fX)
    else if 0xFE < code then ((if r.mode = 1 ∨ r.mode = 3 then 0xFE else 0xFF), fO ||| fX)
    else (code.toNat, if frac = 0 then 0 else fX)

/-- The float to integer row of R59. -/
def roundInt (c : Nat) (r : Rnd) (v : Val) : Nat × FFlags :=
  let n := fmtWidth c
  let lo : Int := if c < 4 then -(2 ^ (n - 1) : Nat) else 0
  let hi : Int := if c < 4 then (2 ^ (n - 1) : Nat) - 1 else (2 ^ n : Nat) - 1
  match v with
  | .nan => (0, fI)
  | .inf neg => (wrap n (if neg then lo else hi), fI)
  | .fin neg m e =>
    let (q, x) := roundAt neg m e 0 r
    let i : Int := if neg then -q else q
    if hi < i then (wrap n hi, fI) else if i < lo then (wrap n lo, fI) else (wrap n i, if x then fX else 0)

/-- The single rounding of a value to a floating format, with the flags it raises (02 R50 to R53, R57, R59). -/
def roundF (c : Nat) (r : Rnd) (v : Val) : Nat × FFlags :=
  let f := fmtOf c
  let sb (neg : Bool) : Nat := neg.toNat <<< (f.width - 1)
  match v with
  | .nan => (f.nan, if c = cE2M1 ∨ c = cE8M0 then fI else 0)
  | .inf neg =>
    if c = cE8M0 then (0xFF, fI)
    else if c = cE4M3 then (f.nan, fI)
    else if c = cE2M1 then (7 + sb neg, fI)
    else ((2 ^ f.ebits - 1) <<< f.mbits + sb neg, 0)
  | .fin neg m e =>
    if c = cE8M0 then roundE8M0 r neg m e
    else if m = 0 then (sb neg, 0)
    else
      let x : Int := e + bitLen m - 1
      let emin : Int := 1 - f.bias
      -- with unbounded exponent: overflow and tininess
      let u := (roundAt neg m e (x - f.mbits) r).1
      let ux : Int := x - f.mbits + bitLen u - 1
      let big := unpackF c f.maxCode
      let tooBig := match big with
        | .fin _ bm be => decide (shiftBy bm (be - (x - f.mbits)) < u) && decide (0 ≤ be - (x - f.mbits))
            || decide (be - (x - f.mbits) < 0 ∧ bm < shiftBy u ((x - f.mbits) - be))
        | _ => false
      if tooBig then (overflowed f neg r.mode, fO ||| fX)
      else
        let q : Int := (if x < emin then emin else x) - f.mbits
        let (d, inexact) := roundAt neg m e q r
        let fl : FFlags := if inexact then (if ux < emin then fU ||| fX else fX) else 0
        if d = 0 then (sb neg, fl)
        else
          let dx : Int := q + bitLen d - 1
          if dx < emin then
            if r.flush && f.flushable then (sb neg, fl ||| fU ||| fX) else (sb neg + d, fl)
          else
            let man := shiftBy d (q - (dx - f.mbits)) - 2 ^ f.mbits
            (sb neg + (dx + f.bias).toNat <<< f.mbits + man, fl)

/-- A result in any format. -/
def roundTo (c : Nat) (r : Rnd) (v : Val) : Nat × FFlags := if c < 8 then roundInt c r v else roundF c r v

/-- The code of a value that the format holds exactly. -/
def exactly (c : Nat) (v : Val) : Nat := (roundF c ⟨0, false, 0⟩ v).1

/-! ## Arithmetic on exact values (02 R42, R51) -/

namespace Val

def neg : Val → Val
  | .nan => .nan
  | .inf n => .inf !n
  | .fin n m e => .fin (!n) m e

def abs : Val → Val
  | .nan => .nan
  | .inf _ => .inf false
  | .fin _ m e => .fin false m e

def isNan : Val → Bool
  | .nan => true
  | _ => false

def isNeg : Val → Bool
  | .nan => false
  | .inf n => n
  | .fin n _ _ => n

def isZero : Val → Bool
  | .fin _ 0 _ => true
  | _ => false

/-- The signed integer that a finite value is of 2^q, q at most its exponent. -/
def scaled (neg : Bool) (m : Nat) (e q : Int) : Int :=
  let v : Int := (m <<< (e - q).toNat : Nat)
  if neg then -v else v

/-- Sum with the sign rule of exact zeros (02 R42). -/
def add (mode : Nat) : Val → Val → Val × FFlags
  | .nan, _ => (.nan, 0)
  | _, .nan => (.nan, 0)
  | .inf a, .inf b => if a = b then (.inf a, 0) else (.nan, fI)
  | .inf a, _ => (.inf a, 0)
  | _, .inf b => (.inf b, 0)
  | .fin na ma ea, .fin nb mb eb =>
    let q := if ea ≤ eb then ea else eb
    let v := scaled na ma ea q + scaled nb mb eb q
    if v = 0 then
      (.fin (if ma = 0 ∧ mb = 0 ∧ na = nb then na else mode == 3) 0 q, 0)
    else (.fin (decide (v < 0)) v.natAbs q, 0)

def mul : Val → Val → Val × FFlags
  | .nan, _ => (.nan, 0)
  | _, .nan => (.nan, 0)
  | .inf a, .inf b => (.inf (a != b), 0)
  | .inf a, .fin b m _ => if m = 0 then (.nan, fI) else (.inf (a != b), 0)
  | .fin a m _, .inf b => if m = 0 then (.nan, fI) else (.inf (a != b), 0)
  | .fin a m e, .fin b n g => (.fin (a != b) (m * n) (e + g), 0)

/-- a × b + c with one rounding to come; an invalid product is invalid whatever the addend (02 R42). -/
def fma (mode : Nat) (a b c : Val) : Val × FFlags :=
  let (p, f) := mul a b
  if f = 0 then add mode p c else (.nan, f)

/-- Quotient, with at least 64 bits (02 R51). -/
def div : Val → Val → Val × FFlags
  | .nan, _ => (.nan, 0)
  | _, .nan => (.nan, 0)
  | .inf _, .inf _ => (.nan, fI)
  | .inf a, .fin b _ _ => (.inf (a != b), 0)
  | .fin a _ _, .inf b => (.fin (a != b) 0 0, 0)
  | .fin a m e, .fin b n g =>
    if n = 0 then (if m = 0 then (.nan, fI) else (.inf (a != b), fZ))
    else
      let s := 66 + bitLen n
      let q := (m <<< s) / n
      let sticky := if (m <<< s) % n = 0 then 0 else 1
      (.fin (a != b) (2 * q + sticky) (e - g - s - 1), 0)

/-- Integer square root of a number below 4^k. -/
def isqrt (n : Nat) : Nat → Nat → Nat
  | 0, r => r
  | k + 1, r => isqrt n k (if (r + 2 ^ k) * (r + 2 ^ k) ≤ n then r + 2 ^ k else r)

/-- Square root, with at least 66 bits; √−0 = −0 (04 R113). -/
def sqrt : Val → Val × FFlags
  | .nan => (.nan, 0)
  | .inf n => if n then (.nan, fI) else (.inf false, 0)
  | .fin n m e =>
    if m = 0 then (.fin n 0 0, 0)
    else if n then (.nan, fI)
    else
      let s := 134 + (if (e % 2 = 0) then 0 else 1)
      let w := m <<< s
      let r := isqrt w ((bitLen w + 1) / 2) 0
      (.fin false (2 * r + (if r * r = w then 0 else 1)) ((e - s) / 2 - 1), 0)

/-- Order of two values, none with a NaN; zeros compare equal (02 R42). -/
def cmp : Val → Val → Option Ordering
  | .nan, _ => none
  | _, .nan => none
  | .inf a, .inf b => some (if a = b then .eq else if a then .lt else .gt)
  | .inf a, _ => some (if a then .lt else .gt)
  | _, .inf b => some (if b then .gt else .lt)
  | .fin na ma ea, .fin nb mb eb =>
    let q := if ea ≤ eb then ea else eb
    some (compare (scaled na ma ea q) (scaled nb mb eb q))

/-- The lesser (or greater) of two values with −0 below +0 and NaN as absence (04 R114). -/
def pickMin (max : Bool) (a b : Val) : Val :=
  match cmp a b with
  | none => if a.isNan then b else a
  | some .eq => if a.isNeg == !max then a else b
  | some o => if (o == .lt) == !max then a else b

end Val

/-! ## Operands and conversions -/

/-- A floating operand under R57: its value and FU when it is flushed; none raises SUBNORMAL_OPERAND. -/
def operandF (c : Nat) (sub : Bool) (v : Nat) : Option (Val × FFlags) :=
  if 8 ≤ c ∧ (fmtOf c).flushable ∧ isSubnormal c v then
    if sub then some (.fin ((v % 2 ^ fmtWidth c).testBit (fmtWidth c - 1)) 0 0, fU) else none
  else some (unpackF c v, 0)

/-- The integer to integer row of R59, for an integer that a source format holds or that a scale has made of one (log
entry 24): a widening keeps the bits of a negative value in a natural destination, what lies outside the destination
saturates, and no flag is raised (02 R38). DESIGN CHOICE (log entry 24): formats of one width saturate as a narrowing
does. -/
def intToInt (src dst : Nat) (i : Int) : Nat :=
  let n := fmtWidth dst
  let lo : Int := if dst < 4 ∨ fmtWidth src < n then -(2 ^ (n - 1) : Nat) else 0
  let hi : Int := if dst < 4 then (2 ^ (n - 1) : Nat) - 1 else (2 ^ n : Nat) - 1
  if lo ≤ i ∧ i ≤ hi then wrap n i
  else if hi < i then wrap n hi else wrap n (if dst < 4 then lo else 0)

/-- The conversion table (02 R59): result and flags; none raises SUBNORMAL_OPERAND. -/
def convert (src dst : Nat) (sub : Bool) (r : Rnd) (v : Nat) : Option (Nat × FFlags) :=
  match operandF src sub v with
  | none => none
  | some (x, fl) =>
    if src = dst then
      some (if src < 8 then v % 2 ^ fmtWidth src else match x with
        | .nan => (fmtOf src).nan
        | .fin neg 0 _ => if src = cE8M0 then v % 256 else neg.toNat <<< ((fmtOf src).width - 1)
        | _ => v % 2 ^ fmtWidth src, fl)
    else if src < 8 ∧ dst < 8 then
      match x with
      | .fin neg m _ => some (intToInt src dst (if neg then -m else m), 0)
      | _ => some (0, 0)
    else
      let (o, g) := roundTo dst r x
      some (o, fl ||| g)

/-! ## The key-hash generator (02 R56) -/

def keyHashRound (seed : BitVec 128) (i : Nat) (ab : Word × Word) : Word × Word :=
  let rot := [23, 41, 17, 37, 29, 11].getD i 0
  let k : Word := if i % 2 = 0 then seed.extractLsb' 0 64 else seed.extractLsb' 64 64
  let a := (ab.1 + (k ^^^ ((0x9E3779B97F4A7C15 : Word) * .ofNat 64 (i + 1)))) * 0xD6E8FEB86659FD93
  let b := (ab.2 ^^^ a).rotateLeft rot
  (a ^^^ (b >>> 29), b)

def keyHash (seed : BitVec 128) (index : Word) : Word :=
  let ab := [0, 1, 2, 3, 4, 5].foldl (fun ab i => keyHashRound seed i ab)
    (index, seed.extractLsb' 64 64 ^^^ index.rotateLeft 32)
  ab.1 ^^^ ab.2.rotateLeft 32

namespace State

/-- The stochastic seed as the head reads it (01 R19, 02 R54). -/
def seed (s : State) : BitVec 128 :=
  match s.issue.snap with
  | some p => p.sseed1 ++ p.sseed0
  | none => s.core.sseed1 ++ s.core.sseed0

/-- How element j of a result is rounded (02 R50, R53, R55, R57). -/
def rnd (s : State) (j : Nat) : Rnd :=
  let mode := swRM s.rdSw
  ⟨mode, swSUB s.rdSw,
    if mode = 4 then (keyHash s.seed (s.regW 28 + .ofNat 64 j)).toNat % 2 ^ 24 else 0⟩

end State

end Sys2Proof.Machine
end

