-- ==== Sys2Proof/Machine/Access.lean ====
section
/-! DEFINITION. A strand's accesses to the SRAM: bank arbitration and the droop governor (01 R17, R25), stamped tasks'
buffers and read sets (09 R233, R234), acquires (08 R199) and the local or remote way an access takes (08 R195, R196). -/

namespace Sys2Proof.Machine

/-- May an access of the issuing strand be granted in this cycle? -/
inductive Grant where
  | ok (s : State)
  | forfeit
  | bubble

namespace State

/-- Reads of the preceding sixteen cycles (01 R25). -/
def recentReads (s : State) : Nat := ((s.core.reads.drop 1).take 16).sum

/-- WMAX as the governor takes it: 0 no limit, 1 to 47 as 48 (01 R26). -/
def wmax (s : State) : Nat :=
  let w := bits s.core.droop.toNat 15 8
  if w = 0 then 0 else if w < 48 then 48 else w

/-- Would n more reads go over RMAX or WMAX (01 R25)? -/
def readsExceed (s : State) (n : Nat) : Bool :=
  decide (bits s.core.droop.toNat 1 0 < s.core.reads.headD 0 + n)
    || (s.wmax != 0 && decide (s.wmax < s.recentReads + n))

/-- The issuing strand's access to its own slice: it loses to every agent served before it (01 R16, R17), and a read may
cost a bubble (01 R25). -/
def grant (s : State) (off : Nat) (read : Bool) : Grant :=
  if read && s.readsExceed 1 then .bubble
  else if s.bankBusy off then .forfeit
  else .ok (if read then (s.serve off).countReads 1 else s.serve off)

/-! ## Stamped tasks -/

/-- Bytes from a key as a task sees them: its own buffered bytes over those at the performing point (09 R234). -/
def overlay (t : Task) (m : List Host.Cell) (k : Nat) : Nat → List Byte
  | 0 => []
  | n + 1 =>
    (match SMap.find (k / 64) t.lines with
      | some l => if l.mask.getD (k % 64) false then l.data.getD (k % 64) 0 else SMap.getD m k 0
      | none => SMap.getD m k 0) :: overlay t m (k + 1) n

/-- Does a speculative task of a lower key than a slot's buffer a line (09 R234)? -/
def lowerBuffersOf (s : State) (slot : Fin 16) (line : Nat) : Bool :=
  match s.speculative slot with
  | none => false
  | some t => allSlots.any fun i => i != slot && (match s.speculative i with
    | some u => u.key.lt t.key && (SMap.find line u.lines).isSome
    | none => false)

/-- The same for the issuing strand. -/
def lowerBuffers (s : State) (line : Nat) : Bool := s.lowerBuffersOf s.issue.slot line

/-- Bytes from a key as a slot's strand sees them. -/
def seenBy (s : State) (i : Fin 16) (m : List Host.Cell) (k n : Nat) : List Byte :=
  match s.speculative i with
  | none => bytesAt m k n
  | some t => overlay t m k n

/-- Lines held in the tile's speculative store buffer of 2,048 (09 R233). -/
def bufferedLines (s : State) : Nat :=
  allSlots.foldl (fun n i => n + (match s.speculative i with
    | some t => t.lines.length
    | none => 0)) 0

/-- Change the task of a slot. -/
def modTask (s : State) (i : Fin 16) (f : Task → Task) : State := s.modSlot i fun x => { x with task := x.task.map f }

/-- A line joins the read set of a slot's speculative task (09 R233). -/
def readBy (s : State) (i : Fin 16) (line : Nat) : State :=
  if (s.speculative i).isSome then
    s.modTask i fun t => if t.reads.contains line then t else { t with reads := t.reads ++ [line] }
  else s

/-- The bytes that a load of a slot's strand returns; a speculative task reads its own buffer, and the line joins its
read set (09 R233, R234). -/
def loadOf (s : State) (i : Fin 16) (k n : Nat) : List Byte × State :=
  match s.speculative i with
  | none => (bytesAt s.rdMem k n, s)
  | some t => (overlay t s.rdMem k n, (s.readBy i (k / 64)).readBy i ((k + n - 1) / 64))

/-- A load of the issuing strand. -/
def loadBytes (s : State) (k n : Nat) : List Byte × State := s.loadOf s.issue.slot k n

/-- Merge bytes of an enabled mask into a buffered line. -/
def mergeLine (l : SpecLine) (at_ : Nat) (data : List (Bool × Byte)) : SpecLine :=
  let pick (i : Nat) : Bool × Byte := if at_ ≤ i ∧ i < at_ + data.length then data.getD (i - at_) (false, 0) else (false, 0)
  { mask := (List.range 64).map fun i => (pick i).1 || l.mask.getD i false
    data := (List.range 64).map fun i => if (pick i).1 then (pick i).2 else l.data.getD i 0 }

/-- A store of a slot's strand to its own tile: it performs, or a speculative task buffers it, which conflicts with
readers of higher keys (09 R233, R234). Bytes that are not enabled are left alone. -/
def storeOf (s : State) (i : Fin 16) (k : Nat) (data : List (Bool × Byte)) : State :=
  match s.speculative i with
  | none => s.writeLanes (some i) k data
  | some t =>
    let line := k / 64
    let old := (SMap.find line t.lines).getD ⟨[], []⟩
    (s.modTask i fun t => { t with lines := SMap.put line (mergeLine old (k % 64) data) t.lines }).conflict (some i) line

/-- A store of the issuing strand. -/
def storeBytes (s : State) (k : Nat) (data : List (Bool × Byte)) : State := s.storeOf s.issue.slot k data

/-- Has the tile's buffer no line for a speculative store of a slot (09 R233, R235)? -/
def bufferFullFor (s : State) (i : Fin 16) (line : Nat) : Bool :=
  match s.speculative i with
  | none => false
  | some t => (SMap.find line t.lines).isNone && decide (2048 ≤ s.bufferedLines)

def bufferFull (s : State) (line : Nat) : Bool := s.bufferFullFor s.issue.slot line

/-- Is the issuing strand a speculative task? -/
def isSpeculative (s : State) : Bool := (s.speculative s.issue.slot).isSome

/-- An instruction that cannot be undone waits until its task is settled (09 R235); others go on. -/
def settledOr (s : State) (k : Unit → Result) : Result :=
  if s.isSpeculative then s.sleep .lowestKey else k ()

/-! ## Requests -/

/-- Does an open `LDA` window whose value has not arrived cover a tile (08 R199)? -/
def acquiring (s : State) (ltn : Nat) : Bool :=
  s.me.windows.any fun w => !w.arrived && (match w.acquire with
    | some r => inRect r ltn
    | none => false)

/-- A request of the issuing slot. -/
def request (s : State) (ltn core off : Nat) (kind : ReqKind) (data : List Word) (cmp : Word := 0) : Req :=
  ⟨s.core.ltn, s.core.num, s.issue.slot.val, ltn, core, 0, kind, .ofNat 22 off, data, cmp, false, none, s.core.nextTag⟩

/-- Issue a remote read: its window opens and the reply ends it (01 R20). -/
def remoteRead (s₀ s : State) (la : BitVec 4) (q : Req) (dest : Dest) (acquire : Option Rect := none) : Result :=
  if s₀.windowsFull then s₀.raise cWINDOW
  else
    let t := s.openWindow la ⟨0, 0, false, [], dest, none, s.issue.info, acquire, false, none, none⟩
    .next (t.sendReq q s.me.strand s.issue.info)

/-- The checks that an access passes before it takes the local or the remote way: R189 with its trap, an open acquire,
and for one that reads a lower key's buffered line (09 R234). `own` is given the offset in the own slice; `far` a remote
target. -/
def access (s : State) (ea : Word) (n align : Nat) (read : Bool) (own : Nat → Result) (far : Nat → Nat → Nat → Result) : Result :=
  match s.checkAddr ea n align with
  | .trap c => s.raise c ea
  | .waking b => (s.startWake b).forfeit
  | .here off =>
    if s.acquiring s.core.ltn then s.sleep (.acquire s.core.ltn)
    else if s.payloadHeld off n then s.forfeit
    else if read && s.lowerBuffers (s.key off / 64) then s.sleep (.line (s.key off / 64))
    else own off
  | .remote l c off =>
    if s.acquiring l then s.sleep (.acquire l)
    else if l == s.core.ltn then
      let line := (sliceBase l c + off) / 64
      if read && s.lowerBuffers line then s.sleep (.line line) else if s.committing line then s.forfeit else far l c off
    else s.settledOr fun _ => far l c off

end State

/-- The write that a window's end makes of arrived data. -/
def destWrites (d : Dest) (data : List Word) : List WinWrite :=
  match d with
  | .known => []
  | .word r n nat =>
    let v := (data.headD 0).toNat % 2 ^ (8 * n)
    [.reg r (if nat then w64 v else .ofInt 64 (signed (8 * n) v))]
  | .lanes r mask => [.vec r.toNat (State.vecOf data) mask]

/-- Bytes all enabled. -/
def allOn (l : List Byte) : List (Bool × Byte) := l.map fun b => (true, b)

/-- The bytes of a vector store, those of disabled lanes off (08 R195). -/
def laneBytes (v : Vec) (vm : Byte) : List (Bool × Byte) :=
  (List.range 32).map fun i => (vm.getLsbD (i / 4), .ofNat 8 (v.toNat / 2 ^ (8 * i)))

end Sys2Proof.Machine
end

