-- ==== Sys2Proof/Machine/Memory.lean ====
section
/-! DEFINITION. Loads, stores, atomics and metadata of strands (08 R188 to R204), and the home core's side of remote
accesses (08 R196, R201; 12 R295). -/

namespace Sys2Proof.Machine

/-! ## Loads and stores -/

/-- A scalar read from memory, extended (08 R195). -/
def extend (bytes : Nat) (natural : Bool) (v : Nat) : Word :=
  if natural then w64 v else .ofInt 64 (signed (8 * bytes) v)

/-- The address of a memory operand of form M, with the steps of loops (08 R195, 04 R110). -/
def formM (s : State) (a : Reg) (off : BitVec 18) : Word :=
  s.regW a.toNat + off.signExtend 64 + .ofInt 64 s.issue.step

/-- PI needs a zero OFF (03 R74). -/
def piOk (pi : Bool) (off : BitVec 18) : Bool := !pi || off == 0

namespace State

/-- Post-increment of the address register by the access size (08 R195). -/
def postInc (s : State) (pi : Bool) (a : Reg) (old : Word) (bytes : Nat) : State :=
  if pi then s.setW s.issue.slot a.toNat (old + w64 bytes) else s

/-- A load of n bytes at `ea` (08 R195, R196): `dest` says how it reaches the register. -/
def loadFrom (s : State) (n : Nat) (ea : Word) (la : BitVec 4) (dest : Dest) (acquire : Option Rect)
    (pi : State → State) : Result :=
  s.access ea n n true
    (fun off =>
      match s.grant off true with
      | .forfeit => s.forfeit
      | .bubble => s.bubble
      | .ok t =>
        if t.poisoned (t.key off) n then s.raise cPOISON ea
        else
          let (b, t) := t.loadBytes (t.key off) n
          let v := leNat b
          .next (pi (match dest with
            | .word d bytes natural => t.writeW d (extend bytes natural v)
            | .lanes d mask => t.writeV d (.ofNat 256 v) mask
            | .known => t)))
    (fun l c off =>
      if s.isSpeculative then
        -- the own tile's slices are read under the task's buffer
        if s.windowsFull then s.raise cWINDOW
        else
          let k := sliceBase l c + off
          let (b, t) := s.loadBytes k n
          let trap : Option Cause := if s.poisoned k n then some ⟨cPOISON, 0, ea⟩ else none
          .next (pi (t.longResult la 12 (destWrites dest ((List.range ((n + 7) / 8)).map fun i =>
            w64 (leNat ((b.drop (8 * i)).take 8)))) trap false acquire))
      else s.remoteRead (pi s) la (s.request l c off (.load n) []) dest acquire)

/-- A store of bytes at `ea` (08 R195, R196): `r` is the state after the data was read. The post-increment is made before
the store, as a register write of the same cycle is (01 R30). -/
def storeTo (s r : State) (n : Nat) (ea : Word) (data : List (Bool × Byte)) (kind : ReqKind) (words : List Word)
    (pi : State → State) : Result :=
  s.access ea n n false
    (fun off =>
      match s.grant off false with
      | .forfeit => s.forfeit
      | .bubble => s.bubble
      | .ok _ =>
        if s.bufferFull (s.key off / 64) then s.sleep .lowestKey
        else .next ((pi (r.serve off)).storeBytes (s.key off) data))
    (fun l c off =>
      if s.isSpeculative then
        let k := sliceBase l c + off
        if s.bufferFull (k / 64) then s.sleep .lowestKey else .next ((pi r).storeBytes k data)
      else .next (pi (r.sendReq (s.request l c off kind words) s.me.strand s.issue.info)))

end State

/-- A read of `regW` for the data of a store: the third port, `qi` allowed (08 R194). -/
def storeData (d : Reg) : Opd := Opd.third d

def execLd (size : BitVec 2) (n pi : Bool) (d a : Reg) (la : BitVec 4) (off : BitVec 18) (s : State) : Result :=
  s.issueHead [(Opd.dst d).noPort, (Opd.src a).noPort] [] false (extra := piOk pi off && !(pi && d == a)) fun s =>
    let bytes := 2 ^ size.toNat
    s.loadFrom bytes (formM s a off) la (.word d bytes n) none fun t => t.postInc pi a (s.regW a.toNat) bytes

def execSt (size : BitVec 2) (pi : Bool) (d a : Reg) (off : BitVec 18) (s : State) : Result :=
  s.issueHead [storeData d, (Opd.src a).noPort] [] false (extra := piOk pi off) fun s =>
    let bytes := 2 ^ size.toNat
    let (x, r) := s.readW d
    s.storeTo r bytes (formM s a off) (allOn (leBytes bytes x.toNat)) (.store bytes) [x] fun t =>
      t.postInc pi a (s.regW a.toNat) bytes

/-- Writes the lanes that VM enables (08 R195). -/
def execLdv (pi : Bool) (d a : Reg) (la : BitVec 4) (off : BitVec 18) (s : State) : Result :=
  s.issueHead [(Opd.vdst d).noPort, (Opd.src a).noPort] [] false (extra := piOk pi off) fun s =>
    s.loadFrom 32 (formM s a off) la (.lanes d (laneMask (swVM s.rdSw))) none fun t =>
      t.postInc pi a (s.regW a.toNat) 32

/-- Stores the lanes that VM enables (08 R195). -/
def execStv (pi : Bool) (d a : Reg) (off : BitVec 18) (s : State) : Result :=
  s.issueHead [Opd.vthird d, (Opd.src a).noPort] [] false (extra := piOk pi off) fun s =>
    let (v, r) := s.readV d
    let vm := swVM s.rdSw
    s.storeTo r 32 (formM s a off) (laneBytes v vm) (.storeVec vm) (State.wordsOf v) fun t =>
      t.postInc pi a (s.regW a.toNat) 32

/-- The address of `LDG` and `STG`: b is signed, the sum modulo 2^64 (08 R195). -/
def formG (s : State) (a b : Reg) (sc : BitVec 2) : Word := s.regW a.toNat + (s.regW b.toNat <<< sc.toNat)

def execLdg (size : BitVec 2) (n pi : Bool) (d a b : Reg) (la : BitVec 4) (sc : BitVec 2) (s : State) : Result :=
  s.issueHead [(Opd.dst d).noPort, (Opd.src a).noPort, Opd.src b] [] false (extra := !(pi && d == a)) fun s₁ =>
    let bytes := 2 ^ size.toNat
    let (y, r) := s₁.readW b
    let ea := s₁.regW a.toNat + (y <<< sc.toNat)
    s₁.loadFrom bytes ea la (.word d bytes n) none fun t =>
      ({ t with core := { t.core with mq := r.core.mq } } : State).postInc pi a (s₁.regW a.toNat) bytes

def execStg (size : BitVec 2) (pi : Bool) (d a b : Reg) (sc : BitVec 2) (s : State) : Result :=
  s.issueHead [storeData d, (Opd.src a).noPort, Opd.src b] [] false fun s₁ =>
    let bytes := 2 ^ size.toNat
    let (x, r) := s₁.readW d
    let (y, r) := r.readW b
    s₁.storeTo r bytes (s₁.regW a.toNat + (y <<< sc.toNat)) (allOn (leBytes bytes x.toNat)) (.store bytes) [x] fun t =>
      t.postInc pi a (s₁.regW a.toNat) bytes

/-- An acquiring load (08 R198, R199). -/
def execLda (size : BitVec 2) (n : Bool) (d a b : Reg) (la : BitVec 4) (s : State) : Result :=
  s.issueHead [(Opd.dst d).noPort, (Opd.src a).noPort, Opd.src b] [] false fun s₁ =>
    let bytes := 2 ^ size.toNat
    let (y, r) := s₁.readW b
    match s₁.checkAddr (s₁.regW a.toNat) bytes bytes, s₁.rectOperand y with
    | .trap c, _ => s₁.raise c (s₁.regW a.toNat)
    | _, none => s₁.raise cRANGE
    | _, some rect =>
      s₁.loadFrom bytes (s₁.regW a.toNat) la (.word d bytes n) (some rect) fun t =>
        { t with core := { t.core with mq := r.core.mq } }

/-- A releasing store waits until the strand's accesses to the rectangle have performed (08 R198, R199). -/
def execStl (size : BitVec 2) (d a b : Reg) (s : State) : Result :=
  s.issueHead [storeData d, (Opd.src a).noPort, Opd.src b] [] false fun s₁ =>
    let bytes := 2 ^ size.toNat
    let (x, r) := s₁.readW d
    let (y, r) := r.readW b
    match s₁.checkAddr (s₁.regW a.toNat) bytes bytes, s₁.rectOperand y with
    | .trap c, _ => s₁.raise c (s₁.regW a.toNat)
    | _, none => s₁.raise cRANGE
    | _, some rect =>
      if s₁.rectClear s₁.me.strand rect then
        s₁.storeTo r bytes (s₁.regW a.toNat) (allOn (leBytes bytes x.toNat)) (.store bytes) [x] id
      else s₁.sleep (.rect rect)

/-! ## Atomics (08 R200, R201) -/

/-- The new value of an atomic, w bits wide. -/
def atomNew (op : AtomOp) (w : Nat) (natural : Bool) (old b c : Nat) : Nat :=
  let x := old % 2 ^ w
  let y := b % 2 ^ w
  let le := if natural then decide (x ≤ y) else decide (signed w x ≤ signed w y)
  match op with
  | .add => (x + y) % 2 ^ w
  | .and => x &&& y
  | .or => x ||| y
  | .xor => x ^^^ y
  | .min => if le then x else y
  | .max => if le then y else x
  | .swap => y
  | .cas => if x = c % 2 ^ w then y else x

/-- Does an atomic write (08 R201)? -/
def atomWrites (op : AtomOp) (w : Nat) (old c : Nat) : Bool :=
  match op with
  | .cas => old % 2 ^ w == c % 2 ^ w
  | _ => true

namespace State

/-- An atomic of the issuing strand: it goes to the home core's unit, which on the issuing core answers within 10 cc; a
speculative task's atomic on its own tile works on the task's buffer. -/
def atomic (s : State) (op : AtomOp) (wide natural : Bool) (d a b : Reg) (c : Option Reg) (la : BitVec 4) : Result :=
  s.issueHead ([(Opd.dst d).noPort, (Opd.src a).noPort, Opd.src b] ++ c.toList.map Opd.third) [] false fun s =>
    let (y, r) := s.readW b
    let (z, r) := match c with
      | some c => r.readW c
      | none => (0, r)
    let ea := s.regW a.toNat
    let n := if wide then 8 else 4
    let spec (k : Nat) : Result :=
      if s.windowsFull then s.raise cWINDOW
      else if s.bufferFull (k / 64) then s.sleep .lowestKey
      else
        let (bs, t) := r.loadBytes k n
        let old := leNat bs
        let poison := s.poisoned k n
        let t := if !poison && atomWrites op (8 * n) old z.toNat
          then t.storeBytes k (allOn (leBytes n (atomNew op (8 * n) natural old y.toNat z.toNat))) else t
        .next (if poison then t.longResult la 10 [] (some ⟨cPOISON, 0, ea⟩)
          else t.longResult la 10 [.reg d (extend n natural old)])
    s.access ea n n true
      (fun off =>
        if s.isSpeculative then spec (s.key off)
        else if s.windowsFull then s.raise cWINDOW
        else
          let q := s.request s.core.ltn s.core.num off (.atom op wide natural) [y] z
          let t := r.openWindow la ⟨0, 0, false, [], .word d n natural, none, s.issue.info, none, false, none, none⟩
          .next (({ t with tile := { t.tile with
            sent := t.tile.sent ++ [⟨q, t.tile.cycle, false, s.me.strand, s.issue.info⟩] } } : State).after 1
              (.atomicExecute q)))
      (fun l c off =>
        if s.isSpeculative then spec (sliceBase l c + off)
        else s.remoteRead r la (s.request l c off (.atom op wide natural) [y] z) (.word d n natural))

end State

def execAtomAdd (w64 n : Bool) (d a b : Reg) (la : BitVec 4) (s : State) : Result := s.atomic .add w64 n d a b none la
def execAtomAnd (w64 n : Bool) (d a b : Reg) (la : BitVec 4) (s : State) : Result := s.atomic .and w64 n d a b none la
def execAtomOr (w64 n : Bool) (d a b : Reg) (la : BitVec 4) (s : State) : Result := s.atomic .or w64 n d a b none la
def execAtomXor (w64 n : Bool) (d a b : Reg) (la : BitVec 4) (s : State) : Result := s.atomic .xor w64 n d a b none la
def execAtomMin (w64 n : Bool) (d a b : Reg) (la : BitVec 4) (s : State) : Result := s.atomic .min w64 n d a b none la
def execAtomMax (w64 n : Bool) (d a b : Reg) (la : BitVec 4) (s : State) : Result := s.atomic .max w64 n d a b none la
def execAtomSwap (w64 n : Bool) (d a b : Reg) (la : BitVec 4) (s : State) : Result := s.atomic .swap w64 n d a b none la
def execAtomCas (w64 n : Bool) (d a b c : Reg) (la : BitVec 4) (s : State) : Result :=
  s.atomic .cas w64 n d a b (some c) la

/-! ## Metadata (08 R203) -/

namespace State

/-- The checks of `LDMETA` and `STMETA`: another core's address is refused before alignment. -/
def metaAt (s : State) (ea : Word) (read : Bool) (k : Nat → Result) : Result :=
  match s.addrForm ea with
  | none => s.raise cADDRESS ea
  | some (l, c, _) =>
    if !(l == s.core.ltn && c == s.core.num) then s.raise cADDRESS ea
    else s.access ea 64 64 read k (fun _ _ _ => s.raise cADDRESS ea)

end State

def execLdmeta (pi : Bool) (d a : Reg) (off : BitVec 18) (s : State) : Result :=
  s.issueHead [(Opd.dst d).noPort, (Opd.src a).noPort] [] false (extra := piOk pi off && !(pi && d == a)) fun s =>
    s.metaAt (formM s a off) true fun o =>
      match s.grant o true with
      | .forfeit => s.forfeit
      | .bubble => s.bubble
      | .ok t => .next ((t.setW t.issue.slot d.toNat ((t.metas.getD (t.key o / 64) 0).setWidth 64)).postInc pi a
          (s.regW a.toNat) 64)

/-- A metadata write counts as a write to its line; it cannot be buffered, so a speculative task settles first. -/
def execStmeta (pi : Bool) (d a : Reg) (off : BitVec 18) (s : State) : Result :=
  s.issueHead [storeData d, (Opd.src a).noPort] [] false (extra := piOk pi off) fun s =>
    let (x, r) := s.readW d
    s.metaAt (formM s a off) false fun o =>
      s.settledOr fun _ =>
        match s.grant o false with
        | .forfeit => s.forfeit
        | .bubble => s.bubble
        | .ok _ => .next (((r.serve o).writeMeta (s.key o / 64) (x.setWidth 16)).postInc pi a (s.regW a.toNat) 64)

/-! ## The home core's side (08 R196, R201, R222; 12 R295) -/

namespace State

/-- Does a request come from the issuing core to itself, by no network? -/
def localReq (s : State) (q : Req) : Bool :=
  q.sltn == s.core.ltn && q.score == s.core.num && q.dltn == s.core.ltn && q.dcore == s.core.num

/-- The router port by which packets of a tile arrive under X-then-Y routing: 0 loop-back, 1 and 2 along the column, 3
and 4 along the row (12 R295). -/
def portOf (s : State) (ltn : Nat) : Nat :=
  let p := s.siteOf ltn
  let q := s.siteOf s.core.ltn
  if p / 32 < q / 32 then 1 else if q / 32 < p / 32 then 2 else if p % 32 < q % 32 then 3 else if q % 32 < p % 32 then 4
  else 0

/-- Places of a port's reorder store in use, on both networks (12 R295). -/
def portHeld (s : State) (port : Nat) : Nat :=
  (s.tile.reorderReq.filter fun q => s.portOf q.sltn == port).length
    + (s.tile.reorderMsg.filter fun p => s.portOf p.sltn == port).length

/-- The reply to a request, one leg back to this core; a requester elsewhere is answered outside the model. A duplicate is
answered by a duplicate notice (20 R463). -/
def replyTo (s : State) (q : Req) (rk : BitVec 4) (err : Byte) (data : List Word) (poison : Bool := false)
    (extra : Nat := 0) (dup : Bool := false) : State :=
  if q.sltn == s.core.ltn && q.score == s.core.num then
    let r : Instr := .replyArrival ⟨false, q.dltn, rk, 0, dup, q.seq, err, data, poison⟩
    if q.dltn == s.core.ltn then s.release (s.leg q.dltn q.sltn + extra) r else s.after (s.leg q.dltn q.sltn + extra) r
  else s

/-- The operation field of a REQ record (19 R446); its codes are the model's (log entry 14). -/
def opCode (k : ReqKind) : Nat :=
  match k with
  | .load n => 0x10 + n
  | .store n => 0x40 + n
  | .storeVec _ => 0x50
  | .atom op wide natural => 0x80 + 2 * wide.toNat + natural.toNat + 4 * (match op with
      | .add => 0 | .and => 1 | .or => 2 | .xor => 3 | .min => 4 | .max => 5 | .swap => 6 | .cas => 7)
  | .radd b => 0xC0 + b.toNat
  | .notify => 0xC2
  | .count .. => 0xC3

/-- A request has been consumed from its channel: EXP advances, an input from another tile is logged, a notify write as a
payload unit, a counter increment as such (19 R446), and the next request of the channel that waits in the reorder store follows (12 R295; 19 R446). -/
def consumed (s : State) (q : Req) (ev : Instr) : State :=
  if s.localReq q then s
  else if q.dltn != s.core.ltn then { s with farExp := SMap.put q.dltn (q.seq + 1) s.farExp }
  else
    let next := q.seq + 1
    let s := if q.sltn != s.core.ltn then
        match q.kind with
        | .count k err faddr => s.logged 5 q.dcore 0 [w64 (err.toNat * 2 ^ 56 + k.toNat), faddr] ev
        | .notify => s.logged 4 q.dcore 0 [q.cmp, q.data.headD 0] ev
        | _ => s.logged 2 q.dcore 0 ([w64 (q.seq.toNat * 2 ^ 32 + q.sltn * 2 ^ 20 + q.score * 2 ^ 16
            + opCode q.kind * 2 ^ 8), w64 (2 ^ 63 + q.dltn * 2 ^ 26 + q.dcore * 2 ^ 22 + q.off.toNat)] ++ q.data) ev
      else s
    let s : State := { s with tile := { s.tile with expReq := SMap.put q.sltn next s.tile.expReq } }
    match s.tile.reorderReq.find? fun p => p.sltn == q.sltn && p.seq == next with
    | none => s
    | some p =>
      ({ s with tile := { s.tile with reorderReq := s.tile.reorderReq.erase p } } : State).after 0 (reqEvent p)

/-- A request of this core to itself is answered: the window takes its value or trap 9 cc later, and a put/get unit counts
(08 R201, R210). -/
def localDone (s : State) (q : Req) (old : Word) (trap : Option Cause) : State :=
  match q.entry with
  | some id => s.unitDone id (if trap.isSome then errGated else 0) (globalDest q.dltn q.dcore q.off.toNat)
  | none =>
    let i : Fin 16 := .ofNat 16 q.slot
    let s := s.modWindow i q.wtag fun w => { w with
      writes := if trap.isSome then [] else destWrites w.dest [old], trap := trap }
    ({ s with tile := { s.tile with
        sent := s.tile.sent.filter fun x => !(s.localReq x.q && x.q.wtag == q.wtag) } } : State).after 9
      (.longResultArrival i q.wtag)

/-- Does a request come to a tile for the first time, in the order of its channel (12 R295)? Of another tile's channel the
model keeps EXP in `farExp`, so that a request sent again in a replay performs once (09 R240). -/
def behindOf (s : State) (q : Req) : Nat :=
  if s.localReq q then 0
  else (q.seq - SMap.getD (if q.dltn == s.core.ltn then s.tile.expReq else s.farExp) (if q.dltn == s.core.ltn then q.sltn else q.dltn) 0).toNat

/-- Slice reads that a request makes (01 R25). -/
def reqReads : ReqKind → Nat
  | .load _ | .atom .. | .radd _ => 1
  | _ => 0

/-- A request arrives at its home: its channel's order (12 R295), then its bank (01 R33), which serves one access in a
cycle, so that a request that finds it served waits for the next (01 R17). `perform` is given the key of its first byte. -/
def arriveReq (s : State) (q : Req) (ev : Instr) (perform : State → Nat → State) : Result :=
  let behind := s.behindOf q
  if behind != 0 then
    if behind < 2 ^ 31 then
      if q.dltn != s.core.ltn then .next (s.after 1 ev)
      else if 16 ≤ s.portHeld (s.portOf q.sltn) || s.tile.reorderReq.contains q then .next s
      else .next { s with tile := { s.tile with reorderReq := s.tile.reorderReq ++ [q] } }
    else .next (s.replyTo q 2 0 [] (dup := true))
  else
    let off := q.off.toNat
    let touches := match q.kind with
      | .count .. => false
      | _ => true
    let here := q.dltn == s.core.ltn && q.dcore == s.core.num && touches
    match (if here then s.bankCheck off 1 else none) with
    | some (.trap _) =>
      if s.localReq q then .next (s.localDone q 0 (some ⟨cGATED, 0, globalDest q.dltn q.dcore off⟩))
      else .next ((s.consumed q ev).replyTo q 3 3 [])
    | some (.waking b) => .next ((s.startWake b).after 24 ev)
    | _ =>
      if (if here then s.bankBusy off else touches && s.committing ((sliceBase q.dltn q.dcore + off) / 64)) then .next (s.after 1 ev)
      else
        let s := s.consumed q ev
        .next (perform (if here then (s.serve off).countReads (reqReads q.kind) else s) (sliceBase q.dltn q.dcore + off))

/-- A request writes at its home: at a slice of this core for the next cycle on (09 R222). -/
def homeWrite (s : State) (q : Req) (k : Nat) (data : List (Bool × Byte)) (poison : Bool := false) : State :=
  if q.dltn == s.core.ltn && q.dcore == s.core.num then s.land (.store k data poison)
  else if poison then s.write none k (data.map (·.2)) true
  else s.writeLanes none k data

end State

/-- The home core's atomic unit (08 R201). A request of this core delivers its old value to its own window. -/
def execAtomicExecute (q : Req) (s : State) : Result :=
  s.arriveReq q (.atomicExecute q) fun s k =>
    match q.kind with
    | .atom op wide natural =>
      let n := if wide then 8 else 4
      let poison := s.poisoned k n
      let old := natAt s.mem k n
      let c := q.cmp.toNat
      let t := if !poison && atomWrites op (8 * n) old c then
          s.homeWrite q k (allOn (leBytes n (atomNew op (8 * n) natural old (q.data.headD 0).toNat c))) else s
      if s.localReq q then
        t.localDone q (w64 old) (if poison then some ⟨cPOISON, 0, globalDest q.dltn q.dcore q.off.toNat⟩ else none)
      else t.replyTo q 1 0 [w64 old] poison 2
    | _ => s

/-- A remote store or notify write performs and is acknowledged (08 R196, R222). -/
def execRemoteStorePerform (q : Req) (s : State) : Result :=
  s.arriveReq q (.remoteStorePerform q) fun s k =>
    let s := match q.kind with
      | .store n => s.homeWrite q k (allOn (leBytes n (q.data.headD 0).toNat)) q.poison
      | .storeVec m => s.homeWrite q k (laneBytes (State.vecOf q.data) m)
      | .notify => s.homeWrite q k (allOn (leBytes 8 (q.data.headD 0).toNat))
      | _ => s
    s.replyTo q 2 0 []

/-- A remote load is read at its home slice and answered (08 R222). -/
def execRemoteLoadServe (q : Req) (s : State) : Result :=
  s.arriveReq q (.remoteLoadServe q) fun s k =>
    match q.kind with
    | .load n =>
      let b := bytesAt s.mem k n
      s.replyTo q 0 0 ((List.range ((n + 7) / 8)).map fun i => w64 (leNat ((b.drop (8 * i)).take 8))) (s.poisoned k n)
    | _ => s

/-- A long result arrives: it is held, or it ends the WINDOW state once every ended window has its result (01 R20). -/
def execLongResultArrival (slot : Fin 16) (tag : Nat) (s : State) : Result :=
  if s.engineBusy tag then .next (s.after 1 (.longResultArrival slot tag))
  else
  let s := s.endEngineOp tag
  let s := s.modWindow slot tag fun w => { w with arrived := true }
  .next (s.modSlot slot fun x =>
    if x.st == .window && x.windows.all (fun w => w.left != 0 || w.arrived) then { x with st := .ready } else x)

/-- The 24 cc of a wake end: the bank is ACTIVE (01 R33). -/
def execBankWakeDone (bank : Fin 3) (s : State) : Result :=
  let b := bank.val
  if s.core.waking.any fun w => w.1 == bank && decide (w.2 ≤ s.tile.cycle) then
    .next { s with core := { s.core with
      waking := s.core.waking.filter fun w => w.1 != bank
      bankpm := s.core.bankpm &&& ~~~((3 : Word) <<< (2 * b)) } }
  else .next s

end Sys2Proof.Machine
end

