-- ==== Sys2Proof/Machine/Translate.lean ====
section
/-! DEFINITION. Device-virtual addresses (17 R394 to R404): range tables, page walks, the translation cache, the checks
of the grant and the attributes, and device memory with its encryption, swap routing, poison and metadata. -/

namespace Sys2Proof.Machine

/-- What an address translates to: the device-physical address, the attributes in the bit positions of R399, and the
address of the table entry that maps it, if a table does. -/
structure Xlate where
  dpa : Nat
  attrs : Word
  leafAt : Option Nat
  log2 : Nat
deriving DecidableEq, Repr

namespace State

/-- The stand that a number names. -/
def standAt (s : State) (n : Nat) : Option Stand := SMap.find n s.rim.stands

/-- Does the grant of a stand hold a device-physical address (17 R395)? Peer windows are checked by the peer. -/
def granted (t : Stand) (dpa : Nat) : Bool :=
  match bits dpa 51 50 with
  | 0 => t.hbm.any fun (a, b) => decide (a ≤ dpa / 2 ^ 21) && decide (dpa / 2 ^ 21 ≤ b)
  | 1 => t.far.any fun (a, b) => decide (a ≤ dpa % 2 ^ 50) && decide (dpa % 2 ^ 50 ≤ b)
  | 2 => true
  | _ => false

/-- Does a device-physical address name something (17 R394)? -/
def dpaNames (s : State) (dpa : Nat) : Bool :=
  match bits dpa 51 50 with
  | 0 => decide (dpa < s.rim.hbmcap)
  | 3 => false
  | _ => true

/-- The ports by which a module is reached (18 R417). -/
def routeMask (s : State) (id : Nat) : Nat :=
  let mask := if id / 2 ^ 12 = s.rim.modid.toNat / 2 ^ 12 then SMap.getD s.rim.localRoutes (id % 2 ^ 12) 0
    else SMap.getD s.rim.groupRoutes (id / 2 ^ 12) 0
  mask.toNat

/-- Is a port up? A port is up until an event takes it down. -/
def portUp (s : State) (p : Nat) : Bool :=
  match SMap.find p s.rim.ports with
  | some x => x.up
  | none => true

/-- Is the link up that an address needs (17 R396; 18 R417, R426)? -/
def linkUp (s : State) (dpa : Nat) : Bool :=
  match bits dpa 51 50 with
  | 1 => s.rim.hostUp
  | 2 => (List.range 32).any fun p => (s.routeMask (bits dpa 49 28)).testBit p && s.portUp p
  | _ => true

/-- The lowest-numbered valid range entry that holds an address (17 R396 step 2, R397). -/
def rangeHit (r : SMap (BitVec 256)) (va : Nat) : Option Xlate :=
  r.findSome? fun (_, e) =>
    let w (i : Nat) : Nat := (e.extractLsb' (64 * i) 64).toNat
    let base := w 0 % 2 ^ 57 / 4096 * 4096
    let limit := w 1 % 2 ^ 57 / 4096 * 4096 + 4095
    if (w 0).testBit 63 && decide (base ≤ va) && decide (va ≤ limit) then
      some ⟨w 2 / 4096 * 4096 + (va - base), w64 (2 ^ 63 + bits (w 3) 56 53 * 2 ^ 53), none, 0⟩
    else none

/-- Page size at a level: 1 GiB, 2 MiB, 4 KiB or 64 KiB (17 R399). -/
def pageLog2 (lvl : Nat) (e : Word) : Nat :=
  match lvl with
  | 1 => 30
  | 2 => 21
  | _ => if e.getLsbD 61 then 16 else 12

/-- Route an access to a frame of a swap pair by its bitmap (17 R409). -/
def route (s : State) (dpa : Nat) : Nat :=
  match s.rim.pairs.find? fun p => dpa / 4096 == p.farFrame / 4096 || dpa / 4096 == p.nearFrame / 4096 with
  | none => dpa
  | some p =>
    if dpa % 4096 / 64 < p.next then
      (if dpa / 4096 == p.farFrame / 4096 then p.nearFrame else p.farFrame) / 4096 * 4096 + dpa % 4096
    else dpa

/-- May a walk read a table at an address: tables lie in HBM (17 R399), within the grant (R395)? -/
def tableGranted (t : Stand) (tbl : Nat) : Bool := bits tbl 51 50 == 0 && granted t tbl

/-- Is a table entry at a level without a meaning (17 R399, R400): a reserved bit, a leaf where none is accepted or none where one
is required, a leaf that breaks a rule of its fields (log entry 16), a FRAME misaligned for its size? -/
def entryBad (lvl : Nat) (e : Word) : Bool :=
  let leaf := e.getLsbD 62
  let s64 := e.getLsbD 61
  let frame := bits e.toNat 51 12 * 4096
  let n := pageLog2 lvl e
  e.getLsbD 52 || bits e.toNat 11 0 != 0 || (lvl == 0 && leaf) || (lvl == 3 && !leaf)
    || (leaf && ((s64 && lvl != 3) || bits e.toNat 60 59 == 3 || (bits frame 51 50 != 0 && bits e.toNat 60 59 != 0)
      || (e.getLsbD 57 && n != 12) || (e.getLsbD 53 && !e.getLsbD 56) || frame % 2 ^ (if s64 then 12 else n) != 0))

/-- One level and those below it (17 R400). -/
def walkFrom (s : State) (t : Stand) (va : Nat) : Nat → Nat → Nat → Except Nat Xlate
  | 0, _, _ => .error errMap
  | fuel + 1, lvl, tbl =>
    if !tableGranted t tbl then .error errRefused
    else
      let idx := match lvl with
        | 0 => bits va 56 39 | 1 => bits va 38 30 | 2 => bits va 29 21 | _ => bits va 20 12
      let at_ := tbl + 8 * idx
      let e := w64 (natAt s.mem (s.route at_) 8)
      let frame := bits e.toNat 51 12 * 4096
      let n := pageLog2 lvl e
      if !e.getLsbD 63 || entryBad lvl e then .error errMap
      else if e.getLsbD 62 then
        if e.getLsbD 61 then
          let first := tbl + 8 * (idx / 16 * 16)
          let es := (List.range 16).map fun i => natAt s.mem (s.route (first + 8 * i)) 8
          let e0 := es.headD 0
          if bits e0 15 12 != 0 || ((List.range 16).any fun i => es.getD i 0 != e0 + i * 4096) then .error errMap
          else .ok ⟨bits e0 51 16 * 2 ^ 16 + va % 2 ^ 16, e, some first, 16⟩
        else .ok ⟨frame + va % 2 ^ n, e, some at_, n⟩
      else walkFrom s t va fuel (lvl + 1) frame

/-- The walk from the stand's root (17 R400). -/
def walk (s : State) (t : Stand) (va : Nat) : Except Nat Xlate :=
  walkFrom s t va 4 0 (bits t.ptroot.toNat 51 12 * 4096)

/-- Is a whole page granted: every 2 MiB of HBM that it meets, or one far range that holds it (17 R395)? -/
def pageGranted (t : Stand) (base log2 : Nat) : Bool :=
  if bits base 51 50 = 1 then
    t.far.any fun (a, b) => decide (a ≤ base % 2 ^ 50) && decide (base % 2 ^ 50 + 2 ^ log2 - 1 ≤ b)
  else (List.range ((2 ^ log2 + 2 ^ 21 - 1) / 2 ^ 21)).all fun i => granted t (base + i * 2 ^ 21)

/-- A walk whose page is to be converted or exchanged: its device-physical address names something and the stand's grant holds
the page whole (17 R394, R395). -/
def walkGranted (s : State) (t : Stand) (va : Nat) : Except Nat Xlate :=
  match s.walk t va with
  | .error e => .error e
  | .ok x =>
    if !s.dpaNames x.dpa then .error errMap
    else if !pageGranted t (x.dpa / 2 ^ x.log2 * 2 ^ x.log2) x.log2 then .error errRefused
    else .ok x

/-- A cached leaf that covers an address (17 R401). A leaf without V stands for a walk that failed. -/
def tlbHit (s : State) (asid va : Nat) : Option Leaf :=
  s.tile.tlb.find? fun l => l.asid == asid && va / 2 ^ (if l.log2 = 0 then 12 else l.log2) == l.va / 2 ^ (if l.log2 = 0 then 12 else l.log2)

/-- ASID of a stand (16 R371). -/
def asidOf (t : Stand) : Nat := bits t.b.toNat 15 0

/-- Does translating an address need a walk that has not been made (17 R396 step 4)? -/
def needsWalk (s : State) (va : Nat) : Bool :=
  match s.stand with
  | none => false
  | some t => (rangeHit s.tile.ranges va).isNone && (s.tlbHit (asidOf t) va).isNone && t.ptroot.getLsbD 63

/-- Steps 2 to 5 of a translation, by the range table, the cache, or a walk (17 R396). -/
def translateIn (s : State) (t : Stand) (ranges : SMap (BitVec 256)) (cached : Bool) (va : Nat) : Except Nat Xlate :=
  match rangeHit ranges va with
  | some x => .ok x
  | none =>
    match (if cached then s.tlbHit (asidOf t) va else none) with
    | some l =>
      if l.e.getLsbD 63 then
        .ok ⟨bits l.e.toNat 51 l.log2 * 2 ^ l.log2 + va % 2 ^ l.log2, l.e, some l.entryAt, l.log2⟩
      else .error l.entryAt
    | none => if t.ptroot.getLsbD 63 then walk s t va else .error errMap

/-- The frame grade map: grade and key slot of a frame; a frame that nothing has recoded is SEC-DED (log entry 12). -/
def frameOf (s : State) (dpa : Nat) : BitVec 2 × Option Nat := SMap.getD s.rim.frames (dpa / 4096) (1, none)

/-- The checks after a translation (17 R394, R395, R396, R403, R404, R406; 21 R490). -/
def checkXlate (s : State) (t : Stand) (x : Xlate) (write peer : Bool) : Option Nat :=
  if !s.dpaNames x.dpa then some errMap
  else if bits x.dpa 51 50 == 0 && s.rim.pending.any (fun n => decide (n ≤ x.dpa)) then some errRefused
  else if !granted t x.dpa then some errRefused
  else if write && !x.attrs.getLsbD 54 then some errRefused
  else if peer && write && !(x.attrs.getLsbD 56 && x.attrs.getLsbD 53) then some errRefused
  else if x.attrs.getLsbD 55 && (SMap.find (bits t.b.toNat 53 48) s.rim.keys).isNone then some errRefused
  else if x.leafAt.isSome && bits x.dpa 51 50 == 0
      && (s.frameOf (x.dpa / 2 ^ x.log2 * 2 ^ x.log2)).1 != .ofNat 2 (bits x.attrs.toNat 60 59) then some errRefused
  else if !s.linkUp x.dpa then some errLink
  else none

/-- Translate an address for the running stand (17 R396). -/
def translate (s : State) (va : Nat) (write : Bool) : Except Nat Xlate :=
  match s.stand with
  | none => .error errRefused
  | some t =>
    match s.translateIn t s.tile.ranges true va with
    | .error e => .error e
    | .ok x => match s.checkXlate t x write false with
      | some e => .error e
      | none => .ok x

/-- The key of the running stand's slot. -/
def keyOfSlot (s : State) (slot : Nat) : Option (BitVec 512) := SMap.find slot s.rim.keys

/-- Read device memory under a key, or plain; what was written under another key reads as undefined content (17
R406). -/
def readDevice (s : State) (dpa n : Nat) (key : Option (BitVec 512)) : List Byte × State :=
  let a := s.route dpa
  if SMap.find (a / 64) s.rim.lineKeys == key then (bytesAt s.mem a n, s) else s.freeBytes n

/-- Metadata bits that a line's grade frees (08 R204). -/
def metaBits (s : State) (dpa : Nat) : Nat :=
  if bits dpa 51 50 != 0 then 0 else match (s.frameOf dpa).1.toNat with
    | 0 => 16 | 1 => 8 | _ => 0

/-- A row sector that holds nothing yet. -/
def rowSector (s : State) (block : Nat) : RowSector := SMap.getD s.rim.rows block ⟨0, 0, []⟩

/-- What HBM itself holds at an address: the byte beneath a dirty one, else the byte that every read sees (08 R215). -/
def hbmByte (s : State) (a : Nat) : Byte := SMap.getD (s.rowSector (a / 1024)).beneath (a % 1024) (SMap.getD s.mem a 0)

/-- A row sector writes back its dirty bytes and leaves: HBM then holds what the memory of the model does (08 R217). -/
def evictRow (s : State) (block : Nat) : State := { s with rim := { s.rim with rows := SMap.erase block s.rim.rows } }

/-- Room for the sector of a block: a stack slice holds 32 MiB, 32,768 sectors (00 R4). Of a full one the oldest column
sector leaves, or else the lowest row sector, which no program can see (DESIGN CHOICE, log entry 46). -/
def makeRoom (s : State) (block : Nat) : State :=
  if s.rim.rows.length + s.rim.columns.length < 32768 then s
  else
    let here (b : Nat) : Bool := Config.stackOf b == Config.stackOf block
    let rows := s.rim.rows.filter fun r => here r.1
    let cols := s.rim.columns.filter fun c => here (c.lines.headD 0 / 1024)
    if rows.length + cols.length < 32768 then s
    else match cols with
      | c :: _ => { s with rim := { s.rim with columns := s.rim.columns.erase c } }
      | [] => s.evictRow ((rows.map (·.1)).headD 0)

/-- The row sector of a block after `f`, allocated if it is not there. -/
def modRow (s : State) (block : Nat) (f : RowSector → RowSector) : State :=
  let s := if (SMap.find block s.rim.rows).isSome then s else s.makeRoom block
  { s with rim := { s.rim with rows := SMap.put block (f (s.rowSector block)) s.rim.rows } }

/-- Bytes lo to hi - 1 of a row line are about to be merged into its row sector: they become dirty, HBM's own bytes stay
beneath, and a line that is written whole is valid (08 R215). -/
def dirtyLine (s : State) (line lo hi : Nat) : State :=
  let bit : BitVec 32 := 1 <<< (line % 32)
  s.modRow (line / 32) fun r => {
    valid := if lo = 0 ∧ hi = 32 then r.valid ||| bit else r.valid
    dirty := r.dirty ||| bit
    beneath := (List.range (hi - lo)).foldl (fun m i =>
      let p := 32 * (line % 32) + lo + i
      if (SMap.find p m).isSome then m else SMap.put p (SMap.getD s.mem (32 * line + lo + i) 0) m) r.beneath }

/-- A write to HBM is about to be merged into the row sectors of its row lines; every column sector that covers one of
them is invalidated first (08 R215, R217). -/
def touchRows (s : State) (dpa n : Nat) : State :=
  if bits dpa 51 50 != 0 then s
  else
    let s : State := { s with rim := { s.rim with columns := s.rim.columns.filter fun c =>
      !(c.lines.any fun l => decide (l < dpa + n) && decide (dpa < l + 32)) } }
    (List.range ((dpa % 32 + n + 31) / 32)).foldl (fun s i =>
      let line := dpa / 32 + i
      s.dirtyLine line (dpa - 32 * line) (min 32 (dpa + n - 32 * line))) s

/-- Write device memory: encrypted lines take the key, and the grade map records it (17 R404, R406). -/
def writeDevice (s : State) (dpa : Nat) (data : List Byte) (key : Option (Nat × BitVec 512)) (poison : Bool := false) :
    State :=
  let a := s.route dpa
  let s := (s.touchRows a data.length).write none a data poison
  let f := s.frameOf a
  { s with rim := { s.rim with
    lineKeys := match key with
      | some (_, k) => SMap.put (a / 64) k s.rim.lineKeys
      | none => SMap.erase (a / 64) s.rim.lineKeys
    frames := if bits a 51 50 = 0 then SMap.set (1, none) (a / 4096) (f.1, key.map (·.1)) s.rim.frames
      else s.rim.frames } }

/-- The key under which a translated access of the running stand moves data. -/
def xlateKey (s : State) (x : Xlate) : Option (Nat × BitVec 512) :=
  if x.attrs.getLsbD 55 then
    match s.stand with
    | some t => (s.keyOfSlot (bits t.b.toNat 53 48)).map fun k => (bits t.b.toNat 53 48, k)
    | none => none
  else none

/-- Count an access to a far page for the hot-page tracker, and one to a near page for its choice (17 R409). -/
def countHot (s : State) (x : Xlate) : State :=
  match s.stand, x.leafAt with
  | some t, some a =>
    if t.tierctl.getLsbD 63 && x.attrs.getLsbD 57 then
      { s with rim := { s.rim with hot := SMap.put a (SMap.getD s.rim.hot a 0 + 1) s.rim.hot } }
    else s
  | _, _ => s

/-- Keep a leaf in the tile's cache of 1,024; the oldest leaves first (17 R401). -/
def cacheLeaf (s : State) (l : Leaf) : State :=
  let kept := s.tile.tlb.filter fun k => !(k.asid == l.asid && k.va == l.va && k.log2 == l.log2)
  { s with tile := { s.tile with tlb := (kept ++ [l]).drop (kept.length + 1 - 1024) } }

/-- Drop the leaves of an address space, all or those that cover an address (17 R402). -/
def dropLeaves (s : State) (asid : Nat) (va : Option Nat) : State :=
  { s with tile := { s.tile with tlb := s.tile.tlb.filter fun l =>
      !(l.asid == asid && (match va with
        | none => true
        | some v => let n := if l.log2 = 0 then 12 else l.log2
                    v / 2 ^ n == l.va / 2 ^ n)) } }

/-- Change the running stand's record. -/
def modStand (s : State) (f : Stand → Stand) : State :=
  match s.stand with
  | some t => { s with rim := { s.rim with stands := SMap.put s.standNo (f t) s.rim.stands } }
  | none => s

end State

/-- Walk the tables for an address and cache the leaf (17 R400, R401). A walk that finds no entry is kept as a leaf without
V, so that it is not retried (R400). -/
def State.walkInto (s : State) (va : Nat) : State :=
  match s.stand with
  | none => s
  | some t =>
    let asid := State.asidOf t
    match State.walk s t va with
    | .ok x =>
      s.cacheLeaf ⟨asid, va / 2 ^ x.log2 * 2 ^ x.log2, x.log2,
        (x.attrs &&& ~~~(0x000FFFFFFFFFF000 : Word)) ||| w64 (x.dpa / 2 ^ x.log2 * 2 ^ x.log2), x.leafAt.getD 0⟩
    | .error e => s.cacheLeaf ⟨asid, va / 4096 * 4096, if e = errMap then 12 else 0, 0, e⟩

/-- The state in which an address can be translated: where a walk is needed it has been made (17 R396). -/
def State.walked (s : State) (va : Nat) : State := if s.needsWalk va then s.walkInto va else s

/-- The rim controller walks the tables for a unit (17 R400). -/
def execTranslationWalk (va : Nat) (s : State) : Result := .next (s.walkInto va)

end Sys2Proof.Machine
end

