-- ==== Sys2Proof/Machine/PutGet.lean ====
section
/-! DEFINITION. The put/get engine (08 R202, R204 to R217): entries, their units and completion, the counters, and the
heads that queue entries and wait on them. -/

namespace Sys2Proof.Machine

namespace State

/-! ## Issue -/

/-- The bank of a checked address, where it is the issuing core's own (08 R189 order 5). -/
def addrBank (s : State) (a : Word) (n : Nat) : Option Place :=
  match s.addrForm a with
  | some (ltn, core, off) => if ltn == s.core.ltn && core == s.core.num then s.bankCheck off n else none
  | none => none

/-- The first check of R189 that an address fails: its order and trap. -/
def addrFails (s : State) (a : Word) (n align : Nat) (loc : Bool) : Option (Nat × BitVec 9) :=
  match s.addrForm a with
  | none => some (1, cADDRESS)
  | some (ltn, core, off) =>
    if loc && !(ltn == s.core.ltn && core == s.core.num) then some (1, cADDRESS)
    else if !(s.inStand ltn || bits a.toNat 63 63 == 0) then some (2, cADDRESS)
    else if decide (s.rim.visibleTop < off + n) then some (3, cADDRESS)
    else if off % align != 0 then some (4, cMISALIGNED)
    else match s.addrBank a n with
      | some (.trap c) => some (5, c)
      | _ => none

/-- Several addresses are checked order by order (08 R189): address, bytes, alignment, and whether it must be local. -/
def addrsFail (s : State) (l : List (Word × Nat × Nat × Bool)) : Option (BitVec 9 × Word) :=
  [1, 2, 3, 4, 5].findSome? fun o => l.findSome? fun (a, n, al, loc) =>
    (s.addrFails a n al loc).bind fun (p, c) => if p = o then some (c, a) else none

/-- A bank in RETAIN, or waking, among several addresses (01 R33). -/
def addrsWaking (s : State) (l : List (Word × Nat × Nat × Bool)) : Option (Fin 3) :=
  l.findSome? fun (a, n, _, _) => match s.addrBank a n with
    | some (.waking b) => some b
    | _ => none

/-- The addresses of a head of the put/get engine: the first check that one fails traps, and a waking bank forfeits the turn
(08 R189). -/
def withAddrs (s : State) (l : List (Word × Nat × Nat × Bool)) (k : Unit → Result) : Result :=
  match s.addrsFail l, s.addrsWaking l with
  | some (c, ad), _ => s.raise c ad
  | none, some b => (s.startWake b).forfeit
  | none, none => k ()

/-- The key in the model's memory that a checked SRAM address names. -/
def keyOfAddr (s : State) (a : Word) : Nat :=
  match s.addrForm a with
  | some (ltn, core, off) => sliceBase ltn core + off
  | none => 0

/-- Queue an entry, or wait for one to be free (08 R206); a speculative task settles first (09 R235). -/
def queueEntry (s : State) (e : PgEntry) : Result :=
  s.settledOr fun _ =>
    if 16 ≤ s.core.pg.length then s.sleep .entry
    else .next (({ s with core := { s.core with
      pg := s.core.pg ++ [{ e with id := s.core.nextEntry, strand := s.me.strand, slot := s.issue.slot.val }]
      nextEntry := s.core.nextEntry + 1 } } : State).after 1 (.putgetUnit s.core.nextEntry 0))

/-- A `RADD` (08 R202): a is the destination, b the source; an open acquire holds it like a store (08 R199). -/
def radd (s : State) (b16 : Bool) (a b : Reg) (k n : BitVec 4) : Result :=
  s.issueHead [(Opd.src a).noPort, (Opd.src b).noPort] [] false fun s =>
    let x := s.regW a.toNat
    let y := s.regW b.toNat
    let units := n.toNat + 1
    s.withAddrs [(x, 32 * units, 32, false), (y, 32 * units, 32, true)] fun _ =>
      let key := s.keyOfAddr x
      let ltn := (key - 2 ^ 63) / 2 ^ 26
      if s.acquiring ltn then s.sleep (.acquire ltn)
      else s.queueEntry ⟨0, .radd b16, 0, 0, key, bits y.toNat 21 0, units, none, ⟨0, 0, 0, k, 1⟩, 0, 0, 0, 0, 0⟩

/-- A put/get head (08 R207 to R209): the operands, the checks in their order, and the entry. -/
def putget (s : State) (kind : Nat → PgKind) (a b : Reg) (pitch : Option Reg) (notify : Option (Reg × Reg))
    (f : PgCtr) (units sector : Nat) (extra : Bool) : Result :=
  s.issueHead ([(Opd.src a).noPort, (Opd.src b).noPort] ++ pitch.toList.map (fun c => (Opd.third c).noPort)
      ++ notify.toList.flatMap fun (d, c) => [(Opd.third d).noPort, (Opd.third c).noPort]) [] false
      (extra := ctrOk f && extra) fun s =>
    let x := s.regW a.toNat
    let y := s.regW b.toNat
    let tr := pitch.isSome
    let p := match pitch with
      | some c => s.regW c.toNat
      | none => 0
    let slice := match s.addrForm y with
      | some (l, c, off) => if l == s.core.ltn && c == s.core.num && decide (off + sector * units ≤ s.rim.visibleTop)
          then some off else none
      | none => none
    let remoteBad := f.cm.getLsbD 1 && !s.inStand f.rltn.toNat
    if bits x.toNat 63 57 != 0 then s.raise cADDRESS x
    else if x.toNat % (if tr then 32 else 64) != 0 then s.raise cMISALIGNED x
    else match slice with
    | none => s.raise cADDRESS y
    | some off =>
      if remoteBad then s.raise cADDRESS y
      else if off % 64 != 0 then s.raise cMISALIGNED y
      else if tr && (p.toNat % 32 != 0 || decide (p.toNat < 32) || decide (2 ^ 32 ≤ p.toNat)) then s.raise cRANGE
      else
        let n := notify.map fun (d, c) => (s.regW d.toNat, s.regW c.toNat)
        s.withAddrs (n.toList.map fun (d, _) => (d, 8, 8, false)) fun _ =>
          s.queueEntry ⟨0, kind p.toNat, 0, 0, x.toNat, off, units, n.map fun (d, v) => (s.keyOfAddr d, v), f, 0, 0, 0, 0, 0⟩

/-! ## The read buffer (09 R221) -/

/-- A line as a buffer keeps it: its bytes, metadata and poison. -/
def lineBytes (s : State) (line : Nat) (data : List Byte) : List Byte :=
  data ++ leBytes 2 (s.metas.getD line 0).toNat ++ [if (SMap.find line s.poison).isSome then 1 else 0]

/-- A line read through a read buffer: as it stands, or as the buffer last took it; which of them is free
(log entry 1). The buffer keeps what was read. -/
def buffered (s : State) (buf : SMap (List Byte)) (line : Nat) (now : List Byte) : List Byte × SMap (List Byte) × State :=
  match SMap.find line buf with
  | none => (now, SMap.put line now buf, s)
  | some old =>
    if old = now then (now, buf, s)
    else
      let (v, s) := s.free
      if v.getLsbD 0 then (old, buf, s) else (now, SMap.put line now buf, s)

/-- A line that the put/get engine reads, its current bytes given. -/
def readG (s : State) (line : Nat) (data : List Byte) : List Byte × Nat × Bool × State :=
  let (r, buf, s) := s.buffered s.core.bufG line (s.lineBytes line data)
  (r.take 64, leNat ((r.drop 64).take 2), r.getD 66 0 == 1, { s with core := { s.core with bufG := buf } })

/-- The engine may read the device line at an address ahead for a later `GET`: whether it does is free (log entry 1). -/
def readAhead (s : State) (va : Nat) : State :=
  let (v, s) := s.free
  if !v.getLsbD 0 || s.needsWalk va then s
  else match s.translate va false with
    | .error _ => s
    | .ok x =>
      let line := s.route x.dpa / 64
      if (SMap.find line s.core.bufG).isSome then s
      else
        let (now, s) := s.readDevice x.dpa 64 ((s.xlateKey x).map (·.2))
        { s with core := { s.core with bufG := SMap.put line (s.lineBytes line now) s.core.bufG } }

/-! ## Units (08 R202, R204, R210, R216) -/

/-- The unit after one that has started begins in the next cycle (log entry 7). -/
def nextUnit (s : State) (e : PgEntry) (u : Nat) : State :=
  let s := s.modEntry e.id fun e => { e with started := u + 1 }
  if u + 1 < e.units then s.after 1 (.putgetUnit e.id (u + 1)) else s

/-- A unit faults: it is not written (08 R210). -/
def unitFault (s : State) (e : PgEntry) (u err : Nat) (addr : Word) : State := (s.nextUnit e u).unitDone e.id err addr

/-- The slice range of an engine's access: `gated` where a bank is GATED, 24 cc later where one is in RETAIN, one cycle later
where a bank is already claimed (01 R17, R33). -/
def engineBank (s : State) (off n : Nat) (again : Instr) (gated k : State → State) : State :=
  match s.bankCheck off n with
  | some (.trap _) => gated s
  | some (.waking b) => (s.startWake b).after 24 again
  | _ => if s.rangeBusy off n then s.after 1 again else k (s.serveRange off n)

/-- The slice range of a unit of n bytes; a GATED bank ends the unit. -/
def unitBank (s : State) (e : PgEntry) (u off n : Nat) (k : State → State) : State :=
  s.engineBank off n (.putgetUnit e.id u) (fun s => s.unitFault e u errGated (w64 off)) k

/-- Translate for a unit: a walk that has not been made comes first (17 R396, R400); a refusal found by a walk is not
kept. -/
def unitXlate (s : State) (e : PgEntry) (u va : Nat) (write : Bool) (k : Xlate → State → State) : State :=
  if s.needsWalk va then (s.after 1 (.translationWalk va)).after 1 (.putgetUnit e.id u)
  else match s.translate va write with
    | .ok x => k x (s.countHot x)
    | .error err =>
      let s := s.unitFault e u err (w64 va)
      { s with tile := { s.tile with tlb := s.tile.tlb.filter fun l => l.log2 != 0 } }

/-- A payload unit or notify write into the slice is a logged input (19 R444, R446). -/
def logUnit (s : State) (e : PgEntry) (u : Nat) (words : List Word) (ev : Instr) : State :=
  s.logged 4 s.core.num 0 (w64 (e.id % 16 + u % 2 ^ 11 * 16) :: words) ev

/-- Does a replay's log still hold the completion of an entry? Its `PUT` units are not written again (09 R240). -/
def completionLogged (s : State) (id : Nat) : Bool := s.tile.replay.any fun r => r.ev == some (.putgetEntryComplete id)

/-- One unit of a `PUT` (08 R210, R204). -/
def putUnit (s : State) (e : PgEntry) (u : Nat) : State :=
  let off := e.slice + 64 * u
  s.unitXlate e u (e.dev + 64 * u) true fun x s =>
    s.unitBank e u off 64 fun s =>
      let line := s.key off / 64
      let (data, m, poison, s) := (s.countReads 1).readG line (bytesAt s.mem (line * 64) 64)
      let put (s : State) : State :=
        let s := s.writeDevice x.dpa data (s.xlateKey x) poison
        let n := s.metaBits x.dpa
        if n = 0 then s else { s with metas := SMap.set 0 (s.route x.dpa / 64) (.ofNat 16 (m % 2 ^ n)) s.metas }
      (((if s.completionLogged e.id then s else put s).nextUnit e u).unitDone e.id 0 0)

/-- One unit of a `GET`. -/
def getUnit (s : State) (e : PgEntry) (u : Nat) : State :=
  let off := e.slice + 64 * u
  s.unitXlate e u (e.dev + 64 * u) false fun x s =>
    s.unitBank e u off 64 fun s =>
      let (now, s) := s.readDevice x.dpa 64 ((s.xlateKey x).map (·.2))
      let (data, m, poison, s) := s.readG (s.route x.dpa / 64) now
      let s := s.readAhead (e.dev + 64 * u + 64)
      let line := s.key off / 64
      let s := (s.land (.store (line * 64) (allOn data) poison)).writeMeta line (.ofNat 16 (m % 2 ^ s.metaBits x.dpa))
      (((s.logUnit e u [] (.putgetUnit e.id u)).nextUnit e u).unitDone e.id 0 0)

/-- The addresses of the 32 row lines of a sector, or their errors. -/
def sectorLines (s : State) (va pitch : Nat) : List (Except Nat Xlate) :=
  (List.range 32).map fun i => s.translate (va + i * pitch) false

/-- The addresses of a sector's row lines, where every row has one. -/
def linesOf (s : State) (xs : List (Except Nat Xlate)) : Option (List Nat) :=
  xs.mapM fun | .ok x => some (s.route x.dpa) | .error _ => none

/-- The column sector that a transposed `GET` hits: the same B, P and element size (08 R217), over the same row lines. -/
def columnHit (s : State) (va pitch es : Nat) (xs : List (Except Nat Xlate)) : Option ColSector :=
  s.rim.columns.find? fun c => c.base == va && c.pitch == pitch && c.es == es && some c.lines == s.linesOf xs

/-- The row lines of a sector as they are read, each as a whole (08 R217): bytes and poison, none for a row that fails. -/
def readRows (s : State) : List (Except Nat Xlate) → List (Option (List Byte × Bool)) × State
  | [] => ([], s)
  | .error _ :: xs =>
    let (rs, s) := readRows s xs
    (none :: rs, s)
  | .ok x :: xs =>
    let (b, s) := (s.countHot x).readDevice x.dpa 32 ((s.xlateKey x).map (·.2))
    let p := (SMap.find (s.route x.dpa / 64) s.poison).isSome
    let (rs, s) := readRows s xs
    (some (b, p) :: rs, s)

/-- A row that holds a destination byte of a sector, and the byte's place in the row (08 R216): element (i, j) stands at byte
w (32 j + i). -/
def rowOfByte (w p : Nat) : Nat × Nat := (p % (32 * w) / w, w * (p / (32 * w)) + p % w)

/-- The column sector that holds rows which are all there. -/
def columnOf (va pitch es : Nat) (lines : List Nat) (rows : List (Option (List Byte × Bool))) : ColSector :=
  let row (i : Nat) : List Byte × Bool := (rows.getD i none).getD ([], false)
  ⟨va, pitch, es, lines, (List.range 1024).map fun p => let (i, b) := rowOfByte (2 ^ es) p; (row i).1.getD b 0,
    (List.range 32).map fun i => (row i).2⟩

/-- A column sector that has been filled is kept (08 R215). -/
def keepColumn (s : State) (c : ColSector) : State :=
  let s := s.makeRoom (c.lines.headD 0 / 1024)
  { s with rim := { s.rim with columns := s.rim.columns ++ [c] } }

/-- What a sector brings: its 1,024 bytes, those of failed rows off, and which rows are poisoned; a miss fills a column sector
where every row line is HBM's (08 R215 to R217). -/
def sectorData (s : State) (va pitch es : Nat) (xs : List (Except Nat Xlate)) : List (Bool × Byte) × List Bool × State :=
  match s.columnHit va pitch es xs with
  | some c => (allOn c.data, c.poison, s)
  | none =>
    let (rows, s) := s.readRows xs
    let s := match s.linesOf xs with
      | some ls => if ls.all fun a => bits a 51 50 == 0 then s.keepColumn (columnOf va pitch es ls rows) else s
      | none => s
    ((List.range 1024).map fun p =>
        let (i, b) := rowOfByte (2 ^ es) p
        match rows.getD i none with
        | some (r, _) => (true, r.getD b 0)
        | none => (false, 0),
      rows.map fun r => (r.map (·.2)).getD false, s)

/-- One sector of a transposed `GET` (08 R216): a row that faults leaves its bytes unwritten, and the first of them gives
the error. A row line that is poisoned poisons every line that takes any of its bytes. -/
def sectorUnit (s : State) (e : PgEntry) (es pitch u : Nat) : State :=
  let off := e.slice + 1024 * u
  let va := e.dev + 32 * u
  match (List.range 32).find? fun i => s.needsWalk (va + i * pitch) with
  | some i => (s.after 1 (.translationWalk (va + i * pitch))).after 1 (.putgetUnit e.id u)
  | none =>
    s.unitBank e u off 1024 fun s =>
      let xs := s.sectorLines va pitch
      let (data, poison, s) := s.sectorData va pitch es xs
      let s := (List.range 16).foldl (fun s l =>
        let line := s.key off / 64 + l
        let part := (data.drop (64 * l)).take 64
        let bad := (List.range 64).any fun p => poison.getD (rowOfByte (2 ^ es) (64 * l + p)).1 false
        let s := s.land (.store (line * 64) part bad)
        if part.any (·.1) then s.writeMeta line 0 else s) s
      let s := (s.logUnit e u [] (.putgetUnit e.id u)).nextUnit e u
      let failed (i : Nat) : Option (Nat × Nat) := match xs[i]? with
        | some (.error x) => some (i, x)
        | _ => none
      match (List.range 32).findSome? failed with
      | some (i, x) => s.unitDone e.id x (w64 (va + i * pitch))
      | none => s.unitDone e.id 0 0

/-- One unit of a `RADD` leaves for its home core (08 R202). -/
def raddUnit (s : State) (e : PgEntry) (b16 : Bool) (u : Nat) : State :=
  let off := e.slice + 32 * u
  s.unitBank e u off 32 fun s =>
    let line := s.key off / 64
    let (data, _, poison, s) := (s.countReads 1).readG line (bytesAt s.mem (line * 64) 64)
    let unit := (data.drop (off % 64)).take 32
    let dst := e.dev + 32 * u - 2 ^ 63
    let q : Req := ⟨s.core.ltn, s.core.num, e.slot, dst / 2 ^ 26, bits dst 25 22, 0, .radd b16, .ofNat 22 dst,
      (List.range 4).map fun i => w64 (leNat ((unit.drop (8 * i)).take 8)), 0, poison, some e.id, 0⟩
    let s := s.nextUnit e u
    if s.localReq q then s.after 1 (.raddUnitAdd q) else s.sendReq q e.strand s.issue.info

/-! ## Completion (08 R210, R211) -/

/-- A counter rises, and keeps the first error (08 R211). -/
def raiseCounter (s : State) (k : BitVec 4) (err : Byte) (faddr : Word) : State :=
  let i : Fin 16 := k.toFin
  let c := s.core.k[i]
  let c' : Counter := ⟨c.count + 1, if c.err = 0 then err else c.err, if c.err = 0 ∧ err ≠ 0 then faddr else c.faddr⟩
  { s with core := { s.core with k := s.core.k.set i c' } }

/-- The notify write of an entry whose units have all performed without a fault. -/
def notifyStage (s : State) (e : PgEntry) : State :=
  let on (s : State) : State := (s.modEntry e.id fun e => { e with stage := 1 }).after 1 (.putgetEntryComplete e.id)
  match e.notify with
  | none => on s
  | some (key, v) =>
    if e.err ≠ 0 then on s
    else
      let dst := key - 2 ^ 63
      let off := bits dst 21 0
      if dst / 2 ^ 26 == s.core.ltn && bits dst 25 22 == s.core.num then
        s.engineBank off 8 (.putgetEntryComplete e.id)
          (fun s => (on s).modEntry e.id fun e => { e with err := .ofNat 8 errGated, faddr := w64 off })
          fun s => ((on s).land (.store key (allOn (leBytes 8 v.toNat)) false)).logUnit e e.units [v] (.putgetEntryComplete e.id)
      else
        (on s).sendReq ⟨s.core.ltn, s.core.num, e.slot, dst / 2 ^ 26, bits dst 25 22, 0, .notify, .ofNat 22 dst, [v],
          w64 (e.id % 16 + e.units % 2 ^ 11 * 16), false, some e.id, 0⟩ e.strand s.issue.info

/-- The counters of an entry, the local one first. -/
def counterStage (s : State) (e : PgEntry) : State :=
  let s := (s.modEntry e.id fun e => { e with stage := 2 }).after 1 (.putgetEntryComplete e.id)
  let up (s : State) (k : BitVec 4) : State :=
    (s.raiseCounter k e.err e.faddr).logged 5 s.core.num 0 [w64 (e.err.toNat * 2 ^ 56 + k.toNat), e.faddr]
      (.putgetEntryComplete e.id)
  let s := if e.ctr.cm.getLsbD 0 then up s e.ctr.lk else s
  if e.ctr.cm.getLsbD 1 then
    if e.ctr.rltn.toNat == s.core.ltn && e.ctr.rcore.toNat == s.core.num then up s e.ctr.rk
    else s.sendReq ⟨s.core.ltn, s.core.num, e.slot, e.ctr.rltn.toNat, e.ctr.rcore.toNat, 0,
      .count e.ctr.rk e.err e.faddr, 0, [], 0, false, some e.id, 0⟩ e.strand s.issue.info
  else s

end State

/-! ## Heads -/

def execRaddF32 (a b : Reg) (k n : BitVec 4) (s : State) : Result := s.radd false a b k n
def execRaddB16 (a b : Reg) (k n : BitVec 4) (s : State) : Result := s.radd true a b k n

/-- A hint that changes nothing a program can see (08 R205). -/
def execPref (x : BitVec 2) (a : Reg) (off : BitVec 18) (s : State) : Result :=
  s.issueHead [(Opd.src a).noPort] [] false fun s => .next (s.after 1 (.prefFill (formM s a off).toNat x))

def execPut (a b : Reg) (f : PgCtr) (len : BitVec 11) (s : State) : Result :=
  s.putget (fun _ => .put) a b none none f (len.toNat + 1) 64 true
def execGet (a b : Reg) (f : PgCtr) (len : BitVec 11) (s : State) : Result :=
  s.putget (fun _ => .get) a b none none f (len.toNat + 1) 64 true
def execGetTransposed (a b c : Reg) (f : PgCtr) (es : BitVec 2) (len : BitVec 7) (s : State) : Result :=
  s.putget (.transposed es) a b (some c) none f (len.toNat + 1) 1024 (es != 3)
def execPutn (d a b c : Reg) (f : PgCtr) (len : BitVec 11) (s : State) : Result :=
  s.putget (fun _ => .putn) a b none (some (d, c)) f (len.toNat + 1) 64 true
def execGetn (d a b c : Reg) (f : PgCtr) (len : BitVec 11) (s : State) : Result :=
  s.putget (fun _ => .getn) a b none (some (d, c)) f (len.toNat + 1) 64 true

/-- The trap of an error that a counter holds (08 R211). -/
def errTrap (e : Byte) : BitVec 9 := if e.toNat = errGated then cGATED else cXLATE

/-- Waits for a counter (08 R212). -/
def execWaitk (d a : Reg) (k : BitVec 4) (s : State) : Result :=
  s.issueHead [(Opd.dst d).noPort, (Opd.src a).noPort] [] false fun s =>
    let t := s.regW a.toNat
    let i : Fin 16 := k.toFin
    let c := s.core.k[i]
    if 2 ^ 32 ≤ t.toNat then s.raise cRANGE
    else if c.err ≠ 0 then
      ({ s with core := { s.core with k := s.core.k.set i ⟨c.count, 0, 0⟩ } } : State).raise (errTrap c.err) c.faddr
        (c.err.setWidth 32)
    else if t.toNat ≤ c.count.toNat then
      .next (({ s with core := { s.core with k := s.core.k.set i ⟨c.count - t.setWidth 32, 0, c.faddr⟩ } } : State).setW
        s.issue.slot d.toNat (c.count.setWidth 64))
    else s.sleep (.counter k t.toNat)

/-- Waits for a local word (08 R213). -/
def execWaita (d a b : Reg) (q : Bool) (s : State) : Result :=
  s.issueHead [(Opd.dst d).noPort, (Opd.src a).noPort, Opd.src b] [] false fun s =>
    let (v, r) := s.readW b
    let ea := s.regW a.toNat
    match s.checkLocal ea 8 8 with
    | .trap c => s.raise c ea
    | .waking bank => (s.startWake bank).forfeit
    | .remote .. => s.raise cADDRESS ea
    | .here off =>
      if s.lowerBuffers (s.key off / 64) then s.sleep (.line (s.key off / 64))
      else if s.payloadHeld off 8 then s.forfeit
      else match s.grant off true with
      | .forfeit => s.forfeit
      | .bubble => s.bubble
      | .ok t =>
        if t.poisoned (t.key off) 8 then s.raise cPOISON ea
        else
          let (bs, t) := t.loadBytes (t.key off) 8
          let w := w64 (leNat bs)
          if (w == v) != q then
            .next ({ t with core := { t.core with mq := r.core.mq } }.setW s.issue.slot d.toNat w)
          else s.sleep (.word (.ofNat 22 off) v q)

/-! ## Events -/

/-- The rim cache fills row sectors, or drops the request (08 R205). -/
def execPrefFill (ea : Nat) (x : BitVec 2) (s : State) : Result :=
  if bits ea 63 57 != 0 then .next s
  else
    .next ((List.range (4 ^ x.toNat)).foldl (fun s i =>
      let va := (ea / 64 + i) * 64
      let s := s.walked va
      match s.translate va false with
      | .ok p => if bits p.dpa 51 50 = 0 then s.modRow (s.route p.dpa / 1024) fun r => { r with valid := BitVec.allOnes 32 }
        else s
      | .error _ => s) s)

/-- One unit of an entry (08 R210). -/
def execPutgetUnit (id unit : Nat) (s : State) : Result :=
  match s.core.pg.find? fun e => e.id == id && e.started == unit && e.stage == 0 && decide (unit < e.units) with
  | none => .next s
  | some e => .next (match e.kind with
    | .put | .putn => s.putUnit e unit
    | .get | .getn => s.getUnit e unit
    | .transposed es pitch => s.sectorUnit e es.toNat pitch unit
    | .radd b16 => s.raddUnit e b16 unit)

/-- Once every unit has performed: the notify write, then the counters, then the entry is free (08 R206, R210). -/
def execPutgetEntryComplete (id : Nat) (s : State) : Result :=
  match s.core.pg.find? fun e => e.id == id with
  | none => .next s
  | some e =>
    if e.performed < e.units || s.tile.sent.any (fun x => x.q.entry == some id && x.q.sltn == s.core.ltn) then .next s
    else .next (match e.stage with
      | 0 => s.notifyStage e
      | 1 => s.counterStage e
      | _ => { s with core := { s.core with pg := s.core.pg.filter fun e => e.id != id } })

/-- Eight FP32 or sixteen BF16 sums, each rounded once to nearest, subnormals as zeros (08 R202). -/
def raddBytes (b16 : Bool) (old new : List Byte) : List Byte :=
  let c := if b16 then cBF16 else cFP32
  let n := if b16 then 2 else 4
  (List.range (32 / n)).flatMap fun j =>
    let x := leNat ((old.drop (n * j)).take n)
    let y := leNat ((new.drop (n * j)).take n)
    match operandF c true x, operandF c true y with
    | some (x, _), some (y, _) => leBytes n (roundF c ⟨0, true, 0⟩ (Val.add 0 x y).1).1
    | _, _ => leBytes n x

/-- A unit of a `RADD` is added at its home core's atomic unit; poison of either side stays in the line (08 R202, 17
R407). -/
def execRaddUnitAdd (q : Req) (s : State) : Result :=
  s.arriveReq q (.raddUnitAdd q) fun s k =>
    match q.kind with
    | .radd b16 =>
      let new := (q.data.map fun w => leBytes 8 w.toNat).flatten
      let s := s.homeWrite q k (allOn (raddBytes b16 (bytesAt s.mem k 32) new)) q.poison
      if s.localReq q then s.localDone q 0 none else s.replyTo q 2 0 []
    | _ => s

/-- An increment from another tile's entry (08 R214). -/
def execRemoteCounterIncrement (q : Req) (s : State) : Result :=
  s.arriveReq q (.remoteCounterIncrement q) fun s _ =>
    match q.kind with
    | .count k err faddr =>
      let s := if q.dltn == s.core.ltn && q.dcore == s.core.num then s.raiseCounter k err faddr else s
      s.replyTo q 2 0 []
    | _ => s

/-- A row sector writes back its dirty bytes under their byte masks and leaves; a column sector is discarded (08 R215,
R217). -/
def execRowSectorEviction (base : Nat) (s : State) : Result :=
  let s := s.evictRow (base / 1024)
  .next { s with rim := { s.rim with columns := s.rim.columns.filter fun c => c.base != base } }

end Sys2Proof.Machine
end

