-- ==== Sys2Proof/Machine/Fences.lean ====
section
/-! DEFINITION. Fences (09 R226 to R232) and the settling and commit of stamped tasks (09 R233 to R237). -/

namespace Sys2Proof.Machine

namespace State

/-! ## What a strand has outstanding -/

/-- Has a strand, as a speculative task, stores that stand in its buffer and have not performed (09 R233)? -/
def buffersStores (s : State) (strand : Nat) : Bool :=
  allSlots.any fun i => (s.slot i).strand == strand && (match s.speculative i with
    | some t => !t.lines.isEmpty
    | none => false)

/-- Its stores and atomics have all been answered or have performed, the lines of its `RECV`s have been written, and its streams
have ended (09 R230, 12 R306). What a
speculative task buffers performs at its commit: the fence waits for it (log entry 15). -/
def pathC (s : State) (strand : Nat) : Bool :=
  !s.buffersStores strand
  && allSlots.all (fun i => (s.slot i).strand != strand || (s.slot i).payload.all (·.write.isNone))
  && s.tile.sent.all (fun x => !(x.strand == strand && x.q.entry.isNone && (match x.q.kind with
    | .load _ => false
    | _ => true)))
  && s.core.streams.all fun m => m.strand != strand

/-- The payload, notify writes and `RADD` units of its entries have performed. -/
def pathG (s : State) (strand : Nat) : Bool :=
  s.core.pg.all fun e => e.strand != strand || decide (2 ≤ e.stage)
    || (e.stage == 1 && !s.tile.sent.any fun x => x.q.entry == some e.id)

/-- Its `MRD` writes have performed. -/
def pathM (s : State) (strand : Nat) : Bool :=
  s.core.mat.all fun o => !(o.kind == .mrd && (s.slot o.slot).strand == strand)

/-- The condition of `FENCE.O` for any observer (09 R230). -/
def strongDone (s : State) (strand : Nat) : Bool := s.pathC strand && s.pathG strand && s.pathM strand

/-- The condition of `FENCE.X` (09 R231): the writes of the named paths. -/
def pathsDone (s : State) (strand : Nat) (from_ : BitVec 6) : Bool :=
  (!from_.getLsbD 0 || s.pathC strand) && (!from_.getLsbD 1 || s.pathG strand) && (!from_.getLsbD 2 || s.pathM strand)

/-- The condition of `FENCE.L` (09 R232). -/
def allDone (s : State) (strand : Nat) : Bool :=
  s.strongDone strand && s.tile.sent.all (fun x => x.strand != strand || x.q.entry.isSome)
    && s.core.pg.all fun e => e.strand != strand

/-- Drop the read buffers of the paths G, M and D in a mask (09 R230, R231). -/
def dropBuffers (s : State) (m : BitVec 6) : State :=
  { s with core := { s.core with
    bufG := if m.getLsbD 1 then [] else s.core.bufG
    bufM := if m.getLsbD 2 then [] else s.core.bufM
    bufD := if m.getLsbD 3 then [] else s.core.bufD } }

/-! ## Stamped tasks -/

/-- Stamps of tasks that have been spawned and have not started, in the arrival queue or in a packet of this tile, and of
those spilled (11 R268, 16 R388). -/
def pendingStamps (s : State) : List Word :=
  s.core.arrivals.filterMap (·.stamp) ++ (s.core.spilled.filterMap fun c => c.2.slot.task.map (·.key.stamp)) ++ s.tile.hold.filterMap fun h => match h.p.body with
    | .arrival a => a.stamp
    | _ => none

/-- Does a slot's task hold the lowest key of the stand's outstanding tasks, those of other cores and tiles among them (09
R235)? Log entry 6. -/
def holdsLowest (s : State) (i : Fin 16) : Bool :=
  match (s.slot i).task with
  | none => false
  | some t => allSlots.all (fun j => j == i || (match (s.slot j).task with
      | some u => t.key.lt u.key
      | none => true))
    && s.pendingStamps.all (fun w => decide (t.key.stamp.toNat ≤ w.toNat)) && s.others.keys.all t.key.lt

end State

/-! ## Heads -/

/-- Waits for the strand's accesses to a rectangle (09 R229). -/
def execFenceR (a : Reg) (s : State) : Result :=
  s.issueHead [(Opd.src a).noPort] [] false fun s =>
    match s.rectOperand (s.regW a.toNat) with
    | none => s.raise cRANGE
    | some r => if s.rectClear s.me.strand r then .next s else s.sleep (.rect r)

/-- Waits until every strong access is visible to the classes named; copies in their buffers are dropped (09 R230,
log entry 15). -/
def execFenceO (obs : BitVec 6) (s : State) : Result :=
  s.issueHead [] [] false (extra := obs != 0) fun s =>
    if s.strongDone s.me.strand then .next (s.dropBuffers obs) else s.sleep .strong

/-- Waits for the writes of the FROM paths and drops the buffers of the TO paths (09 R231). -/
def execFenceX (src dst : BitVec 6) (s : State) : Result :=
  s.issueHead [] [] false (extra := src != 0 && dst != 0) fun s =>
    if s.pathsDone s.me.strand src then .next (s.dropBuffers dst) else s.sleep (.paths src)

/-- Waits for every access of the strand (09 R232). -/
def execFenceL (s : State) : Result :=
  s.issueHead [] [] false fun s => if s.allDone s.me.strand then .next s else s.sleep .all

/-! ## Events -/

/-- A task that holds the lowest key is settled: it is never aborted, and its buffer commits (09 R235). -/
def execTaskSettle (slot : Fin 16) (s : State) : Result :=
  match s.speculative slot with
  | none => .next s
  | some _ =>
    if s.holdsLowest slot then
      .next ((s.modTask slot fun t => { t with settled := true }).after 0 (.taskCommit slot))
    else .next s

/-- The buffered lines of a settled task perform together, each with its own masked bytes. The commit takes one cycle for
every 16 lines: every access to them waits until it is over, and the task goes on then (09 R234, R236). -/
def execTaskCommit (slot : Fin 16) (s : State) : Result :=
  match (s.slot slot).task with
  | none => .next s
  | some t =>
    if !t.settled then .next s
    else
      let s := t.lines.foldl (fun s (line, l) => s.writeLanes (some slot) (line * 64) (l.mask.zip l.data)) s
      let s := s.modTask slot fun t => { t with lines := [], reads := [] }
      let until_ := s.tile.cycle + (t.lines.length + 15) / 16
      let s : State := { s with core := { s.core with
        commits := s.core.commits.filter (fun c => decide (s.tile.cycle < c.1)) ++ [(until_, t.lines.map (·.1))] } }
      .next (s.modSlot slot fun x => if x.st == .sleep && x.wait == some .lowestKey
        then { x with wait := some (.cycle until_) } else x)

end Sys2Proof.Machine
end

