-- ==== Sys2Proof/Machine/Pages.lean ====
section
/-! DEFINITION. The heads that change translation, keys and poison, and the tiering engine (17 R397 to R409). -/

namespace Sys2Proof.Machine

namespace State

/-! ## Class-0 updates (17 R398, R402) -/

/-- A class-0 update reaches every tile of the stand within the bound of `.W` (11 R289, log entry 7): our tile applies it
then, and the issuing strand wakes. -/
def class0Wait : Nat := 300

def viaClass0 (s : State) (ev : Instr) : State :=
  (s.after class0Wait ev).await (.cycle (s.tile.cycle + class0Wait))

/-- Is a range-table image with V = 1 acceptable (17 R398)? -/
def rangeOk (e : BitVec 256) : Bool :=
  let w (i : Nat) : Nat := (e.extractLsb' (64 * i) 64).toNat
  let base := bits (w 0) 56 12
  let limit := bits (w 1) 56 12
  let last := bits (w 2) 51 12 * 4096 + (limit - base) * 4096 + 4095
  !(w 0).testBit 63 ||
    (bits (w 0) 62 57 == 0 && bits (w 0) 11 0 == 0 && bits (w 1) 63 57 == 0 && bits (w 1) 11 0 == 0
      && bits (w 2) 63 52 == 0 && bits (w 2) 11 0 == 0 && bits (w 3) 63 57 == 0 && bits (w 3) 52 0 == 0
      && decide (base ≤ limit) && (!(w 3).testBit 53 || (w 3).testBit 56)
      && decide (last < 2 ^ 52) && last / 2 ^ 50 == bits (w 2) 51 50)

/-- Is a table entry that maps an address held by a swap pair (17 R409)? -/
def pairHolds (s : State) (leafAt : Nat) : Bool := s.rim.pairs.any fun p => p.farLeaf == leafAt || p.nearLeaf == leafAt

/-- Is the leaf of a device-virtual address in a swap pair? -/
def inPair (s : State) (va : Nat) : Bool :=
  match s.stand with
  | some t => (match walk s t va with
    | .ok x => (x.leafAt.map s.pairHolds).getD false
    | .error _ => false)
  | none => false

/-- A read of n bytes of the own slice by a head, at most two lines (17 R398, R406). -/
def readLocal (s : State) (ea : Word) (n align : Nat) (k : List Byte → State → Result) : Result :=
  match s.checkLocal ea n align with
  | .trap c => s.raise c ea
  | .remote .. => s.raise cADDRESS ea
  | .waking b => (s.startWake b).forfeit
  | .here off =>
    if s.payloadHeld off n then s.forfeit
    else match s.grant off true with
    | .forfeit => s.forfeit
    | .bubble => s.bubble
    | .ok t =>
      if t.poisoned (t.key off) n then s.raise cPOISON ea
      else
        let (b, t) := t.loadBytes (t.key off) n
        k b t

/-! ## Keys (17 R406) -/

/-- The stand's key slot (16 R371). -/
def keySlot (s : State) : Nat :=
  match s.stand with
  | some t => bits t.b.toNat 53 48
  | none => 0

/-- The status word of `KEYSEL` with a result. -/
def keyStatus (s : State) (result : Nat) : Word :=
  w64 ((SMap.find s.keySlot s.rim.keys).isSome.toNat * 2 ^ 63 + result * 2 ^ 60 + s.keySlot)

/-- Has the stand a device access outstanding to an ENC page? -/
def encOutstanding (s : State) : Bool :=
  s.core.pg.any fun e => e.stage == 0 && (match e.kind with
    | .radd _ => false
    | .transposed _ pitch => (List.range (e.units - e.started)).any fun u => (List.range 32).any fun i =>
        encAt s (e.dev + 32 * (e.started + u) + i * pitch)
    | _ => (List.range (e.units - e.started)).any fun u => encAt s (e.dev + 64 * (e.started + u)))
where
  encAt (s : State) (va : Nat) : Bool :=
    match s.stand with
    | some t => (match s.translateIn t s.tile.ranges true va with
      | .ok x => x.attrs.getLsbD 55
      | .error _ => false)
    | none => false

/-- The rim's answer to `KEYSEL` (log entry 7): d has its value and the strand sleeps until it comes. -/
def keyAnswer (s : State) (d : Reg) (result : Nat) : Result :=
  .next ((s.writeW d (s.keyStatus result)).await (.cycle (s.tile.cycle + class0Wait)))

/-! ## Poison (17 R408) -/

/-- The local line of `POISONQ`: its address with bits [5:0] ignored; another core's is refused. -/
def poisonLine (s : State) (a : Reg) (read : Bool) (k : Nat → State → State → Result) : Result :=
  let (x, r) := s.readW a
  let ea := x &&& ~~~63
  match s.addrForm ea with
  | none => s.raise cADDRESS x
  | some (l, c, _) =>
    if !(l == s.core.ltn && c == s.core.num) then s.raise cADDRESS x
    else s.access ea 64 64 read
      (fun off => match r.grant off read with
        | .forfeit => s.forfeit
        | .bubble => s.bubble
        | .ok t => k off r t)
      (fun _ _ _ => s.raise cADDRESS x)

/-- A device line of `POISONQ`: its translation, or the result that names the error. -/
def poisonDevice (s : State) (d a : Reg) (clear : Bool) : Result :=
  s.issueHead [.dst d, .src a] [] false fun s =>
    let (x, r) := s.readW a
    let va := x.toNat / 64 * 64
    s.settledOr fun _ =>
    if s.windowsFull then s.raise cWINDOW
    else
      let answer (t : State) (v : Word) : Result := .next (t.longResult 0 class0Wait [.reg d v])
      let r := r.walked va
      match (if bits x.toNat 63 57 != 0 then .error errMap else r.translate va clear) with
      | .error e => answer r (w64 e)
      | .ok p =>
        let flag := w64 ((SMap.find (r.route p.dpa / 64) r.poison).isSome.toNat * 2 ^ 63)
        if clear then
          let t := r.writeDevice p.dpa (List.replicate 64 0) (r.xlateKey p)
          answer { t with metas := SMap.erase (r.route p.dpa / 64) t.metas } flag
        else answer r flag

end State

/-! ## Heads -/

/-- Writes an entry of the stand's range table on every tile (17 R398). -/
def execRtset (a : Reg) (n : BitVec 6) (s : State) : Result :=
  s.issueHead [(Opd.src a).noPort] [] true fun s =>
    s.readLocal (s.regW a.toNat) 32 32 fun b t =>
      let e : BitVec 256 := .ofNat 256 (leNat b)
      if !State.rangeOk e then s.raise cRANGE
      else .next ((t.modStand fun t => { t with ranges := SMap.set 0 n.toNat e t.ranges }).viaClass0 (.rtsetApply n e))

/-- Drops the leaves that cover an address; a page in a swap pair is waited for (17 R402, R409). -/
def execTlbinvAddr (a : Reg) (s : State) : Result :=
  s.issueHead [(Opd.src a).noPort] [] true fun s =>
    let va := (s.regW a.toNat).toNat
    if s.inPair va then s.sleep (.cycle (s.tile.cycle + 8)) else .next (s.viaClass0 (.tlbinvApply false va))

/-- Drops every leaf of the stand; a must be zero (17 R402). -/
def execTlbinvAll (a : Reg) (s : State) : Result :=
  s.issueHead [(Opd.src a).noPort] [] true fun s =>
    if s.regW a.toNat ≠ 0 then s.raise cRANGE
    else if s.rim.pairs.any fun p => p.stand == s.standNo then s.sleep (.cycle (s.tile.cycle + 8))
    else .next (s.viaClass0 (.tlbinvApply true 0))

/-- The bits of a table entry that each mask bit of `PGATTR` names (17 R405). -/
def attrMask (mask : BitVec 6) : Word :=
  (if mask.getLsbD 0 then 0x1800000000000000 else 0) ||| (if mask.getLsbD 1 then 0x0200000000000000 else 0)
    ||| (if mask.getLsbD 2 then 0x0100000000000000 else 0) ||| (if mask.getLsbD 3 then 0x0080000000000000 else 0)
    ||| (if mask.getLsbD 4 then 0x0040000000000000 else 0) ||| (if mask.getLsbD 5 then 0x0020000000000000 else 0)

/-- Begins a conversion; the rim makes one at a time, and a further one waits (17 R405, log entry 16). -/
def execPgattr (d a b : Reg) (mask : BitVec 6) (s : State) : Result :=
  s.issueHead [(Opd.dst d).noPort, (Opd.src a).noPort, (Opd.src b).noPort] [] true fun s =>
    let va := (s.regW a.toNat).toNat
    let m := attrMask mask
    let want := s.regW b.toNat
    let answer (v : Word) : Result :=
      if s.windowsFull then s.raise cWINDOW else .next (s.longResult 0 State.class0Wait [.reg d v])
    if mask.getLsbD 0 && bits want.toNat 60 59 == 3 then s.raise cRANGE
    else if bits va 63 57 != 0 then answer (w64 (errMap * 2 ^ 56))
    else match s.stand with
    | none => answer (w64 (errRefused * 2 ^ 56))
    | some t =>
      if (State.rangeHit s.tile.ranges va).isSome then answer (w64 (0x10 * 2 ^ 56))
      else if !t.ptroot.getLsbD 63 then answer (w64 (errMap * 2 ^ 56))
      else match s.walkGranted t va with
      | .error e => answer (w64 (e * 2 ^ 56))
      | .ok x =>
        let new := (x.attrs &&& ~~~m) ||| (want &&& m)
        if (new.getLsbD 53 && !new.getLsbD 56) || (mask.getLsbD 1 && new.getLsbD 57 && x.log2 != 12) then s.raise cRANGE
        else if s.windowsFull then s.raise cWINDOW
        else if s.rim.convert.isSome then s.sleep (.cycle (s.tile.cycle + 8))
        else
          let tag := s.core.nextTag
          let w : Window := ⟨tag, 0, false, [.reg d (x.attrs &&& 0x1FE0000000000000)], .known, none, s.issue.info, none, false, none, none⟩
          let s := s.openWindow 0 w
          .next (({ s with rim := { s.rim with
            convert := some ⟨s.issue.slot, tag, x.dpa / 2 ^ x.log2 * 2 ^ x.log2, x.leafAt.getD 0, x.attrs, new, x.log2⟩ } } :
              State).after (2 ^ x.log2 / 64) (.pgattrComplete s.issue.slot))

/-- Unwraps 72 bytes and installs the key pair if the slot is erased (17 R406). -/
def execKeyselLoad (d a : Reg) (s : State) : Result :=
  s.issueHead [.dst d, .src a] [] true fun s₁ =>
    let (x, r) := s₁.readW a
    s₁.readLocal x 72 8 fun b t =>
      let t : State := { t with core := { t.core with mq := r.core.mq } }
      match Config.keyUnwrap b with
      | none => t.keyAnswer d 1
      | some k =>
        if (SMap.find t.keySlot t.rim.keys).isSome then t.keyAnswer d 2
        else ({ t with rim := { t.rim with keys := SMap.put t.keySlot k t.rim.keys } } : State).keyAnswer d 0

/-- Waits for the accesses to ENC pages and zeroes the slot (17 R406). -/
def execKeyselErase (d : Reg) (s : State) : Result :=
  s.issueHead [.dst d] [] true fun s =>
    if s.encOutstanding then s.sleep .encrypted
    else ({ s with rim := { s.rim with keys := SMap.erase s.keySlot s.rim.keys } } : State).keyAnswer d 0

def execKeyselStatus (d : Reg) (s : State) : Result :=
  s.issueHead [.dst d] [] true fun s => s.keyAnswer d 0

def execPoisonqReadLocal (d a : Reg) (s : State) : Result :=
  s.issueHead [.dst d, .src a] [] false fun s =>
    s.poisonLine a true fun off _ t =>
      .next (t.writeW d (w64 ((SMap.find (t.key off / 64) t.poison).isSome.toNat * 2 ^ 63)))

/-- One write of 64 zero bytes and zero metadata (17 R408). -/
def execPoisonqClearLocal (d a : Reg) (s : State) : Result :=
  s.issueHead [.dst d, .src a] [] false fun s =>
    s.settledOr fun _ =>
    s.poisonLine a false fun off _ t =>
      let line := t.key off / 64
      let flag := w64 ((SMap.find line t.poison).isSome.toNat * 2 ^ 63)
      .next (((t.write (some t.issue.slot) (t.key off) (List.replicate 64 0)).writeMeta line 0).writeW d flag)

def execPoisonqReadDevice (d a : Reg) (s : State) : Result := s.poisonDevice d a false
def execPoisonqClearDevice (d a : Reg) (s : State) : Result := s.poisonDevice d a true

/-! ## Events -/

/-- The tile replaces its copy and drops its cached leaves (17 R398). -/
def execRtsetApply (n : BitVec 6) (e : BitVec 256) (s : State) : Result :=
  let s : State := { s with tile := { s.tile with ranges := SMap.set 0 n.toNat e s.tile.ranges, tlb := [] } }
  .next (s.logged 6 0 0 [w64 n.toNat, e.extractLsb' 0 64, e.extractLsb' 64 64, e.extractLsb' 128 64, e.extractLsb' 192 64]
    (.rtsetApply n e))

/-- The tile drops the named leaves (17 R402). -/
def execTlbinvApply (all : Bool) (va : Nat) (s : State) : Result :=
  match s.stand with
  | none => .next s
  | some t =>
    .next ((s.dropLeaves (State.asidOf t) (if all then none else some va)).logged 6 0 0 [w64 all.toNat, w64 va]
      (.tlbinvApply all va))

/-- Metadata bits that a grade frees (08 R204). -/
def gradeBits (g : Nat) : Nat := match g with | 0 => 16 | 1 => 8 | _ => 0

/-- The conversion ends: every line has its new form, the leaf and the grade map are written, and the leaf is dropped
from every cache; a leaf in a swap pair is waited for (17 R405). All lines convert in this event (log entry 16). -/
def execPgattrComplete (slot : Fin 16) (s : State) : Result :=
  match s.rim.convert with
  | none => .next s
  | some c =>
    if c.slot != slot then .next s
    else if s.pairHolds c.leaf then .next (s.after 8 (.pgattrComplete slot))
    else
      let hbm := bits c.dev 51 50 == 0
      let lines := 2 ^ c.line / 64
      let keep := min (gradeBits (bits c.old.toNat 60 59)) (gradeBits (bits c.new.toNat 60 59))
      let key : Option (BitVec 512) :=
        if c.new.getLsbD 55 then some ((SMap.find s.keySlot s.rim.keys).getD ((Config.freeValue s.fresh).setWidth 512))
        else none
      let s : State := { s with fresh := s.fresh + 1 }
      let s := (List.range lines).foldl (fun s i =>
        let l := c.dev / 64 + i
        { s with
          metas := if hbm then SMap.set 0 l (.ofNat 16 ((SMap.getD s.metas l 0).toNat % 2 ^ keep)) s.metas else s.metas
          rim := { s.rim with lineKeys := match key with
            | some k => SMap.put l k s.rim.lineKeys
            | none => SMap.erase l s.rim.lineKeys } }) s
      let entry : BitVec 2 × Option Nat :=
        (.ofNat 2 (bits c.new.toNat 60 59), if c.new.getLsbD 55 then some s.keySlot else none)
      let frames := if hbm then (List.range (2 ^ c.line / 4096)).foldl (fun m i =>
          SMap.set (1, none) (c.dev / 4096 + i) entry m) s.rim.frames else s.rim.frames
      let s : State := { s with rim := { s.rim with frames := frames } }
      let entries := if c.old.getLsbD 61 then 16 else 1
      let s := (List.range entries).foldl (fun s i =>
        let a := c.leaf + 8 * i
        let e := w64 (natAt s.mem a 8)
        (s.touchRows a 8).write none a (leBytes 8
          ((e &&& 0xE01FFFFFFFFFFFFF) ||| (c.new &&& 0x1FE0000000000000)).toNat)) s
      let s : State := { s with
        rim := { s.rim with convert := none }
        tile := { s.tile with tlb := s.tile.tlb.filter fun l => l.entryAt != c.leaf } }
      execLongResultArrival slot c.tag s

/-! ## Tiering (17 R409) -/

/-- The 4 KiB leaves of a stand's table at an address and below that a walk could reach and whose page the grant holds (17 R395,
R400): the address of each entry and the entry. Only entries that memory lists can have V = 1. -/
def leavesOf (m : List Host.Cell) (t : Stand) : Nat → Nat → Nat → List (Nat × Word)
  | 0, _, _ => []
  | fuel + 1, lvl, tbl =>
    let n := if lvl = 0 then 262144 else 512
    if !State.tableGranted t tbl then []
    else (m.filter fun (k, b) => decide (tbl ≤ k) && decide (k < tbl + 8 * n) && k % 8 == 7 && b.getLsbD 7).flatMap fun (k, _) =>
      let e := w64 (natAt m (k - 7) 8)
      let frame := bits e.toNat 51 12 * 4096
      if State.entryBad lvl e then []
      else if e.getLsbD 62 then (if lvl = 3 ∧ !e.getLsbD 61 ∧ State.granted t frame then [(k - 7, e)] else [])
      else leavesOf m t fuel (lvl + 1) frame

/-- Cycles of the core clock in a microsecond, at the nominal 1.9 GHz (00 R4, log entry 7). -/
def ccPerUs : Nat := 1900

namespace State

/-- The leaf of fewest accesses. -/
def coldest (s : State) : List (Nat × Word) → Option (Nat × Word)
  | [] => none
  | p :: ps =>
    match coldest s ps with
    | none => some p
    | some q => if SMap.getD s.rim.hot p.1 0 ≤ SMap.getD s.rim.hot q.1 0 then some p else some q

/-- Pair each hot far page with a cold near page, while pairs are free. -/
def formPairs (s : State) (leaves : List (Nat × Word)) (most : Nat) : List (Nat × Word) → State
  | [] => s
  | (fa, fe) :: fs =>
    if most ≤ s.rim.pairs.length then s
    else
      match s.coldest (leaves.filter fun (a, e) =>
          e.getLsbD 57 && !e.getLsbD 58 && !e.getLsbD 56 && bits e.toNat 51 50 == 0 && !s.pairHolds a) with
      | none => s
      | some (na, ne) =>
        let p : SwapPair := ⟨s.rim.nextPair, s.standNo, fa, na, bits fe.toNat 51 12 * 4096, bits ne.toNat 51 12 * 4096, 0⟩
        let s : State := { s with rim := { s.rim with pairs := s.rim.pairs ++ [p], nextPair := s.rim.nextPair + 1 } }
        formPairs (s.afterClk 1 (.tierCopyLine p.id)) leaves most fs

end State

/-- An epoch ends: pages that reached HOT are paired, pinned ones are skipped and counted, and the next epoch begins. -/
def execTierEpochEnd (s : State) : Result :=
  match s.stand with
  | none => .next s
  | some t =>
    if !t.tierctl.getLsbD 63 then .next s
    else
      let leaves := leavesOf s.mem t 4 0 (bits t.ptroot.toNat 51 12 * 4096)
      let hot := leaves.filter fun (a, e) =>
        e.getLsbD 57 && e.getLsbD 58 && decide (bits t.tierctl.toNat 47 32 ≤ SMap.getD s.rim.hot a 0) && !s.pairHolds a
      let skipped := (hot.filter fun (_, e) => e.getLsbD 56).length
      let most := max 1 (bits t.tierctl.toNat 19 16)
      let s := s.modStand fun t => { t with tierskip := t.tierskip + w64 skipped }
      let s := s.formPairs leaves most (hot.filter fun (_, e) => !e.getLsbD 56)
      .next (({ s with rim := { s.rim with hot := [] } } : State).afterClk (ccPerUs * max 1 (bits t.tierctl.toNat 15 0))
        .tierEpochEnd)

/-- One line of a pair is exchanged as one operation, with its metadata, poison and encryption. -/
def execTierCopyLine (pair : Nat) (s : State) : Result :=
  match s.rim.pairs.find? fun p => p.id == pair with
  | none => .next s
  | some p =>
    if 64 ≤ p.next then .next s
    else
      let f := p.farFrame + 64 * p.next
      let n := p.nearFrame + 64 * p.next
      let fb := bytesAt s.mem f 64
      let nb := bytesAt s.mem n 64
      let swap {α} (m : SMap α) : SMap α :=
        let x := SMap.find (f / 64) m
        let y := SMap.find (n / 64) m
        let m := match y with
          | some v => SMap.put (f / 64) v m
          | none => SMap.erase (f / 64) m
        match x with
        | some v => SMap.put (n / 64) v m
        | none => SMap.erase (n / 64) m
      let slot := bits (((s.standAt p.stand).map fun t => t.b.toNat).getD 0) 53 48
      let key (leaf : Nat) : Option Nat := if (w64 (natAt s.mem leaf 8)).getLsbD 55 then some slot else none
      let s := s.touchRows n 64
      let frames := SMap.set (1, none) (n / 4096) ((s.frameOf n).1, key p.farLeaf) s.rim.frames
      let pairs := s.rim.pairs.map fun q => if q.id = pair then { q with next := q.next + 1 } else q
      let s : State := { s with
        mem := putBytes (putBytes s.mem f nb) n fb
        metas := swap s.metas
        poison := swap s.poison
        rim := { s.rim with
          lineKeys := swap s.rim.lineKeys
          frames := frames
          pairs := pairs } }
      .next (s.afterClk 1 (if p.next = 63 then .tierSwitch pair else .tierCopyLine pair))

/-- Both leaves are rewritten with FRAME and TIER exchanged, the grade going with its frame (log entry 16), and dropped
from every cache. -/
def execTierSwitch (pair : Nat) (s : State) : Result :=
  match s.rim.pairs.find? fun p => p.id == pair with
  | none => .next s
  | some p =>
    if p.next < 64 then .next s
    else
      let m : Word := 0x1C0FFFFFFFFFF000
      let fe := w64 (natAt s.mem p.farLeaf 8)
      let ne := w64 (natAt s.mem p.nearLeaf 8)
      let s := (s.touchRows p.farLeaf 8).write none p.farLeaf (leBytes 8 ((fe &&& ~~~m) ||| (ne &&& m)).toNat)
      let s := (s.touchRows p.nearLeaf 8).write none p.nearLeaf (leBytes 8 ((ne &&& ~~~m) ||| (fe &&& m)).toNat)
      .next { s with
        rim := { s.rim with pairs := s.rim.pairs.filter fun q => q.id != pair }
        tile := { s.tile with tlb := s.tile.tlb.filter fun l => l.entryAt != p.farLeaf && l.entryAt != p.nearLeaf } }

end Sys2Proof.Machine
end

