-- ==== Sys2Proof/Machine/Messages.lean ====
section
/-! DEFINITION. Messages, inbound queues and port bindings (12 R293 to R308), the channels of the message network (12
R294, R295), the bucker (12 R302), replies (20 R463) and keyring changes (20 R475, R476). -/

namespace Sys2Proof.Machine

/-- A record's bytes as a number (13 R312). -/
def deltaOf (v : Nat) (poison : Bool) : Delta :=
  ⟨w64 v, w64 (v / 2 ^ 64), w64 (v / 2 ^ 128), .ofNat 32 (v / 2 ^ 224), .ofNat 32 (v / 2 ^ 192), poison⟩

def deltaNat (r : Delta) : Nat :=
  r.key.toNat + 2 ^ 64 * r.val.toNat + 2 ^ 128 * r.time.toNat + 2 ^ 192 * r.diff.toNat + 2 ^ 224 * r.tag.toNat

namespace State

/-! ## Writes of the rim controller -/

/-- Write an image to device-virtual memory, a line at a time; what is not mapped is not written. The lines written are
returned. -/
def writeVirtual (s : State) (va : Nat) : Nat → List Byte → List (Nat × List Byte) × State
  | 0, _ => ([], s)
  | n + 1, data =>
    if data.isEmpty then ([], s)
    else
      let k := min 64 (64 - va % 64)
      let line := data.take k
      match s.translate va true with
      | .ok x =>
        let t := s.writeDevice x.dpa line (s.xlateKey x)
        let (l, u) := writeVirtual t (va + k) n (data.drop k)
        ((t.route x.dpa, line) :: l, u)
      | .error _ => writeVirtual s (va + k) n (data.drop k)

/-- The lowest n free lines of an area. -/
def freePlaces (lines : Nat) (used : List Nat) (n : Nat) : List Nat :=
  ((List.range lines).filter fun l => !used.contains l).take n

/-- Line j of a message in a heap or a mailbox: its header, whose layout the spec leaves open, or eight payload words; what
the last of them leave of their line is free (12 R302, log entry 33). -/
def mailLine (s : State) (ws : List Word) (j : Nat) : List Byte × State :=
  let words := if j = 0 then [] else (ws.drop (8 * (j - 1))).take 8
  let (rest, s) := s.freeBytes (64 - 8 * words.length)
  ((words.flatMap fun w => leBytes 8 w.toNat) ++ rest, s)

/-! ## Payloads (12 R305, R306) -/

/-- The lines that hold n words from a slice offset on: offset and words of each. -/
def wordLines : Nat → Nat → Nat → List (Nat × Nat)
  | 0, _, _ => []
  | fuel + 1, off, n =>
    if n = 0 then []
    else
      let k := min n ((64 - off % 64) / 8)
      (off, k) :: wordLines fuel (off + 8 * k) (n - k)

/-- The lines of a payload to be read for a hold entry. -/
def readLines (off n : Nat) (hold : Option Nat) : List PayloadLine :=
  let ls := wordLines n off n
  ls.map fun (o, k) => ⟨o / 64, .ofNat 22 o, k, none, hold, decide (o + 8 * k = off + 8 * n)⟩

/-- The lines of a payload to be written. -/
def writeLines : List (Nat × Nat) → List (Word × Bool) → List PayloadLine
  | [], _ => []
  | (o, k) :: ls, ws => ⟨o / 64, .ofNat 22 o, k, some (ws.take k), none, false⟩ :: writeLines ls (ws.drop k)

/-- Bits of a poison mask. -/
def poisonBits (m : BitVec 64) (n : Nat) : List Bool := (List.range n).map fun i => m.getLsbD i

/-- Add words to the payload of a held message. -/
def growHeld (s : State) (id : Nat) (ws : List Word) (poisoned : Bool) : State :=
  { s with tile := { s.tile with hold := s.tile.hold.map fun h =>
    if h.id = id then
      match h.p.body with
      | .message q old =>
        let m : BitVec 64 := if poisoned then ((BitVec.allOnes 64) >>> (64 - ws.length)) <<< old.length else 0
        { h with p := { h.p with body := .message q (old ++ ws), poison := h.p.poison ||| m } }
      | _ => h
    else h } }

/-- A record as it stands in the slice. -/
def deltaAt (s : State) (k : Nat) : Delta := deltaOf (natAt s.mem k 32) (SMap.find (k / 64) s.poison).isSome

/-- A `DQPUSH` has read its last line: the records that are left go in packets of 16, unless one of them lies below the
slot's hold by then, which traps as a store's error does (13 R327, log entry 47). -/
def finishPush (s : State) (i : Fin 16) : State :=
  match (s.slot i).pushes with
  | [] => s
  | p :: ps =>
    let s := s.modSlot i fun x => { x with pushes := ps }
    let rs := p.records.zip (List.range p.records.length) |>.filter fun r => r.1.diff != 0
    match rs.find? fun r => decide (r.1.time.toNat < p.held.toNat) with
    | some r => s.modSlot i fun x => { x with deferred := x.deferred ++ [⟨⟨cTIME, .ofNat 32 r.2, 0⟩, some p.info⟩] }
    | none =>
      let rs := rs.map (·.1)
      let t := (List.range ((rs.length + 15) / 16)).foldl (fun (s : State) n =>
        s.sendPacket p.ltn p.core (.delta (.ofNat 4 p.q) ((rs.drop (16 * n)).take 16)) (s.slot i).strand)
        ({ s with issue := { s.issue with slot := i } } : State)
      { t with issue := s.issue }

/-- Records of a line join the first push of a slot. -/
def growPush (s : State) (i : Fin 16) (k n : Nat) : State :=
  let rs := (List.range n).map fun j => s.deltaAt (k + 32 * j)
  s.modSlot i fun x => { x with pushes := match x.pushes with
    | p :: ps => { p with records := p.records ++ rs } :: ps
    | [] => [] }

/-- Move one line of a slot's payload (12 R305, R306; 13 R327; 17 R407). -/
def movePayload (s : State) (i : Fin 16) : State :=
  match (s.slot i).payload with
  | [] => s
  | l :: ls =>
    let s := s.modSlot i fun x => { x with payload := ls }
    let k := s.key l.off.toNat
    match l.write with
    | some ws =>
      s.write (some i) k ((ws.map fun w => leBytes 8 w.1.toNat).flatten) (ws.any (·.2))
    | none =>
      let s := s.countReads 1
      match l.hold with
      | none =>
        let s := s.growPush i k (l.n / 4)
        if l.last then s.finishPush i else s
      | some id =>
        let ws := (List.range l.n).map fun j => w64 (natAt s.mem (k + 8 * j) 8)
        let s := s.growHeld id ws (SMap.find (k / 64) s.poison).isSome
        if l.last then
          match s.tile.hold.find? fun h => h.id == id with
          | some h => s.drain h.p.dltn
          | none => s
        else s

/-- Move n lines of what is left of a slot's payload. -/
def movePayloads (s : State) (i : Fin 16) : Nat → State
  | 0 => s
  | n + 1 => if (s.slot i).payload.isEmpty then s else movePayloads (s.movePayload i) i n

/-- Move all that is left of a slot's payload, as its strand leaves the slot. -/
def finishPayload (s : State) (i : Fin 16) : State := s.movePayloads i (s.slot i).payload.length

/-! ## Sending -/

/-- The rectangle of one tile. -/
def tileRect (ltn : Nat) : Rect := ⟨ltn % 30, ltn / 30, ltn % 30, ltn / 30⟩

/-- Wait for the strand's accesses to a tile (09 R229), or go on. -/
def afterTile (s : State) (ltn : Nat) (k : Unit → Result) : Result :=
  if s.rectClear s.me.strand (tileRect ltn) then k () else s.sleep (.rect (tileRect ltn))

/-- Wait for the strand's accesses to the whole stand, or go on. -/
def afterStand (s : State) (k : Unit → Result) : Result :=
  if s.rectClear s.me.strand s.standRect then k () else s.sleep (.rect s.standRect)

/-- The checks that a message head passes after its addresses: settled, the tile's accesses performed, a hold entry free,
the destination alive (12 R305, R300). -/
def readyToSend (s : State) (dst : Word) (ltn : Nat) (entries : Nat) (k : Unit → Result) : Result :=
  s.settledOr fun _ => s.afterTile ltn fun _ =>
    if s.holdFree < entries then s.sleep (.hold entries)
    else if (s.keyOf ltn).st == .exited then
      (s.deadLetter s.core.num s.issue.slot.val dst (SMap.getD s.tile.seqMsg ltn 0)).raiseNext cDEADLETTER 0
        (.ofNat 32 (ltn % 4096))
    else k ()

/-- Send what is left in a slot's assembly buffer as one shorter message, once a hold entry is free (12 R303). One for a
destination that has EXITED is a dead letter. -/
def flushQo (s : State) (i : Fin 16) : State :=
  match (s.slot i).qo with
  | none => s
  | some b =>
    if b.buf.isEmpty then s
    else
      let s' := s.modSlot i fun x => { x with qo := some { b with buf := [] } }
      match s.destWord b.dest 3 with
      | none => s'
      | some (ltn, core, q) =>
        if (s.keyOf ltn).st == .exited then s'.deadLetter s.core.num i.val b.dest (SMap.getD s.tile.seqMsg ltn 0)
        else
          let t := ({ s' with issue := { s'.issue with slot := i } } : State).sendPacket ltn core (.message (.ofNat 3 q) b.buf)
            (s.slot i).strand
          { t with issue := s.issue }

/-- Hold entries that the rest of a slot's assembly buffer needs (12 R303): a dead letter takes none. -/
def flushNeed (s : State) (i : Fin 16) : Nat :=
  match (s.slot i).qo with
  | some b => if b.buf.isEmpty || (s.qoDead i).isSome then 0 else 1
  | none => 0

/-- Must a flush of the slot's buffer wait for a hold entry (12 R303)? -/
def flushWaits (s : State) (i : Fin 16) : Bool := decide (s.holdFree < s.flushNeed i)

/-- A head whose strand goes on after its buffer has been sent: a dead letter traps, the head having taken its effect (12
R300, log entry 46). -/
def afterFlush (s t : State) : Result :=
  match s.qoDead s.issue.slot with
  | some l => s.afterDead l (.next t)
  | none => .next t

/-! ## Channels (12 R294, R295) -/

/-- The reply to a packet of the message network; a sender elsewhere is answered outside the model. -/
def replyMsg (s : State) (p : Packet) (rk : BitVec 4) (err : Byte) (data : List Word) (dup : Bool := false) : State :=
  if p.sltn == s.core.ltn then s.release 6 (.replyArrival ⟨true, p.dltn, rk, 0, dup, p.seq, err, data, false⟩) else s

/-- What the log keeps of a packet from another tile (19 R446). -/
def logPacket (s : State) (p : Packet) : State :=
  if p.sltn == s.core.ltn then s
  else
    let ev := packetEvent p
    let info (x : Nat) : Word := w64 (p.seq.toNat * 2 ^ 32 + p.sltn * 2 ^ 20 + p.score * 2 ^ 16 + x)
    match p.body with
    | .message q ws => s.logged 1 p.dcore 0 (info q.toNat :: ws) ev
    | .delta q rs => s.logged 1 p.dcore 0 (info (2 ^ 15 + q.toNat) :: rs.flatMap fun r =>
        [r.key, r.val, r.time, r.tag ++ r.diff]) ev
    | .arrival a => s.logged 6 p.dcore 0 (info 1 :: a.pc.setWidth 64 :: a.sw :: a.words.map (·.2)) ev
    | .setev q m => s.logged 6 p.dcore 0 [info 2, w64 q.val, m] ev
    | .park q => s.logged 6 p.dcore q.slot.val [info (if q.unpark then 4 else 3)] ev
    | .notice => s.logged 6 p.dcore 0 [info 5] ev

/-- A packet of the message network reaches its tile: its channel's order decides. `accept` answers none to refuse it; a
duplicate is answered by a duplicate notice (12 R295, R301; 20 R463). -/
def arriveMsg (s : State) (p : Packet) (ack : BitVec 4 × Byte) (accept : State → Option State) : Result :=
  let behind := (p.seq - SMap.getD s.tile.expMsg p.sltn 0).toNat
  let refuse (s : State) : State :=
    (match p.body with
      | .message .. => s.bump 20
      | _ => s).replyMsg p 4 0 []
  if behind = 0 then
    match accept s with
    | none =>
      .next (refuse { s with tile := { s.tile with
        blocked := if s.tile.blocked.contains p.sltn then s.tile.blocked else s.tile.blocked ++ [p.sltn] } })
    | some t =>
      let t : State := { t with tile := { t.tile with
        expMsg := SMap.put p.sltn (p.seq + 1) t.tile.expMsg, blocked := t.tile.blocked.filter (· != p.sltn) } }
      let t := (t.logPacket p).replyMsg p ack.1 ack.2 []
      match t.tile.reorderMsg.find? fun q => q.sltn == p.sltn && q.seq == p.seq + 1 with
      | none => .next t
      | some q => .next (({ t with tile := { t.tile with reorderMsg := t.tile.reorderMsg.erase q } } : State).after 0
          (packetEvent q))
  else if behind < 2 ^ 31 then
    if s.tile.blocked.contains p.sltn then .next (refuse s)
    else if 16 ≤ s.portHeld (s.portOf p.sltn) || s.tile.reorderMsg.contains p then .next s
    else .next { s with tile := { s.tile with reorderMsg := s.tile.reorderMsg ++ [p] } }
  else .next (s.replyMsg p 2 0 [] (dup := true))

/-! ## Inbound queues and the bucker (12 R301, R302) -/

/-- Has the heap messages for a queue? -/
def heapHolds (s : State) (q : Fin 8) : Bool := s.core.bucker.heap.any fun m => m.queue.toFin == q

/-- Lines that a message takes in the heap. -/
def heapLines (n : Nat) : Nat := 1 + (n + 7) / 8

/-- Heap lines in use. -/
def heapUsed (s : State) : Nat := (s.core.bucker.heap.map fun m => heapLines m.words.length).sum

/-- The messages of a queue, with those that this cycle has brought. -/
def queued (s : State) (q : Fin 8) : List InMsg :=
  s.core.mq[q] ++ s.core.landing.filterMap fun l => match l with
    | .message p m => if p = q then some m else none
    | _ => none

/-- Does an inbound queue have room for a message of n words? -/
def queueRoom (s : State) (q : Fin 8) (n : Nat) : Bool :=
  decide (queueWords (s.queued q) + n ≤ 128) && decide ((s.queued q).length < 32)

/-- A message of the expected SEQ: it enters its queue, where pops see it from the next cycle on, goes to the heap, or is
refused. -/
def acceptMessage (s : State) (p : Packet) (queue : BitVec 3) (ws : List Word) : Option State :=
  let q : Fin 8 := queue.toFin
  let poison := poisonBits p.poison ws.length
  if !s.heapHolds q && s.queueRoom q ws.length then some (s.land (.message q ⟨p.sltn, p.score, ws, poison⟩))
  else if s.core.bucker.enabled && decide (s.heapUsed + heapLines ws.length ≤ s.core.bucker.lines) then
    let places := freePlaces s.core.bucker.lines (s.core.bucker.heap.flatMap (·.places)) (heapLines ws.length)
    let m : HeapMsg := ⟨queue, p.sltn, p.score, p.seq, ws, poison, heapLines ws.length, 0, places⟩
    some (({ s with core := { s.core with bucker := { s.core.bucker with heap := s.core.bucker.heap ++ [m] } } } :
      State).bump 19)
  else none

/-- The oldest heap message whose queue can take it: written whole, with none for its queue before it. -/
def replayable (s : State) (before : List HeapMsg) : List HeapMsg → Option (List HeapMsg × HeapMsg × List HeapMsg)
  | [] => none
  | m :: ms =>
    if m.toWrite = 0 ∧ before.all (fun b => b.queue ≠ m.queue) ∧ s.queueRoom m.queue.toFin m.words.length
    then some (before, m, ms) else replayable s (before ++ [m]) ms

/-! ## Replies -/

/-- The log record of a reply (19 R446). -/
def logReply (s : State) (r : Reply) (slot : Nat) : State :=
  s.logged 3 s.core.num slot (w64 (r.rk.toNat * 2 ^ 60 + r.wtag.toNat * 2 ^ 56 + r.err.toNat) :: r.data) (.replyArrival r)

/-- Position of a window among the slot's open ones, oldest first (19 R446). -/
def windowTag (s : State) (i : Fin 16) (tag : Nat) : BitVec 4 :=
  .ofNat 4 (((s.slot i).windows.findIdx? fun w => w.tag == tag).getD 0)

/-- A reply of the request network to a request that is outstanding (08 R196; 20 R463). -/
def requestReply (s : State) (r : Reply) (x : Sent) : State :=
  let i : Fin 16 := .ofNat 16 x.q.slot
  let r' := if r.rk.toNat < 2 then { r with wtag := s.windowTag i x.q.wtag } else r
  let s := s.logReply r' x.q.slot
  let addr := globalDest x.q.dltn x.q.dcore x.q.off.toNat
  let done (s : State) : State :=
    { s with tile := { s.tile with sent := s.tile.sent.filter fun y => !(y.q.dltn == x.q.dltn && y.q.seq == x.q.seq) } }
  let again (s : State) (n : Nat) : State :=
    ({ s with tile := { s.tile with sent := s.tile.sent.map fun y =>
      if y.q.dltn == x.q.dltn && y.q.seq == x.q.seq then { y with due := s.tile.cycle + n } else y } } : State).after n
      (.rtoResend (reqId x.q.dltn x.q.seq))
  let window (s : State) (f : Window → Window) : State :=
    if (s.slot i).strand = x.strand then
      (s.modWindow i x.q.wtag f).modSlot i fun y =>
        if y.st == .window && y.windows.all (fun w => w.left != 0 || w.arrived) then { y with st := .ready } else y
    else s
  match r.rk.toNat with
  | 0 | 1 => window (done s) fun w => { w with
      arrived := true
      writes := if r.poison then [] else destWrites w.dest r.data
      trap := if r.poison then some ⟨cPOISON, 0, addr⟩ else none }
  | 2 => match x.q.entry with
    | some id => (done s).unitDone id 0 0
    | none => done s
  | 3 => match x.q.entry with
    | some id => (done s).unitDone id r.err.toNat addr
    | none => match x.q.kind with
      | .load _ | .atom .. => window (done s) fun w => { w with arrived := true, writes := [], trap := some ⟨cGATED, 0, addr⟩ }
      | _ =>
        (done s).modStrand x.strand fun y => { y with deferred := y.deferred ++ [⟨⟨cGATED, 0, addr⟩, some x.info⟩] }
  | 4 => again s 256
  | _ => again s 1

/-- An outstanding request is sent again, or kept, or dropped, by its destination's entry (12 R295, R516). -/
def resendReq (s : State) (x : Sent) : State :=
  let same (y : Sent) : Bool := y.q.dltn == x.q.dltn && y.q.seq == x.q.seq && y.q.sltn == x.q.sltn
  match (s.keyOf x.q.dltn).st with
  | .bound =>
    let s : State := { s with tile := { s.tile with
      sent := s.tile.sent.map fun y => if same y then { y with due := s.tile.cycle + 4096, kept := false } else y } }
    (s.release (s.leg s.core.ltn x.q.dltn) (reqEvent x.q)).after 4096 (.rtoResend (reqId x.q.dltn x.q.seq))
  | .exited =>
    let s : State := { s with tile := { s.tile with sent := s.tile.sent.filter fun y => !same y } }
    match x.q.entry with
    | some id => s.unitDone id 0 0
    | none => s
  | _ => { s with tile := { s.tile with
      sent := s.tile.sent.map fun y => if same y then { y with kept := true } else y } }

/-- A reply to a held packet. What answers a `PARK` or `UNPARK` is a status: an acknowledgement without one, as of a request
to another core of this tile, leaves it outstanding (16 R384). -/
def heldReply (s : State) (r : Reply) (h : HoldEntry) : State :=
  let asked := s
  let s := if r.rk = 5 then s else s.logReply r (match h.p.body with
    | .park q => q.sslot.val
    | _ => 0)
  let gone : State := { s with tile := { s.tile with hold := s.tile.hold.filter fun x => x.id != h.id } }
  match r.rk.toNat with
  | 3 => s.dropHeld h (if r.err = 5 then 0x40000000 else 0)
  | 4 => (s.setHold h.id (.refused s.tile.cycle)).after 256 (match h.p.body with
      | .arrival a => .arrivalResend a
      | _ => .refusalResend h.id)
  | 5 => s.after 0 (.redirect h.p)
  | _ => match h.p.body, r.data with
    | .park q, v :: _ => gone.answer q.sslot h.strand [(q.d, v)]
    | .park _, [] => asked
    | _, _ => gone

/-- An entry of the keyring changes: an external input, which the log records; what is held for the tile goes in the next
cycle (12 R296, R299). -/
def changeKey (s : State) (ltn : Nat) (e : KeyEntry) : State :=
  let s : State := { s with tile := { s.tile with
    keyring := SMap.put ltn e s.tile.keyring
    changed := if s.tile.changed.contains ltn then s.tile.changed else s.tile.changed ++ [ltn] } }
  s.logged 6 0 0 [w64 (0x10 + ltn * 2 ^ 8)] (.keyringChangeApply ltn e)

/-- What was kept for a tile whose entry has become BOUND is sent, and what was kept for one that has EXITED is dropped
(12 R297, R299, R516). -/
def drainChanged (s : State) : State :=
  s.tile.changed.foldl (fun s ltn =>
    let st := (s.keyOf ltn).st
    let s := if st == .bound || st == .exited then
        (s.tile.sent.filter fun x => x.kept && x.q.dltn == ltn).foldl State.resendReq s
      else s
    s.drain ltn) { s with tile := { s.tile with changed := [] } }

end State

/-! ## Heads -/

/-- Sends n words of the slice (12 R305). -/
def execSend (a b : Reg) (n : BitVec 6) (s : State) : Result :=
  s.issueHead [(Opd.src a).noPort, (Opd.src b).noPort] [] false fun s =>
    let dst := s.regW a.toNat
    let words := n.toNat + 1
    match s.destWord dst 3 with
    | none => s.raise cADDRESS dst
    | some (ltn, core, q) =>
      match s.checkLocal (s.regW b.toNat) (8 * words) 8 with
      | .trap c => s.raise c (s.regW b.toNat)
      | .remote .. => s.raise cADDRESS (s.regW b.toNat)
      | .waking bank => (s.startWake bank).forfeit
      | .here off =>
        if s.payloadHeld off (8 * words) then s.forfeit
        else s.readyToSend dst ltn 1 fun _ =>
          let id := s.tile.nextHold
          .next ((s.sendPacket ltn core (.message (.ofNat 3 q) []) s.me.strand (later := true)).modMe fun x =>
            { x with payload := x.payload ++ State.readLines off words (some id) })

/-- Sends a group of vectors, all lanes (12 R305). -/
def execSendv (a b : Reg) (r : BitVec 2) (s : State) : Result :=
  let n := 2 ^ r.toNat
  s.issueHead [(Opd.src a).noPort, ((Opd.vsrc b).span n).noPort] [] false
    (extra := b.toNat % n == 0 && decide (b.toNat + n ≤ 16)) fun s =>
    let dst := s.regW a.toNat
    match s.destWord dst 3 with
    | none => s.raise cADDRESS dst
    | some (ltn, core, q) =>
      s.readyToSend dst ltn 1 fun _ =>
        let ws := (List.range n).flatMap fun i => State.wordsOf (s.regV (b.toNat + i))
        .next (s.sendPacket ltn core (.message (.ofNat 3 q) ws) s.me.strand)

/-- Takes the rest of the head message of a queue into the slice (12 R306). -/
def execRecv (d a b : Reg) (q : BitVec 3) (s : State) : Result :=
  s.issueHead [(Opd.dst d).noPort, (Opd.src a).noPort, (Opd.src b).noPort] [] false fun s =>
    let limit := (s.regW b.toNat).toNat
    if limit = 0 ∨ 64 < limit then s.raise cRANGE
    else match s.checkLocal (s.regW a.toNat) (8 * limit) 8 with
    | .trap c => s.raise c (s.regW a.toNat)
    | .remote .. => s.raise cADDRESS (s.regW a.toNat)
    | .waking bank => (s.startWake bank).forfeit
    | .here off =>
      s.settledOr fun _ =>
      if s.payloadHeld off (8 * limit) then s.forfeit
      else match s.core.mq[q.toFin] with
      | [] => s.sleep (.message q.toFin)
      | m :: rest =>
        let n := m.words.length
        let ws := (m.words.zip m.poison).take limit
        let info := w64 ((decide (limit < n)).toNat * 2 ^ 63 + m.sltn % 4096 * 2 ^ 32 + m.score % 16 * 2 ^ 28 + n)
        let s : State := { s with core := { s.core with mq := s.core.mq.set q.toFin rest } }
        .next ((s.modMe fun x => { x with
          payload := x.payload ++ State.writeLines (State.wordLines ws.length off ws.length) ws }).setW s.issue.slot d.toNat
            info)

/-- Pops four words into a vector, every lane (12 R306); words of a poisoned line poison the register's line. -/
def execRecvv (d : Reg) (q : BitVec 3) (s : State) : Result :=
  s.issueHead [(Opd.vdst d).noPort] [] false fun s =>
    s.settledOr fun _ =>
    let queue := s.core.mq[q.toFin]
    match popWords 4 queue with
    | none => s.sleep (.words q.toFin)
    | some (ws, rest) =>
      let poisoned := ((queue.flatMap (·.poison)).take 4).any id
      let s : State := { s with core := { s.core with mq := s.core.mq.set q.toFin rest } }
      .next (s.write (some s.issue.slot) (s.vKey s.issue.slot d.toNat) ((ws.map fun w => leBytes 8 w.toNat).flatten) poisoned)

def execQbindQi (q : BitVec 3) (s : State) : Result :=
  s.issueHead [] [] false fun s => s.settledOr fun _ => .next (s.modMe fun x => { x with qi := some q.toFin })

/-- Binds `qo`; a buffer that is not empty is sent first (12 R303, R307). -/
def execQbindQo (a : Reg) (l : BitVec 6) (s : State) : Result :=
  s.issueHead [(Opd.src a).noPort] [] false fun s =>
    let dst := s.regW a.toNat
    if (s.destWord dst 3).isNone then s.raise cADDRESS dst
    else s.settledOr fun _ =>
      if s.flushWaits s.issue.slot then s.sleep (.hold 1)
      else s.afterFlush ((s.flushQo s.issue.slot).modMe fun x => { x with qo := some ⟨dst, l.toNat + 1, []⟩ })

def execQbindQiOff (s : State) : Result :=
  s.issueHead [] [] false fun s => s.settledOr fun _ => .next (s.modMe fun x => { x with qi := none })

def execQbindQoOff (s : State) : Result :=
  s.issueHead [] [] false fun s => s.settledOr fun _ =>
    if s.flushWaits s.issue.slot then s.sleep (.hold 1)
    else s.afterFlush ((s.flushQo s.issue.slot).modMe fun x => { x with qo := none })

/-- The status of a queue (12 R308). -/
def execMqstat (d : Reg) (q : BitVec 3) (s : State) : Result :=
  s.issueHead [(Opd.dst d).noPort] [] false fun s => s.settledOr fun _ =>
    let queue := s.core.mq[q.toFin]
    let head := match queue with
      | m :: _ => m.words.length
      | [] => 0
    let bound := allSlots.any fun i => (s.slot i).qi == some q.toFin
    .next (s.setW s.issue.slot d.toNat (w64 ((s.heapHolds q.toFin).toNat * 2 ^ 63 + bound.toNat * 2 ^ 62 + head * 2 ^ 40
      + queue.length * 2 ^ 32 + queueWords queue)))

/-- Reads a word of a queue without popping; Z tells whether there was one (12 R308). -/
def execPeek (d a : Reg) (q : BitVec 3) (s : State) : Result :=
  s.issueHead [(Opd.dst d).noPort, (Opd.src a).noPort] [] false fun s => s.settledOr fun _ =>
    let words := s.core.mq[q.toFin].flatMap (·.words)
    match words[(s.regW a.toNat).toNat]? with
    | some w => .next ((s.setW s.issue.slot d.toNat w).setSw 4 0)
    | none => .next ((s.setW s.issue.slot d.toNat 0).setSw 4 4)

/-! ## Events -/

/-- A message of the expected SEQ is accepted, bucked or refused (12 R301). -/
def execMessageAccept (m : Packet) (s : State) : Result :=
  match m.body with
  | .message q ws => s.arriveMsg m (2, 0) fun s => s.acceptMessage m q ws
  | _ => .next s

/-- A message comes back, since its destination is no longer BOUND: its fate is decided again (12 R297). -/
def execRedirect (m : Packet) (s : State) : Result :=
  match s.tile.hold.find? fun h => h.p.dltn == m.dltn && h.p.seq == m.seq with
  | none => .next s
  | some h =>
    let s := s.logged 3 s.core.num 0 [w64 (5 * 2 ^ 60)] (.redirect m)
    .next ((s.sendHeld h).drain m.dltn)

/-- A packet unanswered for RTO is sent again (12 R295). -/
def execRtoResend (id : Nat) (s : State) : Result :=
  match s.tile.hold.find? fun h => h.id == id with
  | some h => (match h.st with
    | .sent c => .next (if c + 4096 ≤ s.tile.cycle then s.sendHeld h else s)
    | _ => .next s)
  | none =>
    match s.tile.sent.find? fun x => x.q.sltn == s.core.ltn && State.reqId x.q.dltn x.q.seq == id && !x.kept
        && decide (x.due ≤ s.tile.cycle) && !(x.q.dltn == s.core.ltn && x.q.dcore == s.core.num) with
    | some x => .next (s.resendReq x)
    | none => .next s

/-- A refused packet is sent again 256 cc after its refusal, and those that wait behind it (12 R299). -/
def execRefusalResend (id : Nat) (s : State) : Result :=
  match s.tile.hold.find? fun h => h.id == id with
  | some h => (match h.st with
    | .refused c => .next (if c + 256 ≤ s.tile.cycle then (s.sendHeld h).drain h.p.dltn else s)
    | _ => .next s)
  | none => .next s

/-- A notice takes the place of a dead letter in its channel (12 R300). -/
def execDeadLetterNotice (sltn seq : Nat) (s : State) : Result :=
  s.arriveMsg ⟨sltn, 0, 0, s.core.ltn, s.core.num, .ofNat 32 seq, .notice, 0⟩ (2, 0) some

/-- A message to a SWAPPED tile is written to the mailbox, behind those of its channel, and its hold entry frees; a full
mailbox keeps it (12 R297, R298). -/
def execMailboxWrite (id : Nat) (s : State) : Result :=
  match s.tile.hold.find? fun h => h.id == id && h.st == .mailbox with
  | none => .next s
  | some h =>
    match s.fate h.p, h.p.body with
    | .mailbox, .message _ ws =>
      let first := (s.tile.hold.find? fun x => x.p.dltn == h.p.dltn && x.st == .mailbox).map (·.id)
      let places := State.freePlaces s.rim.mboxl (s.rim.mailbox.flatMap (·.places)) (State.heapLines ws.length)
      if first = some id ∧ places.length = State.heapLines ws.length then
        let t := (places.zip (List.range places.length)).foldl (fun s (l, j) =>
          let (b, s) := s.mailLine ws j
          (s.writeVirtual (s.rim.mbox + 64 * l) 2 b).2) s
        .next { t with
          rim := { t.rim with mailbox := t.rim.mailbox ++ [⟨places, h.p⟩] }
          tile := { t.tile with hold := t.tile.hold.filter fun x => x.id != id } }
      else .next (s.after 256 (.mailboxWrite id))
    | _, _ => .next ((s.sendHeld h).drain h.p.dltn)

namespace State

/-- The oldest heap message not yet written whole. -/
def buckable (before : List HeapMsg) : List HeapMsg → Option (List HeapMsg × HeapMsg × List HeapMsg)
  | [] => none
  | m :: ms => if m.toWrite = 0 then buckable (before ++ [m]) ms else some (before, m, ms)

/-- Where line j of a heap message stands in the slice. -/
def heapOff (s : State) (m : HeapMsg) (j : Nat) : Nat := s.core.bucker.base.toNat + 64 * m.places.getD j 0

def setHeap (s : State) (l : List HeapMsg) : State :=
  { s with core := { s.core with bucker := { s.core.bucker with heap := l } } }

/-- The bucker moves a line: its bank wakes first, and while it is GATED nothing moves (log entry 33). The line's traffic
claims the bank as workspace-buffer traffic does (01 R17, 12 R302). -/
def atHeapLine (s : State) (off : Nat) (k : State → State) : State :=
  match s.bankCheck off 64 with
  | some (.waking b) => s.startWake b
  | some _ => s
  | none => k (s.claim off 64)

end State

/-- The bucker writes one heap line of the oldest message not yet written whole (12 R302). -/
def execBuckerBuck (s : State) : Result :=
  match State.buckable [] s.core.bucker.heap with
  | none => .next s
  | some (before, m, rest) =>
    let j := State.heapLines m.words.length - m.toWrite
    let off := s.heapOff m j
    .next (s.atHeapLine off fun s =>
      let (b, s) := s.mailLine m.words j
      let bad := decide (0 < j) && ((m.poison.drop (8 * (j - 1))).take 8).any id
      (s.write none (s.key off) b bad).setHeap (before ++ { m with toWrite := m.toWrite - 1 } :: rest))

/-- The bucker replays one line of the oldest message whose queue has room, as the heap now holds it; with its last line the
message enters the queue (12 R302). -/
def execBuckerReplay (s : State) : Result :=
  match s.replayable [] s.core.bucker.heap with
  | none => .next s
  | some (before, m, rest) =>
    let j := m.replayed
    let off := s.heapOff m j
    .next (s.atHeapLine off fun s =>
      let n := if j = 0 then 0 else min 8 (m.words.length - 8 * (j - 1))
      let read := (List.range n).map fun w => w64 (natAt s.mem (s.key off + 8 * w) 8)
      let bad := s.poisoned (s.key off) 64
      let m : HeapMsg := { m with
        words := m.words.take (8 * (j - 1)) ++ read ++ m.words.drop (8 * (j - 1) + n)
        poison := m.poison.take (8 * (j - 1)) ++ List.replicate n bad ++ m.poison.drop (8 * (j - 1) + n)
        replayed := j + 1 }
      if State.heapLines m.words.length ≤ j + 1 then
        (s.setHeap (before ++ rest)).land (.message m.queue.toFin ⟨m.sltn, m.score, m.words, m.poison⟩)
      else s.setHeap (before ++ m :: rest))

/-- The router applies a change of an entry (12 R296, R299); what the mailbox held for a tile now BOUND is delivered there
(R298, 20 R475, R476). -/
def execKeyringChangeApply (ltn : Nat) (e : KeyEntry) (s : State) : Result :=
  let s := s.changeKey ltn e
  .next (if e.st == .bound then { s with rim := { s.rim with mailbox := s.rim.mailbox.filter fun p => p.packet.dltn != ltn } }
    else s)

/-- A reply is consumed and logged; one that answers nothing outstanding, and a duplicate notice, is discarded
(20 R463). -/
def execReplyArrival (r : Reply) (s : State) : Result :=
  if r.dup then .next s
  else if r.msgNet then
    match s.tile.hold.find? fun h => h.p.dltn == r.peer && h.p.seq == r.eseq && (match h.st with
        | .sent _ => true
        | _ => false) with
    | some h => .next (s.heldReply r h)
    | none => .next s
  else
    match s.tile.sent.find? fun x => x.q.dltn == r.peer && x.q.seq == r.eseq && !x.kept && !s.localReq x.q with
    | some x => .next (s.requestReply r x)
    | none => .next s

end Sys2Proof.Machine
end

