-- ==== Sys2Proof/Machine/Strands.lean ====
section
/-! DEFINITION. Strands: the filling of slots, spawning, ending, the deque, joins, events, moves and barriers (11 R263 to
R290). -/

namespace Sys2Proof.Machine

namespace State

/-! ## Addresses of another core -/

/-- The core that an address names, by orders 1 and 2 of R189 alone (11 R267). -/
def coreOf (s : State) (a : Word) : Option (Nat × Nat) :=
  match s.addrForm a with
  | none => none
  | some (l, c, _) => if s.inStand l || bits a.toNat 63 63 == 0 then some (l, c) else none

/-! ## Filling a slot (11 R263 to R265) -/

/-- Put a strand into a slot, in its home workspace; it is READY after the delay of R265. -/
def placeStrand (s : State) (i : Fin 16) (pc : BitVec 22) (priv : Bool) (sw : Word) (words : List (Reg × Word))
    (clear : Bool) (delay : Nat) : State :=
  let wp := s.rim.twb.toNat + 1024 * i.val
  let x : Slot := { Slot.none with
    st := .sleep, wait := some (.cycle (s.tile.cycle + delay)), strand := s.core.nextStrand, pc := pc, priv := priv, sw := sw,
    wp := .ofNat 22 wp, lastTurn := (s.slot i).lastTurn }
  let s : State := { s with core := { s.core with
    nextStrand := s.core.nextStrand + 1, filledAt := some s.tile.cycle } }
  let s := if clear then s.write none (s.key wp) (List.replicate 768 0) else s
  let s := words.foldl (fun s (r, v) => s.write none (s.key (wp + 8 * r.toNat)) (leBytes 8 v.toNat)) s
  (s.claim wp 768).setSlot i x

/-- `sw` of a new strand (01 R35). -/
def swReset : Word := 0xFF00

/-- The registers w0 to w3 with four values. -/
def fourWords (a b c d : Word) : List (Reg × Word) := [(0, a), (1, b), (2, c), (3, d)]

/-- A strand made from a task entry (11 R264, R269). -/
def placeEntry (s : State) (i : Fin 16) (e : TaskEntry) (delay : Nat) : State :=
  (s.placeStrand i e.pc e.priv swReset (fourWords e.w0 e.w1 e.w2 e.w3) false delay).modSlot i fun x =>
    { x with setOnEnd := if e.task then some (.ofNat 4 e.sq.toNat, e.set) else none }

/-- The workspace is where R29 allows it. -/
def wpValid (s : State) (wp : Nat) : Bool :=
  wp % 64 == 0 && decide (wp + 768 ≤ s.rim.visibleTop) && wp / 2 ^ 20 == (wp + 767) / 2 ^ 20

/-- What a reload finds of a context whose area in device memory another agent has written: all that R389 places there is
undefined (00 R10, log entry 1), each field within the values it can hold. -/
def undefinedContext (s : State) (c : Spilled) : Spilled × State :=
  if c.area.all fun (k, b) => bytesAt s.mem k b.length == b then (c, s)
  else
    let f (n : Nat) : Word := Config.freeValue (s.fresh + n)
    let x := c.slot
    let wp := ((f 4).setWidth 22).toNat
    let head (h : LineHead) (n : Nat) : LineHead := { h with head := (f n).setWidth 16, tail := f (n + 1) }
    let heads (n : Nat) (b : List LineHead) : List LineHead := b.zipWith (fun h k => head h (n + 2 * k)) (List.range b.length)
    let loop (l : Loop) (n : Nat) : Loop :=
      { l with
        body := heads (n + 40) l.body, left := (f n).toNat % 2 ^ 32, pass := (f (n + 1)).toNat % 2 ^ 32, sigb := (f (n + 2)).setWidth 8
        inc := (List.range l.inc.length).map fun k => (f (n + 3 + k)).setWidth 16 }
    let tile (t : Fin 4 × MTile) : Fin 4 × MTile :=
      let b := 5000 + 3200 * t.1.val
      (t.1, { t.2 with
        words := (List.range 3072).foldl (fun m k => SMap.set 0 k ((f (b + k)).setWidth 32) m) []
        acc := (f (b + 3072)).getLsbD 0, rows := 1 + (f (b + 3073)).toNat % 48, cols := 1 + (f (b + 3074)).toNat % 64
        afmt := (f (b + 3075)).setWidth 5, bfmt := (f (b + 3076)).setWidth 5 })
    ({ c with
        regs := (List.range 96).flatMap fun n => leBytes 8 (f (n + 100)).toNat
        tiles := c.tiles.map tile
        slot := { x with
          pc := (f 0).setWidth 22, sw := f 1 &&& swWriteMask, jf := f 2 ++ f 3, priv := (f 5).getLsbD 0
          fold := (f 6).setWidth 8, wp := if s.wpValid wp then .ofNat 22 wp else x.wp
          wait := if (f 7).getLsbD 0 then x.wait else none, before := if (f 7).getLsbD 0 then x.before else .ready
          loops := x.loops.zipWith (fun l n => loop l (200 + 200 * n)) (List.range x.loops.length)
          qi := if (f 8).getLsbD 3 then some (Fin.ofNat 8 (f 8).toNat) else none
          qo := x.qo.map fun b => { b with
            dest := f 9, len := (f 10).toNat % 65, buf := (List.range b.buf.length).map fun k => f (20 + k) } } },
      { s with fresh := s.fresh + 20000 })

/-- A spilled strand comes back into a slot (16 R390): its workspace at its WP, its tiles, and its wait if it is not yet
met; a strand whose wait is over is READY after the delay. Its context holds no line, so it reads its line again (DESIGN
CHOICE, log entry 46). -/
def placeSpilled (s : State) (i : Fin 16) (n : Nat) (delay : Nat) : State :=
  match SMap.find n s.core.spilled with
  | none => s
  | some c =>
    let (c, s) := s.undefinedContext c
    let s : State := { s with core := { s.core with
      spilled := SMap.erase n s.core.spilled, filledAt := some s.tile.cycle } }
    let s := (s.write none (s.key c.slot.wp.toNat) c.regs).claim c.slot.wp.toNat 768
    let s := c.tiles.foldl (fun (s : State) (t, m) =>
      if s.core.tiles[t].owner.isNone then
        { s with core := { s.core with tiles := s.core.tiles.set t { m with owner := some i } } }
      else s) s
    let (wait, from_) : Wait × Option Nat := match c.slot.before, c.slot.wait with
      | .sleep, some w => (w, some s.tile.cycle)
      | _, _ => (.cycle (s.tile.cycle + delay), none)
    s.setSlot i { c.slot with
      st := .sleep, spilled := false, lastTurn := (s.slot i).lastTurn, line := none, wait := some wait, waitFrom := from_ }

/-- An arrival takes a slot (11 R264). A stamped task's key is taken from the slot in which it starts (R268). -/
def placeArrival (s : State) (i : Fin 16) (a : Arrival) (delay : Nat) : State :=
  match a.reload with
  | some n => s.placeSpilled i n delay
  | none =>
    let t := s.placeStrand i a.pc a.priv a.sw a.words a.clear delay
    t.modSlot i fun x => { x with
      task := a.stamp.map fun w => ⟨⟨w, s.core.ltn, s.core.num, i.val⟩, false, a.words.map (·.2), a.pc, a.priv, x.wp,
        bytesAt t.mem (t.key x.wp.toNat) 768, [], []⟩ }

/-- The slot that an arrival may take: a placement its own, another the lowest, a reload only while no other strand owns
one of its tiles (10 R242, 11 R265, 16 R390). -/
def arrivalSlot (s : State) (a : Arrival) : Option (Fin 16) :=
  match a.slot, a.reload with
  | some j, _ => if s.fillable j then some j else none
  | none, some n =>
    match SMap.find n s.core.spilled with
    | some c => if c.tiles.all fun t => s.core.tiles[t.1].owner.isNone then s.emptySlot else none
    | none => s.emptySlot
  | none, none => s.emptySlot

/-! ## The deque (11 R271, R272) -/

/-- The eight words of a task entry (11 R271). -/
def entryWords (e : TaskEntry) : List Word :=
  [w64 (e.task.toNat * 2 ^ 62 + e.priv.toNat * 2 ^ 61 + e.sq.toNat * 2 ^ 24 + e.wq.toNat * 2 ^ 22 + e.pc.toNat),
   e.wait, e.set, e.w0, e.w1, e.w2, e.w3, 0]

/-- A task entry read from the overflow region: reserved fields ignored, a reserved KIND read as `FORK` (11 R272). -/
def entryOf (w : List Word) : TaskEntry :=
  let h := (w.getD 0 0).toNat
  let task := bits h 63 62 == 1
  ⟨task, h.testBit 61, .ofNat 2 (bits h 25 24), .ofNat 2 (bits h 23 22), .ofNat 22 h, w.getD 1 0, w.getD 2 0, w.getD 3 0,
    w.getD 4 0, w.getD 5 0, w.getD 6 0⟩

/-- Where entry n of the region, counted from its oldest, stands. -/
def regionKey (s : State) (n : Nat) : Nat :=
  s.key (s.core.deque.base.toNat + 64 * ((s.core.deque.first + n) % s.core.deque.ovfn))

/-- Traffic to entry n of the region claims its bank (11 R272). -/
def claimRegion (s : State) (n : Nat) : State :=
  s.claim (s.core.deque.base.toNat + 64 * ((s.core.deque.first + n) % s.core.deque.ovfn)) 64

def regionEntry (s : State) (n : Nat) : TaskEntry :=
  entryOf ((List.range 8).map fun j => w64 (natAt s.mem (s.regionKey n + 8 * j) 8))

/-- Is there no room for a push (11 R270)? -/
def dequeFull (s : State) : Bool :=
  decide (64 ≤ s.core.deque.hw.length) && decide (s.core.deque.ovfn ≤ s.core.deque.inRegion)

/-- Push onto the tail; a full hardware part first moves its oldest entry to the region (11 R272). -/
def pushEntry (s : State) (e : TaskEntry) : State :=
  let d := s.core.deque
  match decide (64 ≤ d.hw.length), d.hw with
  | true, h :: hs =>
    let s := (s.write none (s.regionKey d.inRegion) (((entryWords h).map fun w => leBytes 8 w.toNat).flatten)).claimRegion d.inRegion
    { s with core := { s.core with deque := { d with hw := hs ++ [e], inRegion := d.inRegion + 1 } } }
  | _, _ => { s with core := { s.core with deque := { d with hw := d.hw ++ [e] } } }

/-- The owner's pop: the youngest hardware entry, else the youngest of the region (11 R272). -/
def popEntry (s : State) : Option (TaskEntry × State) :=
  let d := s.core.deque
  match d.hw.getLast? with
  | some e => some (e, { s with core := { s.core with deque := { d with hw := d.hw.dropLast } } })
  | none =>
    if d.inRegion = 0 then none
    else
      let t := s.claimRegion (d.inRegion - 1)
      some (s.regionEntry (d.inRegion - 1), { t with core := { t.core with deque := { d with inRegion := d.inRegion - 1 } } })

/-- A steal takes the oldest entry in the region, else the oldest hardware entry (11 R272). -/
def stealEntry (s : State) : State :=
  let d := s.core.deque
  if d.inRegion = 0 then { s with core := { s.core with deque := { d with hw := d.hw.drop 1 } } }
  else
    let t := s.claimRegion 0
    { t with core := { t.core with deque := { d with inRegion := d.inRegion - 1, first := (d.first + 1) % d.ovfn } } }

/-- The probes of a cycle at this core's deque, after its owner's pop and in cyclic order from the next core on: each takes
an entry while one is left (11 R273). What a thief takes runs there (log entry 6). -/
def serveProbes (s : State) : State :=
  let place (c : Nat) : Nat := (c + 15 - s.core.num) % 16
  let now := s.probes.filter fun p => p.1 == s.tile.cycle && p.2 != s.core.num
  (List.range 15).foldl (fun s n => if now.any fun p => place p.2 == n then s.stealEntry else s) s

/-! ## Barriers (11 R281 to R288) -/

def bar (s : State) (b : BitVec 7) : Bar := SMap.getD s.core.bars b.toNat Bar.none

def setBar (s : State) (b : BitVec 7) (x : Bar) : State :=
  { s with core := { s.core with bars := SMap.set Bar.none b.toNat x s.core.bars } }

/-- Half of the class-0 bound of a scope (11 R289): what an arrival takes to its combining point, and the release back.
Log entry 7. -/
def scopeLeg (scope : BitVec 3) : Nat :=
  match scope.toNat with
  | 1 => 1
  | 2 => 9
  | 3 => 29
  | 4 => 149
  | _ => 1899

/-- The running reduction (11 R286). -/
def barOp (op : BitVec 3) (a v : Word) : Word :=
  match op.toNat with
  | 1 => a ||| v
  | 2 => a + v
  | 3 => if a.toNat < v.toNat then v else a
  | _ => 0

/-- The combining point has named the generation of a strand's arrival. -/
def nameGen (s : State) (q : BarArrival) (g : BitVec 16) : State :=
  if q.ltn = s.core.ltn ∧ q.core = s.core.num ∧ !q.permanent then
    let x := s.bar q.b
    let mine (w : BarWaiter) : Bool := w.slot == q.slot && w.gen.isNone
    let s := if q.answer then
        (x.waiters.filter mine).foldl (fun s w => s.answer w.slot w.strand (w.reg.toList.map fun d => (d, g.setWidth 64))) s
      else s
    let ws := if q.answer then x.waiters.filter fun w => !mine w
      else x.waiters.map fun w => if mine w then { w with gen := some g } else w
    s.setBar q.b { x with waiters := ws }
  else s

/-- An arrival is refused at the combining point: its strand takes BARRIER_CONFIG with the head taken back, and its slot's
bits are what they were (11 R284). -/
def refuseArrival (s : State) (q : BarArrival) : State :=
  if q.ltn = s.core.ltn ∧ q.core = s.core.num then
    let x := s.bar q.b
    match x.waiters.find? fun w => w.slot == q.slot && w.gen.isNone with
    | none => s
    | some w =>
      let one : BitVec 16 := 1 <<< w.slot.val
      let s := s.setBar q.b { x with
        members := if w.member then x.members else x.members &&& ~~~one
        arrived := if w.arrived then x.arrived else x.arrived &&& ~~~one
        waiters := x.waiters.filter fun v => v.slot != q.slot }
      (s.answer w.slot w.strand []).modStrand w.strand fun y => { y with
        pc := w.info.fpc, fold := w.fold, loops := w.loops
        deferred := y.deferred ++ [⟨⟨cBARCFG, 0, 0⟩, some w.info⟩] }
  else s

/-- The combining point processes an arrival (11 R286, R287). Of the domains above `.C` the cores beyond this one bring
theirs from outside (log entry 6). -/
def combine (s : State) (q : BarArrival) : State :=
  let x := s.bar q.b
  if x.count = 0 then s
  else if !q.permanent && x.first.isSome && x.first != some (q.count, q.op) then s.refuseArrival q
  else
    let x := if q.permanent then { x with perm := x.perm + 1 } else x
    if q.permanent && !q.now then s.setBar q.b x
    else
      let g := x.domGen
      let s := s.nameGen q g
      let x := { x with waiters := (s.bar q.b).waiters }
      let acc := barOp x.op x.acc q.v
      if x.count.toNat ≤ x.arr.toNat + 1 then
        let x := { x with
          arr := x.perm, acc := 0, first := none, domGen := g + 1, arrived := 0
          gen := if x.scope = 1 then g + 1 else x.gen, res := if x.scope = 1 then acc else x.res }
        (s.setBar q.b x).after (scopeLeg x.scope) (.barrierReleaseWake q.b g acc)
      else
        s.setBar q.b { x with
          arr := x.arr + 1, acc := acc
          first := if q.permanent then x.first else some (x.first.getD (q.count, q.op)) }

/-- A domain's own state as a `BARCFG` that has passed leaves it (11 R284). -/
def domainReset (x : Bar) : Bar := { x with arr := 0, perm := 0, acc := 0, first := none, domGen := 0 }

/-- A barrier slot as `BARCFG` configures it: everything else of it zero (11 R284). -/
def configuredBar (scope : BitVec 3) (w : Word) : Bar :=
  { Bar.none with count := w.setWidth 24, scope := scope, op := .ofNat 3 (bits w.toNat 26 24) }

/-- The resets of this cycle by `BARCFG`s of other cores of a domain (11 R284). -/
def resetDomains (s : State) : State :=
  s.barResets.foldl (fun s (c, b) => if c == s.tile.cycle then s.setBar b (domainReset (s.bar b)) else s) s

/-- Send an arrival to its combining point: at once on the issuing core for `.C` (11 R286). -/
def arrive (s : State) (q : BarArrival) : State :=
  if q.scope = 1 then s.combine q else s.after (scopeLeg q.scope) (.barrierCombine q)

/-- The permanent arrivals of a strand that ends (11 R287). -/
def permanentArrivals (s : State) (i : Fin 16) : State :=
  s.core.bars.foldl (fun s (n, x) =>
    if x.members.getLsbD i.val then
      let b : BitVec 7 := .ofNat 7 n
      let one : BitVec 16 := 1 <<< i.val
      let now := !x.arrived.getLsbD i.val
      let y := s.bar b
      (s.setBar b { y with members := y.members &&& ~~~one, arrived := y.arrived &&& ~~~one }).arrive
        ⟨s.core.ltn, s.core.num, i, b, x.scope, x.count, x.op, 0, true, now, false⟩
    else s) s

/-! ## Ending a strand (11 R269) -/

/-- Release every tile that a slot owns (10 R242). -/
def releaseTiles (s : State) (i : Fin 16) : State :=
  { s with core := { s.core with tiles := s.core.tiles.map fun m => if m.owner = some i then { m with owner := none, live := false } else m } }

/-- Forget the window operations of a slot that write nothing (05 R143). -/
def dropReads (s : State) (i : Fin 16) : State :=
  { s with core := { s.core with winOps := s.core.winOps.filter fun o => !(o.slot == i && o.writes.isEmpty) } }

/-- Is a park request this core's own? The strands of this core ask without a packet; the rim controller asks as tile 4,095 and
wants no answer. -/
def ownAsk (s : State) (q : ParkReq) : Bool := q.sltn == s.core.ltn && q.score == s.core.num

/-- The reply to a park request (16 R384); one to another tile is seen there (log entry 6). -/
def replyPark (s : State) (q : ParkReq) (v : Nat) : State :=
  if s.ownAsk q then s.answer q.sslot q.strand [(q.d, w64 v)] else s

/-- End a strand by the steps of `QUIT` after its fence: what its `qo` buffer holds is sent (12 R303), its barriers have
its permanent arrivals, its SET mask takes effect, its tiles are released, and the slot becomes EMPTY. A window write of a
discarded window is still made (05 R143). Who waits to park the strand is told that the slot is EMPTY (16 R387). -/
def endStrand (s : State) (i : Fin 16) : State :=
  let x := s.slot i
  let s := ((s.finishPayload i).flushQo i).permanentArrivals i
  let s : State := match x.setOnEnd with
    | some e => { s with tile := { s.tile with sets := s.tile.sets ++ [e] } }
    | none => s
  let s := s.releaseTiles i
  let s : State := { s with core := { s.core with mat := s.core.mat.filter fun o => o.slot != i } }
  let s := (x.windows.filter fun w => w.store.isSome).foldl (fun s w =>
    let due := ((s.core.winOps.find? fun o => o.slot == i && o.tag == w.tag).map (·.due)).getD s.tile.cycle
    s.after (due - s.tile.cycle) (.windowUnitWrite i w.tag)) s
  let s := (s.dropReads i).setSlot i { Slot.none with lastTurn := x.lastTurn }
  x.parkAsked.foldl (fun s q => s.replyPark q 0) s

/-- Go on with the end of the issuing strand: its own buffer may have to wait for a hold entry (12 R303). -/
def ending (s : State) (k : Unit → Result) : Result :=
  if s.flushWaits s.issue.slot then s.sleep (.hold 1) else k ()

end State

/-! ## Heads -/

/-- The arrival of `SPAWN` and `SPAWN.S` (11 R267). -/
def State.spawn (s : State) (a b : Reg) (c : Option Reg) (pc : BitVec 22) : Result :=
  s.issueHead ([((Opd.src a).span 4).noPort, (Opd.src b).noPort] ++ c.toList.map Opd.third) [] false
    (extra := a.toNat % 4 == 0 && decide (a.toNat ≤ 24) && !pc.getLsbD 0) fun s =>
    let (stamp, r) : Option Word × State := match c with
      | some c => let (w, r) := s.readW c; (some w, r)
      | none => (none, s)
    match s.coreOf (s.regW b.toNat) with
    | none => s.raise cADDRESS (s.regW b.toNat)
    | some (ltn, core) =>
      if (stamp.map fun w => decide (w.toNat < s.tile.known.toNat)).getD false then s.raise cSTAMP
      else s.settledOr fun _ => s.afterTile ltn fun _ =>
        if s.holdFree = 0 then s.sleep (.hold 1)
        else
          let w (n : Nat) : Word := s.regW (a.toNat + n)
          let arrival : Arrival := ⟨pc, s.me.priv, State.swReset, State.fourWords (w 0) (w 1) (w 2) (w 3), false, none, stamp, none,
            s.core.ltn, s.core.num, s.issue.slot.val, 0⟩
          .next (r.sendPacket ltn core (.arrival arrival) s.me.strand)

/-- Starts a strand on the core that b names (11 R266, R267). -/
def execSpawn (a b : Reg) (pc : BitVec 22) (s : State) : Result := s.spawn a b none pc

/-- Starts a stamped task (11 R268). -/
def execSpawnS (a b c : Reg) (pc : BitVec 22) (s : State) : Result := s.spawn a b (some c) pc

/-- Ends the strand (11 R269). A stamped task ends once it holds the lowest key and has committed. -/
def execQuit (_ : Byte) (s : State) : Result :=
  s.issueHead [] [] false fun s => s.afterStand fun _ => s.settledOr fun _ =>
    if s.me.task.isSome && !s.holdsLowest s.issue.slot then s.sleep .lowestKey
    else s.ending fun _ => .next (s.endStrand s.issue.slot)

/-- Pushes a task entry onto the core's deque (11 R270). -/
def execFork (tgt : BitVec 22) (s : State) : Result :=
  s.issueHead [((Opd.src 0).span 4).noPort] [] false (extra := !tgt.getLsbD 0) fun s =>
    s.settledOr fun _ => s.afterTile s.core.ltn fun _ =>
    if s.dequeFull then s.raise cTASKFULL
    else .next (s.pushEntry ⟨false, s.me.priv, 0, 0, tgt, 0, 0, s.regW 0, s.regW 1, s.regW 2, s.regW 3⟩)

/-- Takes one off a join word; the window's end decides whether the strand goes on (11 R274). -/
def execJoin (a : Reg) (s : State) : Result :=
  s.issueHead [(Opd.src a).noPort] [] false fun s =>
    let ea := s.regW a.toNat
    let window : Window := ⟨0, 0, false, [], .word 0 8 true, none, s.issue.info, none, true, none, none⟩
    s.access ea 8 8 true
      (fun off => s.settledOr fun _ => s.afterStand fun _ =>
        if s.windowsFull then s.raise cWINDOW
        else
          let q := s.request s.core.ltn s.core.num off (.atom .add true false) [0xFFFFFFFFFFFFFFFF]
          let t := s.openWindow 0 window
          .next (({ t with tile := { t.tile with
            sent := t.tile.sent ++ [⟨q, t.tile.cycle, false, s.me.strand, s.issue.info⟩] } } : State).after 1
              (.atomicExecute q)))
      (fun l c off => s.settledOr fun _ => s.afterStand fun _ =>
        if s.windowsFull then s.raise cWINDOW
        else .next ((s.openWindow 0 window).sendReq (s.request l c off (.atom .add true false) [0xFFFFFFFFFFFFFFFF]) s.me.strand
          s.issue.info))

/-- The slot sleeps for 64 cc from the issue (11 R280). -/
def execYield (s : State) : Result :=
  s.issueHead [] [] false fun s =>
    .next ((s.await (.cycle (s.tile.cycle + 64))).after 64 (.yieldExpiry s.issue.slot))

/-- Moves the strand to another core (11 R279): once its results have arrived and its accesses have performed, its windows
end early, what its `qo` buffer holds is sent, and it leaves as an arrival. On its own core it goes on in its slot, at a block
start, with its ports unbound, its tiles released and no taken record (12 R303, 10 R242, 13 R321, log entry 46). -/
def execMigrate (a : Reg) (s : State) : Result :=
  s.issueHead [(Opd.src a).noPort] [] false fun s =>
    match s.coreOf (s.regW a.toNat) with
    | none => s.raise cADDRESS (s.regW a.toNat)
    | some (ltn, core) =>
      if s.core.bars.any fun b => b.2.members.getLsbD s.issue.slot.val then s.raise cBARMEMBER
      else s.settledOr fun _ =>
        if s.me.windows.any fun w => !w.arrived then s.sleep .windows
        else s.afterStand fun _ =>
        match s.me.windows.find? fun w => w.trap.isSome with
        | some w =>
          let t := s.unissued (.trapped (w.trap.getD ⟨0, 0, 0⟩) false false)
          let t := (t.me.windows.takeWhile fun v => v.tag != w.tag).foldl (fun t v => v.writes.foldl State.applyWrite t) t
          let t := t.modMe fun x => { x with windows := x.windows.filter fun v => decide (w.tag < v.tag) }
          .next (t.takeTrap t.issue.slot (w.trap.getD ⟨0, 0, 0⟩) w.info t.me.pc t.me.pc t.me.fold)
        | none =>
          let early (s : State) : State :=
            let ws := s.me.windows
            let s := s.modMe fun x => { x with windows := [] }
            let s := (ws.filter fun w => w.store.isSome).foldl (fun s w => s.after 0 (.windowUnitWrite s.issue.slot w.tag)) s
            ws.foldl (fun s w => w.writes.foldl State.applyWrite s) (s.dropReads s.issue.slot)
          if ltn = s.core.ltn ∧ core = s.core.num then s.ending fun _ =>
            let i := s.issue.slot
            s.afterFlush (((((early s).finishPayload i).flushQo i).releaseTiles i).modMe fun x => { x with
              fold := 0x5A, qi := none, qo := none, taken := [] })
          else if s.holdFree < 1 + (s.me.qo.map fun b => (!b.buf.isEmpty).toNat).getD 0 then
            s.sleep (.hold (1 + (s.me.qo.map fun b => (!b.buf.isEmpty).toNat).getD 0))
          else
            let s := early s
            let i := s.issue.slot
            let words := (List.range 10).map fun n => ((BitVec.ofNat 5 n : Reg), w64 (natAt s.mem (s.wKey i n) 8))
            let arrival : Arrival := ⟨s.me.pc, s.me.priv, s.me.sw, words, false, none, none, none, s.core.ltn, s.core.num, i.val, 0⟩
            .next ((((s.finishPayload i).flushQo i).sendPacket ltn core (.arrival arrival) s.me.strand).endStrand i)

/-- Places an event-gated task entry in the tile's task table (11 R277). -/
def execTask (a b c : Reg) (pc : BitVec 22) (wq sq : BitVec 2) (s : State) : Result :=
  s.issueHead [((Opd.src a).span 4).noPort, (Opd.src b).noPort, (Opd.third c).noPort] [] false
    (extra := a.toNat % 4 == 0 && decide (a.toNat ≤ 24) && !pc.getLsbD 0) fun s => s.settledOr fun _ =>
    match (List.range 128).find? fun n => s.tile.table.all fun e => e.index != n with
    | none => s.raise cTASKFULL
    | some n =>
      let w (n : Nat) : Word := s.regW (a.toNat + n)
      let e : TaskEntry := ⟨true, s.me.priv, sq, wq, pc, s.regW b.toNat, s.regW c.toNat, w 0, w 1, w 2, w 3⟩
      .next { s with tile := { s.tile with table := s.tile.table ++ [⟨n, s.core.num, e, false⟩] } }

/-- Sets event bits of this tile, or of tile LTN (11 R276). -/
def execSetev (a : Reg) (q : BitVec 2) (rt : Bool) (ltn : BitVec 12) (s : State) : Result :=
  s.issueHead [(Opd.src a).noPort] [] false (extra := rt || ltn == 0) fun s =>
    let target := if rt then ltn.toNat else s.core.ltn
    let mask := s.regW a.toNat
    if rt && !s.inStand target then s.raise cADDRESS
    else s.settledOr fun _ => s.afterTile target fun _ =>
      if target = s.core.ltn then
        .next { s with tile := { s.tile with sets := s.tile.sets ++ [(.ofNat 4 q.toNat, mask)] } }
      else if s.holdFree = 0 then s.sleep (.hold 1)
      else .next (s.sendPacket target 0 (.setev (.ofNat 4 q.toNat) mask) s.me.strand)

/-- Clears event bits of this tile (11 R276). -/
def execClrev (a : Reg) (q : BitVec 2) (s : State) : Result :=
  s.issueHead [(Opd.src a).noPort] [] false fun s => s.settledOr fun _ =>
    .next { s with tile := { s.tile with clears := s.tile.clears ++ [(.ofNat 4 q.toNat, s.regW a.toNat)] } }

/-- Is a wait on event bits met (11 R276)? -/
def eventsMet (v mask : Word) (any : Bool) : Bool := if any then v &&& mask != 0 else v &&& mask == mask

/-- Waits for event bits; d receives the quarter as it stood at the evaluation (11 R276). -/
def execWaitev (d a : Reg) (q : BitVec 2) (any : Bool) (s : State) : Result :=
  s.issueHead [(Opd.dst d).noPort, (Opd.src a).noPort] [] false fun s =>
    let mask := s.regW a.toNat
    let quarter : Fin 4 := .ofNat 4 q.toNat
    if any && mask == 0 then s.raise cRANGE
    else s.settledOr fun _ =>
      if eventsMet s.tile.events[quarter] mask any then .next (s.setW s.issue.slot d.toNat s.tile.events[quarter])
      else .next (s.await (.events quarter mask any d))

/-! ### Barriers -/

/-- Configures a barrier slot (11 R284). -/
def execBarcfg (scope : BitVec 3) (a : Reg) (b : BitVec 7) (s : State) : Result :=
  s.issueHead [(Opd.src a).noPort] [] false (extra := decide (1 ≤ scope.toNat) && decide (scope.toNat ≤ 5)) fun s =>
    let w := s.regW a.toNat
    let x := s.bar b
    let i := s.issue.slot
    if bits w.toNat 63 26 != 0 then s.raise cRANGE
    else s.settledOr fun _ =>
      if scope = 1 then
        if x.arr ≠ x.perm ∨ x.waiters ≠ [] then s.raise cBARCFG
        else .next (s.setBar b (State.configuredBar scope w))
      else
        match s.core.barAsks.find? fun q => q.slot == i && q.strand == s.me.strand with
        | none =>
          let s : State := { s with core := { s.core with barAsks := s.core.barAsks ++ [⟨i, s.me.strand, b, scope, w, none, 0, none⟩] } }
          (s.after (State.scopeLeg scope) (.barcfgAnswer i true)).sleep .answer
        | some q =>
          let t : State := { s with core := { s.core with barAsks := s.core.barAsks.filter fun q => q.slot != i } }
          match q.ok with
          | none => s.sleep .answer
          | some true => .next t
          | some false => t.raise cBARCFG

namespace State

/-- The checks of an arrival, and its fence: the issuing tile for `.C` and `.T`, the stand above (11 R285). -/
def barrierHead (s : State) (opds : List Opd) (scope : BitVec 3) (b : BitVec 7) (k : State → Result) : Result :=
  s.issueHead opds [] false (extra := decide (1 ≤ scope.toNat) && decide (scope.toNat ≤ 5)) fun s =>
    if (s.bar b).count = 0 ∨ (s.bar b).scope ≠ scope then s.raise cBARCFG else k s

def barrierFence (s : State) (scope : BitVec 3) (k : Unit → Result) : Result :=
  if scope.toNat ≤ 2 then s.afterTile s.core.ltn k else s.afterStand k

/-- The arrival of the issuing strand with a value: it joins MEMBERS and ARRIVED and is sent; the strand waits for its
generation, or, for `BARA`, for the generation's number (11 R285). -/
def arriveHere (s : State) (scope : BitVec 3) (b : BitVec 7) (v : Word) (reg : Option Reg) (answer : Bool) : State :=
  let i := s.issue.slot
  let x := s.bar b
  let one : BitVec 16 := 1 <<< i.val
  let w : BarWaiter := ⟨i, s.me.strand, none, reg, answer, s.issue.info, s.issue.foldBefore, s.me.loops,
    x.members.getLsbD i.val, x.arrived.getLsbD i.val⟩
  let s := s.setBar b { x with
    members := x.members ||| one, arrived := x.arrived ||| one, waiters := x.waiters ++ [w] }
  (s.await .answer).arrive ⟨s.core.ltn, s.core.num, i, b, scope, x.count, x.op, v, false, true, answer⟩

end State

/-- Arrives and sleeps until the generation completes (11 R285). -/
def execBar (scope : BitVec 3) (b : BitVec 7) (s : State) : Result :=
  s.barrierHead [] scope b fun s => s.settledOr fun _ => s.barrierFence scope fun _ =>
    .next (s.arriveHere scope b 0 none false)

/-- Arrives with a value and goes on with the generation that it joined (11 R285). -/
def execBara (scope : BitVec 3) (d a : Reg) (b : BitVec 7) (s : State) : Result :=
  s.barrierHead [(Opd.dst d).noPort, (Opd.src a).noPort] scope b fun s => s.settledOr fun _ => s.barrierFence scope fun _ =>
    .next (s.arriveHere scope b (s.regW a.toNat) (some d) true)

/-- Waits until a generation is complete; d receives RES (11 R285). -/
def execBarw (scope : BitVec 3) (d a : Reg) (b : BitVec 7) (s : State) : Result :=
  s.barrierHead [(Opd.dst d).noPort, (Opd.src a).noPort] scope b fun s =>
    let g := s.regW a.toNat
    let x := s.bar b
    if bits g.toNat 63 16 != 0 then s.raise cRANGE
    else s.settledOr fun _ =>
      let behind := (x.gen - g.setWidth 16).toNat
      if 1 ≤ behind ∧ behind ≤ 32767 then .next (s.setW s.issue.slot d.toNat x.res)
      else
        let w : BarWaiter := ⟨s.issue.slot, s.me.strand, some (g.setWidth 16), some d, false, s.issue.info, s.issue.foldBefore,
          s.me.loops, true, true⟩
        .next ((s.setBar b { x with waiters := x.waiters ++ [w] }).await .answer)

/-- Arrives with a value and receives the result (11 R285). -/
def execBarred (scope : BitVec 3) (d a : Reg) (b : BitVec 7) (s : State) : Result :=
  s.barrierHead [(Opd.dst d).noPort, (Opd.src a).noPort] scope b fun s => s.settledOr fun _ => s.barrierFence scope fun _ =>
    .next (s.arriveHere scope b (s.regW a.toNat) (some d) false)

/-! ## Events -/

/-- An arrival enters the core's queue of 16, or is refused (11 R265). -/
def execArrivalReceive (v : Arrival) (s : State) : Result :=
  s.arriveMsg ⟨v.sltn, v.score, v.sslot, s.core.ltn, s.core.num, v.seq, .arrival v, 0⟩ (2, 0) fun s =>
    if 16 ≤ s.core.arrivals.length then none
    else some { s with core := { s.core with arrivals := s.core.arrivals ++ [v] } }

/-- A refused arrival is sent again 256 cc after its refusal, and those that wait behind it (11 R265). -/
def execArrivalResend (v : Arrival) (s : State) : Result :=
  let due (h : HoldEntry) : Bool := h.p.body == .arrival v && (match h.st with
    | .refused c => decide (c + 256 ≤ s.tile.cycle)
    | _ => false)
  match s.tile.hold.find? due with
  | some h => .next ((s.sendHeld h).drain h.p.dltn)
  | none => .next s

/-- The core fills its lowest EMPTY slot from the first source with work (11 R265). -/
def execSlotFill (s : State) : Result :=
  match s.emptySlot with
  | none => .next s
  | some i =>
    if s.core.filledAt = some s.tile.cycle then .next s
    else match s.core.handlerQ with
    | q :: qs => .next (({ s with core := { s.core with handlerQ := qs } } : State).startHandler i q)
    | [] => match s.core.arrivals.findSome? fun a => (s.arrivalSlot a).map fun j => (a, j) with
      | some (a, j) => .next (({ s with core := { s.core with arrivals := s.core.arrivals.erase a } } : State).placeArrival j a 4)
      | none => match s.core.ready with
        | (n, e) :: es =>
          let s : State := { s with
            core := { s.core with ready := es }
            tile := { s.tile with table := s.tile.table.filter fun t => t.index != n } }
          .next (s.placeEntry i e 4)
        | [] => match s.popEntry with
          | some (e, t) => .next (t.placeEntry i e 4)
          | none => .next s

/-- Is the core idle (11 R273)? -/
def State.idle (s : State) : Bool :=
  s.emptySlot.isSome && s.core.handlerQ.isEmpty && s.core.arrivals.isEmpty && s.core.ready.isEmpty
    && s.core.deque.hw.isEmpty && s.core.deque.inRegion == 0

/-- The probe of an idle core in this cycle: a stolen entry fills its slot. The next core is probed in the next cycle, as the
end of each cycle has it. What the victim's deque holds comes from outside (11 R273, log entry 6). -/
def execStealProbe (found : Option TaskEntry) (s : State) : Result :=
  if !s.idle || s.core.filledAt == some s.tile.cycle then .next s
  else match found, s.emptySlot with
  | some e, some i => .next (s.placeEntry i e 8)
  | _, _ => .next s

/-- The 64 cc of a `YIELD` end (11 R280). -/
def execYieldExpiry (slot : Fin 16) (s : State) : Result :=
  .next (s.modSlot slot fun x => match x.wait with
    | some (.cycle c) =>
      if x.st == .sleep && decide (c ≤ s.tile.cycle) then { x with st := .ready, wait := none, waitFrom := none } else x
    | _ => x)

/-- A remote set arrives; the event unit applies it in this cycle (11 R275). -/
def execRemoteSetevArrival (sltn seq : Nat) (q : Fin 4) (mask : Word) (s : State) : Result :=
  s.arriveMsg ⟨sltn, 0, 0, s.core.ltn, s.core.num, .ofNat 32 seq, .setev q mask, 0⟩ (2, 0) fun s =>
    some { s with tile := { s.tile with sets := s.tile.sets ++ [(q, mask)] } }

/-- Wake a strand that waits on event bits once they are met (11 R275, R276; 16 R385, R390). -/
def State.wakeEvents (s : State) (i : Fin 16) : State :=
  match (s.slot i).wait with
  | some (.events q mask any d) =>
    if eventsMet s.tile.events[q] mask any then
      (s.modSlot i fun x => { x with wait := some .answer }).answer i (s.slot i).strand [(d, s.tile.events[q])]
    else s
  | _ => s

/-- The event unit's cycle: clears, then sets, then the waits and the task table (11 R275, R278). -/
def execEventUnitCycle (s : State) : Result :=
  let ev := s.tile.clears.foldl (fun (e : Vector Word 4) (q, m) => e.set q (e[q] &&& ~~~m)) s.tile.events
  let ev := s.tile.sets.foldl (fun (e : Vector Word 4) (q, m) => e.set q (e[q] ||| m)) ev
  let s : State := { s with tile := { s.tile with events := ev, sets := [], clears := [] } }
  let s := allSlots.foldl State.wakeEvents s
  let s : State := { s with core := { s.core with spilled := s.core.spilled.map fun (n, c) => match c.slot.wait with
    | some (.events q mask any d) =>
      if eventsMet ev[q] mask any then
        (n, { c with
          slot := { c.slot with wait := none, waitFrom := none, before := .ready }
          regs := c.regs.take (8 * d.toNat) ++ leBytes 8 ev[q].toNat ++ c.regs.drop (8 * d.toNat + 8) })
      else (n, c)
    | _ => (n, c) } }
  let isReady (t : TableEntry) : Bool :=
    !t.ready && t.core == s.core.num && eventsMet ev[(Fin.ofNat 4 t.entry.wq.toNat)] t.entry.wait false
  let now := (List.range 128).filterMap fun n => (s.tile.table.find? fun t => t.index == n && isReady t).map fun t => (n, t.entry)
  .next { s with
    tile := { s.tile with table := s.tile.table.map fun t => if isReady t then { t with ready := true } else t }
    core := { s.core with ready := s.core.ready ++ now } }

/-- The answer to a slot's `BARCFG` that a replay has still to apply. -/
def State.loggedAnswer (s : State) (slot : Fin 16) : Option Bool :=
  s.tile.replay.findSome? fun r => match r.ev with
    | some (.barcfgAnswer i v) => if i == slot then some v else none
    | _ => none

/-- A `BARCFG` reaches the combining point, with `ok` for the domain's other cores: the domain is read, and in the same
decision the slot is configured and the domain reset. One leg later the answer arrives and is logged (11 R284). -/
def execBarcfgAnswer (slot : Fin 16) (ok : Bool) (s : State) : Result :=
  match s.core.barAsks.find? fun q => q.slot == slot && q.ok.isNone with
  | none => .next s
  | some q =>
    let keep (s : State) (f : BarAsk → BarAsk) : State := { s with core := { s.core with
      barAsks := s.core.barAsks.map fun r => if r.slot == slot then f r else r } }
    match q.seen with
    | none =>
      let x := s.bar q.b
      let ok := (s.loggedAnswer slot).getD (ok && x.arr == x.perm && x.waiters.isEmpty)
      let s := if ok then s.setBar q.b (State.configuredBar q.scope q.word) else s
      let leg := State.scopeLeg q.scope
      .next ((keep s fun r => { r with seen := some ok, due := s.tile.cycle + leg }).after leg (.barcfgAnswer slot ok))
    | some ok =>
      if s.tile.cycle < q.due then .next s
      else
        let s := s.logged 6 s.core.num slot.val [w64 (0x20 + ok.toNat * 2 ^ 8)] (.barcfgAnswer slot ok)
        .next ((keep s fun r => { r with ok := some ok }).answer slot q.strand [])

/-- The combining point processes an arrival; those of other tiles are external inputs (11 R286). -/
def execBarrierCombine (q : BarArrival) (s : State) : Result :=
  let s := if q.ltn = s.core.ltn then s else s.logged 6 s.core.num 0 [w64 (0x21 + q.ltn * 2 ^ 8), q.v] (.barrierCombine q)
  .next (s.combine q)

/-- A release reaches the core: GEN and RES move on, and the waiters whose generation is complete become READY with d
written (11 R285, R288). -/
def execBarrierReleaseWake (b : BitVec 7) (gen : BitVec 16) (res : Word) (s : State) : Result :=
  let x := s.bar b
  let s := if x.scope.toNat ≤ 2 then s
    else s.logged 6 s.core.num 0 [w64 (0x22 + b.toNat * 2 ^ 8 + gen.toNat * 2 ^ 16), res] (.barrierReleaseWake b gen res)
  let x := if x.scope = 1 then x else { x with gen := gen + 1, res := res }
  let done (w : BarWaiter) : Bool := match w.gen with
    | some g => let n := (gen + 1 - g).toNat; decide (1 ≤ n ∧ n ≤ 32767)
    | none => false
  let s := s.setBar b { x with waiters := x.waiters.filter fun w => !done w }
  .next ((x.waiters.filter done).foldl (fun s w => s.answer w.slot w.strand (w.reg.toList.map fun d => (d, res))) s)

end Sys2Proof.Machine
end

