-- ==== Sys2Proof/Machine/Traps.lean ====
section
/-! DEFINITION. The trap instructions (07 R178 to R183), a starved handler (07 R175) and the supervisor route (07 R184). -/

namespace Sys2Proof.Machine

namespace State

/-- The stand's launch ends with a fault status (07 R184, 16 R378). -/
def endLaunch (s : State) (q : TrapReq) : State :=
  s.afterClk 0 (.launchEnd ⟨.ofNat 64 s.standNo, some ⟨(q.frame.getD 0 0).setWidth 9, (q.frame.getD 1 0).setWidth 22, s.core.ltn, s.core.num, q.slot⟩⟩)

/-- The privilege trap of an instruction's own effect. -/
def privileged (s : State) (needed : Bool) (k : Unit → Result) : Result :=
  if needed && !s.me.priv then s.raise cPRIVILEGE else k ()

/-- The end of a handler that ends the strand it served (07 R182): a stamped task commits first, and both buffers find a
hold entry. -/
def rettEnd (s r : State) (h : Handler) : Result :=
  let i := s.issue.slot
  let need := s.flushNeed i + s.flushNeed h.served
  if (s.speculative h.served).isSome || ((s.slot h.served).task.isSome && !s.holdsLowest h.served) then
    let s := if s.holdsLowest h.served then s.after 0 (.taskSettle h.served) else s
    s.sleep (.cycle (s.tile.cycle + 8))
  else if s.holdFree < need then s.sleep (.hold need)
  else .next ((r.endStrand h.served).endStrand i)

/-- The end of a handler that resumes the strand it served (07 R182). -/
def rettResume (s r : State) (h : Handler) : Result :=
  if swIllegal (w64 (natAt s.rdMem (s.key (s.me.wp.toNat + 800)) 8)) then s.raise cSW
  else if s.flushWaits s.issue.slot then s.sleep (.hold 1)
  else .next ((r.resume h).endStrand s.issue.slot)

end State

/-- Raises a software cause; a plain resume goes on after the bundle (07 R179). -/
def execTrap (code : BitVec 9) (s : State) : Result :=
  s.issueHead [] [] false (extra := decide (0x1C0 ≤ code.toNat) && decide (code.toNat ≤ 0x1DF)) fun s =>
    s.settledOr fun _ => s.raiseNext code

/-- Ends a handler (07 R182). -/
def execRett (_ : Byte) (a : Reg) (s : State) : Result :=
  s.issueHead [.src a] [] false fun s =>
    let (x, r) := s.readW a
    match s.me.handler with
    | none => s.raise cNOTHANDLER
    | some h =>
      if 1 < x.toNat then s.raise cRANGE
      else s.afterStand fun _ => if x = 0 then s.rettResume r h else s.rettEnd r h

/-- The bits of a vector word that are not reserved (07 R176). -/
def vectorMask : Word := 0xC03FFFFF003FFFFF

/-- Writes a vector (07 R180). A privileged group is a decode check (03 R77), a privileged mode in the value read is not. -/
def execSeth (a : Reg) (g : BitVec 4) (s : State) : Result :=
  let n := g.toNat
  s.issueHead [.src a] [] (n == 0 || n == 1 || n == 8 || n == 10) (extra := !(decide (11 ≤ n ∧ n ≤ 13) || n == 15)) fun s =>
    let (x, r) := s.readW a
    let hwp := bits x.toNat 53 32
    s.privileged (x.getLsbD 62) fun _ =>
      if x.getLsbD 63 && !(decide (hwp + 16384 ≤ s.rim.visibleTop) && hwp / 2 ^ 20 == (hwp + 16383) / 2 ^ 20) then s.raise cRANGE
      else .next { r with core := { r.core with thv := r.core.thv.set g.toFin (x &&& vectorMask) } }

/-- A word of the frame as the wafer captured it (07 R181). -/
def execCause (d a : Reg) (s : State) : Result :=
  s.issueHead [.dst d, .src a] [] false fun s =>
    let (x, r) := s.readW a
    match s.me.handler with
    | none => s.raise cNOTHANDLER
    | some h => .next (r.writeW d (h.frame.getD (bits x.toNat 2 0) 0))

/-- Sets the mode of the issuing strand (07 R183). -/
def execSmode (m : Bool) (s : State) : Result :=
  s.issueHead [] [] m fun s => .next (s.modMe fun x => { x with priv := m })

/-- Sets the mode in which the served strand resumes (07 R183). -/
def execSmodeServed (m : Bool) (s : State) : Result :=
  s.issueHead [] [] m fun s =>
    if s.me.handler.isNone then s.raise cNOTHANDLER
    else
      .next (s.modMe fun x => { x with handler := x.handler.map fun h => { h with resumePriv := m } })

/-! ## Events -/

/-- A request that has waited 65,536 cc for a slot goes to the supervisor (07 R175). -/
def execHandlerStarved (slot : Fin 16) (s : State) : Result :=
  match s.core.handlerQ.find? fun q => q.slot == slot && decide (q.since + 65536 ≤ s.tile.cycle) with
  | none => .next s
  | some q =>
    let s : State := { s with core := { s.core with handlerQ := s.core.handlerQ.filter fun p => p.slot != slot } }
    .next (s.toSupervisor { q with frame := q.frame.set 0 ((q.frame.getD 0 0 &&& ~~~0x1FF) ||| 0x1E1) })

/-- The rim controller's firmware receives a frame (07 R184). A head whose format is absent is performed, with its partner,
as the wafer defines it for that format (02 R43): the strand takes the bundle again with the codes accepted and the sources
as they stood at the raising turn, and what then traps ends the launch. A handler that has trapped ends with the strand it
served, once their buffers find hold entries (12 R299). Every other cause ends the launch. -/
def execSupervisorRoute (slot : Fin 16) (s : State) : Result :=
  match s.core.superQ.find? fun q => q.slot == slot with
  | none => .next s
  | some q =>
    let asked := s
    let s : State := { s with core := { s.core with superQ := s.core.superQ.filter fun p => p.slot != slot } }
    let w := (q.frame.getD 0 0).toNat
    let code := bits w 8 0
    let s := s.logged 7 s.core.num slot.val [w64 code] (.supervisorRoute slot)
    if code = cFORMAT.toNat ∧ bits w 63 32 < 16 ∧ (s.slot slot).emulate.isNone then
      let fpc : BitVec 22 := (q.frame.getD 1 0).setWidth 22
      .next (s.modSlot slot fun x => { x with
        st := .ready, emulate := q.sources, pc := if w.testBit 17 && w.testBit 16 then fpc - 2 else fpc
        fold := .ofNat 8 (bits (q.frame.getD 6 0).toNat 47 40) })
    else if code = cDOUBLE.toNat then
      match (s.slot slot).handler with
      | some h =>
        if s.holdFree < s.flushNeed slot + s.flushNeed h.served then .next (asked.after 8 (.supervisorRoute slot))
        else .next ((s.endStrand h.served).endStrand slot)
      | none => .next s
    else .next (s.endLaunch q)

end Sys2Proof.Machine
end

