-- ==== Sys2Proof/Machine/Delta.lean ====
section
/-! DEFINITION. Delta records, queues and arrangements, and the frontier (13 R312 to R337; 09 R238). -/

namespace Sys2Proof.Machine

/-! ## Records and their consolidation (13 R312, R313) -/

def sameDelta (a b : Delta) : Bool := a.key == b.key && a.val == b.val && a.time == b.time

/-- Ascending (KEY, VAL, TIME). -/
def deltaLe (a b : Delta) : Bool :=
  decide (a.key.toNat < b.key.toNat) || (a.key == b.key && (decide (a.val.toNat < b.val.toNat)
    || (a.val == b.val && decide (a.time.toNat ≤ b.time.toNat))))

/-- Insert before the first record that lies above; equal records keep their order. -/
def insertDelta (r : Delta) : List Delta → List Delta
  | [] => [r]
  | x :: xs => if deltaLe x r then x :: insertDelta r xs else r :: x :: xs

def sortDeltas (l : List Delta) : List Delta := l.foldl (fun a r => insertDelta r a) []

/-- Runs of equal records in a sorted list. -/
def deltaRuns : List Delta → List (List Delta)
  | [] => []
  | r :: rs => match deltaRuns rs with
    | (x :: run) :: more => if sameDelta r x then (r :: x :: run) :: more else [r] :: (x :: run) :: more
    | more => [r] :: more

/-- Is an exact sum outside the range of DIFF? -/
def diffOverflows (n : Int) : Bool := decide (n < -(2 ^ 31)) || decide (2 ^ 31 ≤ n)

def runSum (run : List Delta) : Int := run.foldl (fun n r => n + r.diff.toInt) 0

/-- The merge of a run: none when it would overflow; CONS for two records or more. -/
def mergeRun (run : List Delta) : Option (List Delta) :=
  let sum := runSum run
  if diffOverflows sum then none
  else match run with
    | [] => some []
    | r :: rs =>
      if sum = 0 then some []
      else some [{ r with
        diff := .ofInt 32 sum, poison := run.any (·.poison)
        tag := (r.tag &&& 0x80FFFFFF) ||| (if rs.isEmpty then 0 else 0x80000000) }]

/-- Consolidate; a merge that would overflow is not made, and counted (13 R319). -/
def consolidate (l : List Delta) : List Delta × Nat :=
  let rs := deltaRuns (sortDeltas l)
  (rs.flatMap fun r => (mergeRun r).getD r, (rs.filter fun r => (mergeRun r).isNone).length)

/-- The position, in sorted order, of the first record of the first run that overflows (13 R329). -/
def overflowAt : List (List Delta) → Nat → Option Nat
  | [], _ => none
  | r :: rs, n => if (mergeRun r).isNone then some n else overflowAt rs (n + r.length)

namespace State

/-! ## Records in flight and the frontier (13 R320 to R324) -/

/-- The taken records of a queue, over all slots and spilled contexts (13 R328). -/
def takenOf (s : State) (q : Fin 16) : Nat :=
  let n (x : Slot) : Nat := (x.taken.filter fun t => t.1 == q).length
  (allSlots.map fun i => n (s.slot i)).sum + (s.core.spilled.map fun c => n c.2.slot).sum

def leastWord (l : List Word) : Word := l.foldl (fun a b => if b.toNat < a.toNat then b else a) (BitVec.allOnes 64)

def openClocks (s : State) : List Word := s.tile.clocks.toList.filterMap id

/-- The hold of a slot (13 R322). -/
def holdOf (s : State) (i : Fin 16) : Word :=
  let x := s.slot i
  leastWord (s.openClocks ++ x.taken.map (fun t => t.2.time) ++ (x.task.map fun t => t.key.stamp).toList)

/-- The frontier of the stand (09 R238): the least of what this core and its tile hold and of what the other cores and tiles
do. Log entry 6. -/
def localFrontier (s : State) : Word :=
  let stamps := allSlots.filterMap fun i => (s.slot i).task.map fun t => t.key.stamp
  let sent := s.tile.hold.flatMap fun h => match h.p.body with
    | .delta _ rs => rs.map (·.time)
    | _ => []
  let pushed := allSlots.flatMap fun i => (s.slot i).pushes.map (·.least)
  let queued := s.core.dq.toList.flatMap fun q => q.untaken.map (·.time)
  let landing := s.core.landing.flatMap fun l => match l with
    | .records _ rs => rs.map (·.time)
    | _ => []
  let taken := allSlots.flatMap fun i => (s.slot i).taken.map fun t => t.2.time
  let away := s.core.spilled.flatMap fun c => c.2.slot.taken.map (fun t => t.2.time) ++ (c.2.slot.task.map fun t => t.key.stamp).toList
  leastWord (s.openClocks ++ stamps ++ s.pendingStamps ++ sent ++ pushed ++ queued ++ landing ++ taken ++ away
    ++ s.others.times ++ s.others.keys.map (·.stamp))

/-- Does the frontier exceed the copy of it with no update under way? -/
def frontierMoved (s : State) : Bool :=
  decide (s.tile.known.toNat < s.localFrontier.toNat)
    && s.agenda.all fun e => match e.2 with
      | .knownFrontierUpdate t => decide (t.toNat < s.localFrontier.toNat)
      | .frontierChange => false
      | _ => true

/-! ## Local ranges -/

/-- A range of the own slice that a delta head names: its checks, then its offset. A RETAIN bank wakes first (01 R33). -/
def localRange (s : State) (a : Word) (n align : Nat) (k : Nat → Result) : Result :=
  match s.checkLocal a n align with
  | .trap c => s.raise c a
  | .remote .. => s.raise cADDRESS a
  | .waking b => (s.startWake b).forfeit
  | .here off => k off

end State

/-! ## The engine's accesses (13 R325; 09 R221) -/

/-- The engine at work: the machine, whether it has met a poisoned line, the entries it has examined, its accesses, latest
first, with whether each reads, and whether it has followed a corrupted chain (13 R331). -/
structure Engine where
  s : State
  bad : Bool
  seen : Nat
  trace : List (Nat × Bool)
  corrupt : Bool

namespace Engine

/-- The engine as it begins an operation. -/
def on (s : State) : Engine := ⟨s, false, 0, [], false⟩

/-- The engine, with nothing of a record's work but what it has examined. -/
def without (e e₁ : Engine) : Engine := { e with seen := e₁.seen, trace := e₁.trace, corrupt := e₁.corrupt }

/-- Read n bytes of a line of the own slice through the line cache. -/
def read (e : Engine) (off n : Nat) : Nat × Engine :=
  let k := e.s.key (off % 2 ^ 22)
  let line := k / 64
  let (b, buf, s) := e.s.buffered e.s.core.bufD line (bytesAt e.s.mem (line * 64) 64)
  (leNat ((b.drop (k % 64)).take n),
    { e with
      s := { s with core := { s.core with bufD := buf } }
      trace := (off % 2 ^ 22, true) :: e.trace
      bad := e.bad || (SMap.find line s.poison).isSome })

/-- Write n bytes of a line; the engine's own copy follows. -/
def write (e : Engine) (off n v : Nat) (poison : Bool := false) : Engine :=
  let k := e.s.key (off % 2 ^ 22)
  let line := k / 64
  let s := e.s.write none k (leBytes n v) poison
  let buf := match SMap.find line s.core.bufD with
    | some b => SMap.put line (b.take (k % 64) ++ leBytes n v ++ b.drop (k % 64 + n)) s.core.bufD
    | none => s.core.bufD
  { e with s := { s with core := { s.core with bufD := buf } }, trace := (off % 2 ^ 22, false) :: e.trace }

/-- A record (13 R312). -/
def record (e : Engine) (off : Nat) : Delta × Engine :=
  let (v, e) := e.read off 32
  (deltaOf v (SMap.find (e.s.key off / 64) e.s.poison).isSome, e)

def records (e : Engine) (off : Nat) : Nat → List Delta × Engine
  | 0 => ([], e)
  | n + 1 =>
    let (r, e) := e.record off
    let (rs, e) := records e (off + 32) n
    (r :: rs, e)

/-- Write records and then zero bytes up to n records. -/
def putRecords (e : Engine) (off : Nat) : Nat → List Delta → Engine
  | 0, _ => e
  | n + 1, [] => putRecords (e.write off 32 0) (off + 32) n []
  | n + 1, r :: rs => putRecords (e.write off 32 (deltaNat r) r.poison) (off + 32) n rs

end Engine

/-! ## Arrangements (13 R330 to R335) -/

/-- The header of an arrangement (13 R330). -/
structure Header where
  off : Nat
  log2nb : Nat
  pool : Nat
  pcap : Nat
  hwm : Nat
  free : Nat
  count : Word
  since : Word
  cb : Nat
  ce : Nat
  reserved : Bool

/-- An entry of a chain, with its number (13 R330), and whether it stands in a poisoned line; a bucket word in one counts as
an entry 0. -/
structure Entry where
  idx : Nat
  key : Word
  val : Word
  time : Word
  next : Nat
  diff : BitVec 32
  bad : Bool

/-- Does an entry lie below a record's place? -/
def Entry.before (x : Entry) (k v t : Word) : Bool :=
  deltaLe ⟨x.key, x.val, x.time, 0, 0, false⟩ ⟨k, v, t, 0, 0, false⟩ && !(x.key == k && x.val == v && x.time == t)

/-- Is a chain in ascending order, no two entries equal (13 R331)? -/
def ascending : List Entry → Bool
  | x :: y :: xs => x.before y.key y.val y.time && ascending (y :: xs)
  | _ => true

namespace Engine

def header (e : Engine) (off : Nat) : Header × Engine :=
  let (v, e) := e.read off 64
  let w (n : Nat) : Nat := v / 2 ^ (64 * n) % 2 ^ 64
  (⟨off, bits (w 0) 47 44, bits (w 0) 21 0, bits (w 1) 15 0, bits (w 2) 63 32, bits (w 2) 31 0, w64 (w 3), w64 (w 4),
    bits (w 5) 47 32, bits (w 5) 31 0,
    bits (w 0) 63 48 != 0 || bits (w 0) 43 22 != 0 || bits (w 1) 63 16 != 0 || bits (w 5) 63 48 != 0 || w 6 != 0 || w 7 != 0⟩, e)

/-- Write HWM, FREE and COUNT. -/
def putCounts (e : Engine) (h : Header) : Engine :=
  (e.write (h.off + 16) 8 (h.hwm * 2 ^ 32 + h.free)).write (h.off + 24) 8 h.count.toNat

def putCursor (e : Engine) (h : Header) (cb ce : Nat) : Engine := e.write (h.off + 40) 8 (cb * 2 ^ 32 + ce)

def bucketOff (h : Header) (b : Nat) : Nat := h.off + 64 + 4 * b
def entryOff (h : Header) (i : Nat) : Nat := h.pool + 32 * i - 32

/-- The bucket of a key (13 R331). -/
def bucketOf (h : Header) (k : Word) : Nat := (keyHash 0 k).toNat % 2 ^ h.log2nb

def entry (e : Engine) (h : Header) (i : Nat) : Entry × Engine :=
  let (r, e) := e.record (entryOff h i)
  (⟨i, r.key, r.val, r.time, r.tag.toNat, r.diff, r.poison⟩, { e with seen := e.seen + 1 })

/-- The chain from an entry on, up to one in a poisoned line. One that leaves the pool, or is longer than the pool, is
corrupted (13 R331). -/
def chain (e : Engine) (h : Header) : Nat → Nat → List Entry × Engine
  | 0, i => ([], { e with corrupt := e.corrupt || i != 0 })
  | n + 1, i =>
    if i = 0 then ([], e)
    else if h.pcap < i then ([], { e with corrupt := true })
    else
      let (x, e) := e.entry h i
      if x.bad then ([x], e)
      else
        let (xs, e) := chain e h n x.next
        (x :: xs, e)

/-- The chain of a bucket, which is corrupted when it is not in order or holds an entry of another bucket (13 R331). -/
def bucket (e : Engine) (h : Header) (b : Nat) : List Entry × Engine :=
  let bad := (SMap.find (e.s.key (bucketOff h b) / 64) e.s.poison).isSome
  let (i, e) := e.read (bucketOff h b) 4
  if bad then ([⟨0, 0, 0, 0, 0, 0, true⟩], e)
  else
    let (xs, e) := e.chain h h.pcap i
    let sound := xs.any (·.bad) || (ascending xs && xs.all fun x => bucketOf h x.key == b)
    (xs, { e with corrupt := e.corrupt || !sound })

def putEntry (e : Engine) (h : Header) (x : Entry) : Engine :=
  e.write (entryOff h x.idx) 32 (deltaNat ⟨x.key, x.val, x.time, .ofNat 32 x.next, x.diff, false⟩)

/-- Set the link of the entry before, or of the bucket. -/
def putLink (e : Engine) (h : Header) (b : Nat) (prev : Option Entry) (i : Nat) : Engine :=
  match prev with
  | some p => e.write (entryOff h p.idx + 28) 4 i
  | none => e.write (bucketOff h b) 4 i

/-- Zero an entry and push it onto the free chain (13 R332). -/
def freeEntry (e : Engine) (h : Header) (i : Nat) : Header × Engine :=
  let e := e.putEntry h ⟨i, 0, 0, 0, h.free, 0, false⟩
  let h := { h with free := i, count := h.count - 1 }
  (h, e)

/-- Apply one record to an arrangement (13 R332), or the trap that it raises. -/
def apply (e : Engine) (h : Header) (r : Delta) : Except (BitVec 9 × Engine) (Header × Engine) :=
  if r.diff = 0 then .ok (h, e)
  else
    let t := if r.time.toNat < h.since.toNat then h.since else r.time
    let b := bucketOf h r.key
    let (all, e) := e.bucket h b
    let prev := (all.takeWhile fun x => x.before r.key r.val t).getLast?
    let next := (all.dropWhile fun x => x.before r.key r.val t).head?
    match next.filter fun x => x.key == r.key && x.val == r.val && x.time == t with
    | some x =>
      let sum := x.diff.toInt + r.diff.toInt
      if diffOverflows sum then .error (cDIFF, e)
      else if sum = 0 then
        let e := e.putLink h b prev x.next
        let (h, e) := e.freeEntry h x.idx
        .ok (h, e.putCounts h)
      else .ok (h, e.putEntry h { x with diff := .ofInt 32 sum })
    | none =>
      let link := (next.map (·.idx)).getD 0
      if h.free = 0 then
        if h.hwm = h.pcap then .error (cARFULL, e)
        else
          let h := { h with hwm := h.hwm + 1, count := h.count + 1 }
          .ok (h, ((e.putEntry h ⟨h.hwm, r.key, r.val, t, link, r.diff, false⟩).putLink h b prev h.hwm).putCounts h)
      else
        let (f, e) := { e with corrupt := e.corrupt || decide (h.pcap < h.free) }.entry h h.free
        let h := { h with free := f.next, count := h.count + 1 }
        .ok (h, ((e.putEntry h ⟨f.idx, r.key, r.val, t, link, r.diff, false⟩).putLink h b prev f.idx).putCounts h)

/-- Apply records i, i + 1, … of n; the engine, how many are complete, and the trap. A record that meets a poisoned line
takes no effect (13 R325). -/
def applyAll (e : Engine) (h : Header) (src : Nat) : Nat → Nat → Engine × Nat × Option Cause
  | 0, i => (e, i, none)
  | n + 1, i =>
    let (r, e₁) := e.record (src + 32 * i)
    match e₁.apply h r with
    | .error (c, e₂) => (e.without e₂, i, some (if e₂.bad then ⟨cPOISON, 0, 0⟩ else ⟨c, 0, 0⟩))
    | .ok (h', e₂) => if e₂.bad then (e.without e₂, i, some ⟨cPOISON, 0, 0⟩) else applyAll e₂ h' src n (i + 1)

/-- Write the products of a record with its matches (13 R333). -/
def products (e : Engine) (r : Delta) (vs dst : Nat) : List Entry → Nat → Except Unit (Engine × Nat)
  | [], o => .ok (e, o)
  | x :: xs, o =>
    let p := r.diff.toInt * x.diff.toInt
    if diffOverflows p then .error ()
    else
      let v : Word := match vs with
        | 0 => r.val
        | 1 => x.val
        | _ => (x.val.setWidth 32 : BitVec 32) ++ (r.val.setWidth 32 : BitVec 32)
      let t := if r.time.toNat < x.time.toNat then x.time else r.time
      products (e.write (dst + 32 * o) 32 (deltaNat ⟨r.key, v, t, 0, .ofInt 32 p, false⟩)) r vs dst xs (o + 1)

/-- How a join ends: the engine, the record it stands at, the outputs, and complete, stopped by the limit or trapped. -/
structure Joined where
  e : Engine
  i : Nat
  o : Nat
  done : Bool
  trap : Option Cause

/-- Join records i, i + 1, … of n (13 R333). -/
def joinAll (e : Engine) (h : Header) (src dst limit vs : Nat) : Nat → Nat → Nat → Joined
  | 0, i, o => ⟨e, i, o, true, none⟩
  | n + 1, i, o =>
    let (r, e₁) := e.record (src + 32 * i)
    let (all, e₁) := if r.diff = 0 then ([], e₁) else e₁.bucket h (bucketOf h r.key)
    let m := all.filter fun x => x.key == r.key
    if e₁.bad then ⟨e.without e₁, i, o, false, some ⟨cPOISON, 0, 0⟩⟩
    else if limit < o + m.length then ⟨e₁, i, o, false, if o = 0 then some ⟨cRANGE, 0, 0⟩ else none⟩
    else match e₁.products r vs dst m o with
      | .error _ => ⟨e₁, i, o, false, some ⟨cDIFF, 0, 0⟩⟩
      | .ok (e₂, o') => joinAll e₂ h src dst limit vs n (i + 1) o'

/-- The entries of buckets b, b + 1, … of n, up to a number of them, with their buckets (13 R334). -/
def scanFrom (e : Engine) (h : Header) (limit : Nat) : Nat → Nat → List (Nat × Entry) → List (Nat × Entry) × Engine × Nat
  | 0, _, acc => (acc, e, 0)
  | n + 1, b, acc =>
    if limit ≤ acc.length then (acc, e, 0)
    else
      let (xs, e) := e.bucket h b
      let (r, e, y) := scanFrom e h limit n (b + 1) (acc ++ xs.map fun x => (b, x))
      (r, e, y + 1)

/-- The entries that a scan finds from its cursor on (13 R334). -/
def scan (e : Engine) (h : Header) (byKey : Bool) (k : Word) (limit : Nat) : List (Nat × Entry) × Engine × Nat :=
  if byKey then
    let b := bucketOf h k
    let (xs, e) := if h.cb = b ∧ h.ce ≠ 0 then e.chain h h.pcap h.ce else e.bucket h b
    ((xs.filter fun x => x.bad || x.key == k).map fun x => (b, x), e, 1)
  else if h.ce ≠ 0 then
    let (xs, e) := e.chain h h.pcap h.ce
    let (r, e, y) := e.scanFrom h limit (2 ^ h.log2nb - h.cb - 1) (h.cb + 1) (xs.map fun x => (h.cb, x))
    (r, e, y + 1)
  else e.scanFrom h limit (2 ^ h.log2nb - h.cb) h.cb []

/-- The chains of buckets b, b + 1, … of n. -/
def chains (e : Engine) (h : Header) : Nat → Nat → List (List Entry) × Engine
  | 0, _ => ([], e)
  | n + 1, b =>
    let (xs, e) := e.bucket h b
    let (r, e) := chains e h n (b + 1)
    (xs :: r, e)

end Engine

/-- Runs of equal entries of a chain whose early times have been folded into t (13 R335). -/
def entryRuns (t : Word) : List Entry → List (List Entry)
  | [] => []
  | x :: xs =>
    let x := if x.time.toNat < t.toNat then { x with time := t } else x
    match entryRuns t xs with
    | (y :: run) :: more =>
      if x.key == y.key && x.val == y.val && x.time == y.time then (x :: y :: run) :: more else [x] :: (y :: run) :: more
    | more => [x] :: more

def entrySum (run : List Entry) : Int := run.foldl (fun n x => n + x.diff.toInt) 0

/-- What a run leaves and what it frees (13 R335). -/
def compactRun (run : List Entry) : List Entry × List Nat :=
  match run with
  | [] => ([], [])
  | x :: xs => if entrySum run = 0 then ([], run.map (·.idx)) else ([{ x with diff := .ofInt 32 (entrySum run) }], xs.map (·.idx))

/-- A chain with each entry linked to the one after it. -/
def relink : List Entry → List Entry
  | [] => []
  | x :: xs => { x with next := ((xs.head?).map (·.idx)).getD 0 } :: relink xs

namespace Engine

/-- Write the compacted chains from bucket b on, freeing what they lose (13 R335). -/
def putChains (e : Engine) (h : Header) : List (List (List Entry)) → Nat → Header × Engine
  | [], _ => (h, e)
  | runs :: more, b =>
    let kept := relink (runs.flatMap fun r => (compactRun r).1)
    let e := kept.foldl (fun e x => e.putEntry h x) (e.write (bucketOff h b) 4 (((kept.head?).map (·.idx)).getD 0))
    let (h, e) := (runs.flatMap fun r => (compactRun r).2).foldl (fun ((h, e) : Header × Engine) i => e.freeEntry h i) (h, e)
    putChains e h more (b + 1)

end Engine

namespace State

/-- The checks of an arrangement's header (13 R331), and the engine with it. -/
def arrangement (s : State) (a : Word) (k : Header → Engine → Result) : Result :=
  match s.addrForm a with
  | none => s.raise cADDRESS a
  | some (l, c, off) =>
    if !(l == s.core.ltn && c == s.core.num) || off % 64 != 0 || s.rim.visibleTop < off + 64 then s.raise cADDRESS a
    else
      let (h, e) := Engine.header (Engine.on s) off
      let oneBank (x n : Nat) : Bool := decide (x + n ≤ s.rim.visibleTop) && x / 2 ^ 20 == (x + n - 1) / 2 ^ 20
      if !oneBank off (64 + 4 * 2 ^ h.log2nb) || (h.pcap != 0 && !oneBank h.pool (32 * h.pcap)) then s.raise cADDRESS a
      else if h.reserved || h.log2nb == 15 || h.pcap == 0 || 32767 < h.pcap || h.pcap < h.hwm || h.pool % 32 != 0 then
        s.raise cARINVALID
      else match s.bankCheck off 64, s.bankCheck h.pool 32 with
        | some (.trap c), _ | _, some (.trap c) => s.raise c a
        | some (.waking b), _ | _, some (.waking b) => (s.startWake b).forfeit
        | _, _ => k h e

/-- The ranges of an arrangement: header and buckets, and the pool (13 R330). -/
def spansOf (s : State) (h : Header) : List (Nat × Nat) :=
  [(s.key h.off, 64 + 4 * 2 ^ h.log2nb), (s.key h.pool, 32 * h.pcap)]

/-- The operation whose window opens next: its accesses claim their banks one in a cycle, from the cycle after the issue to
the bound of R337 (13 R325, log entry 47). What it has written, from the state `before` on, is no store into the arrangement
of an operation that is still open (R339). -/
def engineStarts (s before : State) (e : Engine) (n : Nat) (spans : List (Nat × Nat)) : State :=
  let op : EngineOp := ⟨some s.core.nextTag, e.trace.reverse.take n, spans, s.cellsIn spans⟩
  let open_ := s.core.engine.map fun o => if before.cellsIn o.spans = o.cells then { o with cells := s.cellsIn o.spans } else o
  { s with core := { s.core with engine := open_ ++ [op] } }

/-- A delta operation ends its window after n cycles with its writes, or its trap, which takes the strand back to the
head (13 R326). One that has followed a corrupted chain leaves the arrangement, its output and its results undefined (R331,
log entry 1). -/
def deltaResult (s : State) (e : Engine) (n : Nat) (writes : List WinWrite) (trap : Option Cause)
    (spans : List (Nat × Nat) := []) (out : List (Nat × Nat) := []) : Result :=
  if s.windowsFull then s.raise cWINDOW
  else if e.corrupt then
    let (f, t) := (e.s.ruin (spans ++ out)).free
    let open_ : WinWrite → WinWrite
      | .reg r _ => .reg r f
      | .swSet mask _ => .swSet mask f
      | w => w
    .next ((t.engineStarts s e n spans).longResult 0 n (writes.map open_) none true)
  else .next ((e.s.engineStarts s e n spans).longResult 0 n writes trap true)

/-! ## Rings (13 R314) -/

/-- The range of a queue's ring. -/
def ringSpan (s : State) (d : DQueue) : List (Nat × Nat) := [(s.key d.base.toNat, 32 * 2 ^ d.log2cap)]

/-- Where untaken record i stands in the ring: the places follow one another from the head's on (log entry 47). -/
def ringKey (s : State) (d : DQueue) (i : Nat) : Nat := s.key (d.base.toNat + 32 * ((d.head + i) % 2 ^ d.log2cap))

/-- A queue as the engine finds it: its records as they stand, or undefined ones once a program has stored into the ring. -/
def seenQueue (s : State) (q : Fin 16) : DQueue × State :=
  let d := s.core.dq[q]
  if s.cellsIn (s.ringSpan d) = d.ring then
    ({ d with untaken := (d.untaken.zip (List.range d.untaken.length)).map fun (r, i) =>
      { r with poison := r.poison || s.poisoned (s.ringKey d i) 32 } }, s)
  else
    let f (n : Nat) : Word := Config.freeValue (s.fresh + n)
    ({ d with untaken := (List.range d.untaken.length).map fun i =>
      ⟨f (5 * i), f (5 * i + 1), f (5 * i + 2), (f (5 * i + 3)).setWidth 32, (f (5 * i + 4)).setWidth 32, false⟩ },
      { s with fresh := s.fresh + 5 * d.untaken.length })

/-- Keep a queue as the engine leaves it, with its ring. -/
def keepQueue (s : State) (q : Fin 16) (d : DQueue) : State :=
  { s with core := { s.core with dq := s.core.dq.set q { d with ring := s.cellsIn (s.ringSpan d) } } }

/-- Write the untaken records from number i on into the ring, two of a line at once (17 R407). -/
def putRun (s : State) (d : DQueue) : Nat → List Delta → State
  | _, [] => s
  | i, [r] => s.write none (s.ringKey d i) (leBytes 32 (deltaNat r)) r.poison
  | i, r :: x :: rs =>
    if (d.head + i) % 2 = 0 then
      putRun (s.write none (s.ringKey d i) (leBytes 32 (deltaNat r) ++ leBytes 32 (deltaNat x)) (r.poison || x.poison)) d (i + 2) rs
    else putRun (s.write none (s.ringKey d i) (leBytes 32 (deltaNat r)) r.poison) d (i + 1) (x :: rs)

/-- The engine's next access claims its bank, after the agents before it and before the issuing strand (01 R17, 13 R325): one
access in a cycle, of the oldest operation that has one. -/
def serveEngine (s : State) : State :=
  let rec go : List EngineOp → List EngineOp → Option (Nat × Bool × List EngineOp)
    | _, [] => none
    | before, o :: os => match o.accesses with
      | [] => go (before ++ [o]) os
      | (off, reads) :: more => some (off, reads, before ++ { o with accesses := more } :: os)
  match go [] s.core.engine with
  | none => s
  | some (off, reads, ops) =>
    if s.bankBusy off then s
    else
      let s := s.serve off
      let s := if reads then s.countReads 1 else s
      { s with core := { s.core with engine := ops.filter fun o => o.tag.isSome || !o.accesses.isEmpty } }

end State

/-- ⌈log2 n⌉. -/
def log2Up (n : Nat) : Nat := if n ≤ 1 then 0 else (n - 1).log2 + 1

/-- The write of a progress count into RIX. -/
def rixWrite (n : Nat) : WinWrite := .swSet rixMask (rixBits n)

/-! ## Heads -/

/-- Sends records to a delta queue (13 R327). The records are read from the next cycle on, a line in each; what they hold as the
head issues decides its traps (log entry 47). -/
def execDqpush (a b : Reg) (n : BitVec 6) (s : State) : Result :=
  s.issueHead [(Opd.src a).noPort, (Opd.src b).noPort] [] false fun s =>
    let dst := s.regW a.toNat
    let count := n.toNat + 1
    match s.destWord dst 4 with
    | none => s.raise cADDRESS dst
    | some (ltn, core, q) =>
      s.localRange (s.regW b.toNat) (32 * count) 32 fun off =>
        if s.payloadHeld off (32 * count) then s.forfeit
        else s.settledOr fun _ => s.afterTile ltn fun _ =>
          let entries := (count + 15) / 16
          if s.holdFree < entries then s.sleep (.hold entries)
          else
            let rs := ((List.range count).map fun i => (i, s.deltaAt (s.key off + 32 * i))).filter fun r => r.2.diff != 0
            let held := s.holdOf s.issue.slot
            match rs.find? fun r => decide (r.2.time.toNat < held.toNat) with
            | some r => s.raise cTIME 0 (.ofNat 32 r.1)
            | none =>
              if !rs.isEmpty && (s.keyOf ltn).st == .exited then
                (s.deadLetter s.core.num s.issue.slot.val dst (SMap.getD s.tile.seqMsg ltn 0)).raiseNext cDEADLETTER 0
                  (.ofNat 32 (ltn % 4096))
              else
                let p : Push := ⟨ltn, core, q, entries, held, State.leastWord (rs.map (·.2.time)), s.issue.info, []⟩
                .next (s.modMe fun x => { x with
                  pushes := x.pushes ++ [p], payload := x.payload ++ State.readLines off (4 * count) none })

/-- Retires the slot's taken set and takes records of a queue (13 R328). -/
def execDqpop (d a b : Reg) (la : BitVec 4) (nb : Bool) (q : BitVec 4) (s : State) : Result :=
  s.issueHead [(Opd.dst d).noPort, (Opd.src a).noPort, (Opd.src b).noPort] [] false fun s => s.settledOr fun _ =>
    let limit := (s.regW b.toNat).toNat
    let (queue, u) := s.seenQueue q.toFin
    let r := u.modMe fun x => { x with taken := [] }
    let d' (v : Nat) : List WinWrite := [.reg d (w64 v)]
    let again := la == 0
    if !queue.valid || decide (64 < limit) then r.raise cRANGE
    else if s.windowsFull then r.raise cWINDOW
    else if limit = 0 then
      let tkn := r.takenOf q.toFin
      let unt := queue.untaken.length
      .next (r.longResult la 8 (d' (queue.cp.toNat * 2 ^ 62 + unt * 2 ^ 32 + tkn * 2 ^ 16 + (2 ^ queue.log2cap - unt - tkn))))
    else r.localRange (s.regW a.toNat) (32 * limit) 32 fun off =>
      if queue.untaken.isEmpty then
        if nb then .next (r.longResult la 8 (d' 0)) else r.sleep (.records q.toFin)
      else
        let t := min limit queue.untaken.length
        let recs := queue.untaken.take t
        let n := 8 + 2 * t + (if queue.cp.getLsbD 1 then 4 else 0)
        match s.bankCheck queue.base.toNat 1 with
        | some (.trap c) => .next (r.longResult la n [rixWrite 0] (some ⟨c, 0, 0⟩) again)
        | some (.waking b) => (s.startWake b).forfeit
        | _ =>
        if recs.any (·.poison) then .next (r.longResult la n [rixWrite 0] (some ⟨cPOISON, 0, 0⟩) again)
        else
          let (w, lost) := if queue.cp.getLsbD 1 then consolidate recs else (recs, 0)
          let rest := queue.untaken.drop t
          let left := r.keepQueue q.toFin { queue with untaken := rest, head := (queue.head + t) % 2 ^ queue.log2cap }
          let e := Engine.putRecords (Engine.on left) off limit w
          let e := { e with trace := e.trace ++ ((List.range t).map fun i => (r.ringKey queue i % 2 ^ 22, true)).reverse }
          let s := (List.range lost).foldl (fun s _ => s.bump 21) e.s
          let s := s.modMe fun x => { x with taken := w.map fun x => (q.toFin, x) }
          .next ((s.engineStarts u e n []).longResult la n (d' ((!rest.isEmpty).toNat * 2 ^ 63 + t * 2 ^ 16 + w.length)))

/-- Consolidates n records in place (13 R329). -/
def execDqcons (d a b : Reg) (s : State) : Result :=
  s.issueHead [(Opd.dst d).noPort, (Opd.src a).noPort, (Opd.src b).noPort] [] false fun s => s.settledOr fun _ =>
    let n := (s.regW b.toNat).toNat
    let ea := s.regW a.toNat
    if n = 0 ∨ 2048 < n then s.raise cRANGE
    else s.localRange ea (32 * n) 32 fun off =>
      let (rs, e) := Engine.records (Engine.on s) off n
      let time := 12 + n * (log2Up n + 2)
      if e.bad then s.deltaResult e time [rixWrite 0] (some ⟨cPOISON, 0, ea⟩)
      else
        let runs := deltaRuns (sortDeltas rs)
        match overflowAt runs 0 with
        | some p => s.deltaResult e time [] (some ⟨cDIFF, .ofNat 32 p, ea⟩)
        | none =>
          let w := runs.flatMap fun r => (mergeRun r).getD r
          s.deltaResult (e.putRecords off n w) time [.reg d (w64 w.length)] none

/-- Applies n records to an arrangement (13 R332). -/
def execArupd (a b : Reg) (n : Byte) (s : State) : Result :=
  s.issueHead [(Opd.src a).noPort, (Opd.src b).noPort] [] false fun s => s.settledOr fun _ =>
    let count := n.toNat + 1
    s.arrangement (s.regW a.toNat) fun h e => s.localRange (s.regW b.toNat) (32 * count) 32 fun off =>
      let i := swRIX s.rdSw
      let (e, i, trap) := if e.bad then (e, i, some ⟨cPOISON, 0, s.regW a.toNat⟩) else e.applyAll h off (count - i) i
      s.deltaResult e (8 + 6 * count + 2 * e.seen) [rixWrite (if trap.isSome then i else 0)] trap (s.spansOf h)

/-- Joins records with an arrangement (13 R333). -/
def execArjoin (d a b c : Reg) (vs : BitVec 2) (s : State) : Result :=
  s.issueHead [(Opd.acc d).noPort, (Opd.src a).noPort, (Opd.src b).noPort, (Opd.third c).noPort] [] false
    (extra := vs != 3) fun s => s.settledOr fun _ =>
    let w := (s.regW c.toNat).toNat
    let n := bits w 7 0
    let limit := bits w 31 16
    let out := s.regW d.toNat
    s.arrangement (s.regW a.toNat) fun h e =>
      if n = 0 ∨ limit = 0 ∨ 4095 < limit ∨ bits w 15 8 ≠ 0 ∨ bits w 63 32 ≠ 0 then s.raise cRANGE
      else s.localRange (s.regW b.toNat) (32 * n) 32 fun src => s.localRange out (32 * limit) 32 fun dst =>
        let i := swRIX s.rdSw
        let j : Engine.Joined := if e.bad then ⟨e, i, 0, false, some ⟨cPOISON, 0, s.regW a.toNat⟩⟩
          else e.joinAll h src dst limit vs.toNat (n - i) i 0
        let flags : WinWrite := match j.trap with
          | some _ => .swSet 0xD 0
          | none => .swSet 0xF (if j.done then 2 else 0)
        s.deltaResult j.e (8 + 6 * n + 2 * j.e.seen + j.o)
          [rixWrite (if j.done then 0 else j.i), .reg d (out + w64 (32 * j.o)), flags] j.trap (s.spansOf h) [(s.key dst, 32 * limit)]

/-- Copies entries of an arrangement from its cursor on (13 R334). One in a poisoned line stops the scan, the entries before
it copied and the cursor at it (R325). -/
def execArscan (d a b c : Reg) (k : Bool) (s : State) : Result :=
  s.issueHead [(Opd.acc d).noPort, (Opd.src a).noPort, (Opd.src b).noPort, (Opd.third c).noPort] [] false fun s =>
    s.settledOr fun _ =>
    let limit := (s.regW c.toNat).toNat
    let out := s.regW d.toNat
    s.arrangement (s.regW a.toNat) fun h e =>
      if limit = 0 ∨ 4095 < limit then s.raise cRANGE
      else s.localRange out (32 * limit) 32 fun dst =>
        if e.bad then s.deltaResult e 8 [rixWrite 0] (some ⟨cPOISON, 0, s.regW a.toNat⟩)
        else
          let (found, e₁, buckets) := e.scan h k (s.regW b.toNat) (limit + 1)
          let time := 8 + 2 * e₁.seen + buckets
          let now := ((found.take limit).takeWhile fun x => !x.2.bad).map fun (_, x) =>
            (⟨x.key, x.val, x.time, 0, x.diff, false⟩ : Delta)
          let e := e₁.putRecords dst now.length now
          let (e, c) := match found.drop now.length with
            | (b, x) :: _ => (e.putCursor h b x.idx, 0)
            | [] => (e.putCursor h 0 0, 2)
          let writes : List WinWrite := [.reg d (out + w64 (32 * now.length)), .swSet 0xF c]
          let spans := s.spansOf h
          if now.length < min limit found.length then
            s.deltaResult e time (rixWrite now.length :: writes) (some ⟨cPOISON, 0, s.regW a.toNat⟩) spans [(s.key dst, 32 * limit)]
          else s.deltaResult e time writes none spans [(s.key dst, 32 * limit)]

/-- Folds times below t into t (13 R335). -/
def execArcompact (a b : Reg) (s : State) : Result :=
  s.issueHead [(Opd.src a).noPort, (Opd.src b).noPort] [] false fun s => s.settledOr fun _ =>
    let t := s.regW b.toNat
    let ea := s.regW a.toNat
    if s.tile.known.toNat < t.toNat then s.raise cRANGE
    else s.arrangement ea fun h e =>
        let spans := s.spansOf h
        let time := 8 + 4 * h.hwm + 2 ^ h.log2nb
        if e.bad then s.deltaResult e time [rixWrite 0] (some ⟨cPOISON, 0, ea⟩)
        else if t.toNat ≤ h.since.toNat then s.deltaResult e time [] none spans
        else
          let (all, e₁) := e.chains h (2 ^ h.log2nb) 0
          let runs := all.map (entryRuns t)
          if e₁.bad then s.deltaResult e time [rixWrite 0] (some ⟨cPOISON, 0, ea⟩)
          else if runs.any fun c => c.any fun r => diffOverflows (entrySum r) then
            s.deltaResult e₁ time [] (some ⟨cDIFF, 0, ea⟩) spans
          else
            let (h, e) := e₁.putChains h runs 0
            let e := ((e.putCounts h).write (h.off + 32) 8 t.toNat).putCursor h 0 0
            s.deltaResult e time [] none spans

/-- Advances or closes a producer clock (13 R336). -/
def execFrontadv (a : Reg) (p : BitVec 5) (s : State) : Result :=
  s.issueHead [(Opd.src a).noPort] [] false (extra := decide (p.toNat ≤ 7)) fun s => s.settledOr fun _ =>
    let i : Fin 8 := .ofNat 8 p.toNat
    let t := s.regW a.toNat
    match s.tile.clocks[i] with
    | none => .next s
    | some c =>
      let v := if t = BitVec.allOnes 64 then none else some (if c.toNat < t.toNat then t else c)
      .next { s with tile := { s.tile with clocks := s.tile.clocks.set i v } }

/-- Reads the known frontier, a clock or the hold (13 R336). -/
def execFrontrd (d : Reg) (n : BitVec 5) (s : State) : Result :=
  s.issueHead [(Opd.dst d).noPort] [] false (extra := decide (n.toNat ≤ 9)) fun s => s.settledOr fun _ =>
    let v := if n = 0 then s.tile.known
      else if n = 9 then s.holdOf s.issue.slot
      else (s.tile.clocks[(Fin.ofNat 8 (n.toNat - 1))]).getD (BitVec.allOnes 64)
    .next (s.setW s.issue.slot d.toNat v)

/-- Retires the taken set and waits until the known frontier exceeds a (13 R336). -/
def execDqwaitf (d a : Reg) (s : State) : Result :=
  s.issueHead [(Opd.dst d).noPort, (Opd.src a).noPort] [] false fun s => s.settledOr fun _ =>
    let t := s.regW a.toNat
    if t = BitVec.allOnes 64 ∨ (s.me.task.map fun k => decide (k.key.stamp.toNat ≤ t.toNat)) = some true then s.raise cRANGE
    else
      let r := s.modMe fun x => { x with taken := [] }
      if t.toNat < s.tile.known.toNat then .next (r.setW s.issue.slot d.toNat s.tile.known)
      else .next (r.await (.frontier t d))

/-! ## Events -/

/-- Records of a delta queue that land in this cycle. -/
def State.landingRecords (s : State) (q : Fin 16) : List Delta :=
  s.core.landing.flatMap fun l => match l with
    | .records p rs => if p = q then rs else []
    | _ => []

/-- What has reached the core in a cycle is there at its end: writes perform, words and records are seen from the next cycle
on (09 R222, 12 R301, 13 R318, R319). -/
def State.landOne (s : State) : Landing → State
  | .store k data poison =>
    let s := s.writeLanes none k data
    if poison then s.poisonRange k data.length else s
  | .message q m => { s with core := { s.core with mq := s.core.mq.set q (s.core.mq[q] ++ [m]) } }
  | .records q rs =>
    let (d, s) := s.seenQueue q
    let (l, lost) := if d.cp.getLsbD 0 then consolidate (d.untaken ++ rs) else (d.untaken ++ rs, 0)
    let s := (List.range lost).foldl (fun s _ => s.bump 21) s
    let first := if d.cp.getLsbD 0 then 0 else d.untaken.length
    let d := { d with untaken := l }
    let s := (s.putRun d first (l.drop first)).keepQueue q d
    let writes := (List.range (l.length - first)).map fun i => (s.ringKey d (first + i) % 2 ^ 22, false)
    { s with core := { s.core with engine := s.core.engine ++ [⟨none, writes, [], []⟩] } }

def State.landAll (s : State) : State := s.core.landing.foldl State.landOne { s with core := { s.core with landing := [] } }

/-- A packet's records land in their queue, or it is refused, or its queue is not declared (13 R318, R319). -/
def execDeltaPacketAccept (m : Packet) (s : State) : Result :=
  match m.body with
  | .delta q rs =>
    let queue := s.core.dq[q.toFin]
    if !queue.valid then s.arriveMsg m (3, 5) some
    else s.arriveMsg m (2, 0) fun s =>
      if 2 ^ queue.log2cap < queue.untaken.length + (s.landingRecords q.toFin).length + s.takenOf q.toFin + rs.length then none
      else some (s.land (.records q.toFin (rs.map fun r => { r with tag := (r.tag &&& 0x00FF0000) ||| queue.qid.setWidth 32 })))
  | _ => .next s

/-- The class-0 network computes the frontier again; what it finds reaches the tile within the bound of `.W` (09 R238,
11 R289, log entries 6 and 7). -/
def execFrontierChange (s : State) : Result :=
  let t := s.localFrontier
  .next (if decide (s.tile.known.toNat < t.toNat) then s.after 300 (.knownFrontierUpdate t) else s)

/-- An update of the known frontier, which never decreases (13 R324); strands that wait for it wake with it (R336). -/
def execKnownFrontierUpdate (t : Word) (s : State) : Result :=
  let s := s.logged 6 0 0 [w64 0x30, t] (.knownFrontierUpdate t)
  let now := if s.tile.known.toNat < t.toNat then t else s.tile.known
  let s : State := { s with tile := { s.tile with known := now } }
  let s := allSlots.foldl (fun s i => match (s.slot i).wait with
    | some (.frontier u d) =>
      if u.toNat < now.toNat then
        (s.modSlot i fun x => { x with wait := some .answer }).answer i (s.slot i).strand [(d, now)]
      else s
    | _ => s) s
  .next { s with core := { s.core with spilled := s.core.spilled.map fun (n, c) => match c.slot.wait with
    | some (.frontier u d) =>
      if u.toNat < now.toNat then
        (n, { c with
          slot := { c.slot with wait := none, waitFrom := none, before := .ready }
          regs := c.regs.take (8 * d.toNat) ++ leBytes 8 now.toNat ++ c.regs.drop (8 * d.toNat + 8) })
      else (n, c)
    | _ => (n, c) } }

end Sys2Proof.Machine
end

