-- ==== Sys2Proof/Machine/FloatScalar.lean ====
section
/-! DEFINITION. Scalar floating instructions (04 R95, R113 to R116) and `RNDK` (04 R123). -/

namespace Sys2Proof.Machine

/-- The format code that an fmt3 field names (03 R74). -/
def fmt3 (f : BitVec 3) : Nat := 8 + f.toNat

/-- The format code that an fmt2 field names (03 R74). -/
def fmt2 (f : BitVec 2) : Nat := match f.toNat with | 0 => 8 | 1 => 9 | 2 => 10 | _ => 15

/-- Scalar arithmetic accepts FP32, FP16 and BF16 (04 R95). -/
def scalarFmt (c : Nat) : List (BitVec 5 × Bool) := [(.ofNat 5 c, decide (8 ≤ c ∧ c ≤ 10))]

namespace State

/-- d := f(a, b) in a format, rounded once (04 R95, R113); a choice among the operands is not `rounded`. -/
def fop2 (s : State) (c : Nat) (d a b : Reg) (f : Nat → Val → Val → Val × FFlags) (rounded : Bool := true) : Result :=
  s.issueHead ([.dst d, .src a, .src b] ++ if rounded then drawOpd s.rdSw else []) (scalarFmt c) false fun s₁ =>
    let (x, s₂) := s₁.readW a
    let (y, s₂) := s₂.readW b
    match operandF c (swSUB s₁.rdSw) x.toNat, operandF c (swSUB s₁.rdSw) y.toNat with
    | some (x, fx), some (y, fy) =>
      let (v, fv) := f (swRM s₁.rdSw) x y
      let (r, fr) := roundF c (s₁.rnd 0) v
      .next ((s₂.writeW d (w64 r)).orSw (swFlags (fx ||| fy ||| fv ||| fr)))
    | _, _ => s.raise cSUBNORMAL

/-- d := f(a), an exact choice among values: no flag but those of flushed operands (02 R57). -/
def fop1 (s : State) (c : Nat) (d a : Reg) (f : Val → Val) : Result :=
  s.issueHead [.dst d, .src a] (scalarFmt c) false fun s₁ =>
    let (x, s₂) := s₁.readW a
    match operandF c (swSUB s₁.rdSw) x.toNat with
    | some (x, fx) => .next ((s₂.writeW d (w64 (exactly c (f x)))).orSw (swFlags fx))
    | none => s.raise cSUBNORMAL

/-- A long floating result and its flags, written at the end of the window (04 R116). -/
def flong (s s₂ : State) (la : BitVec 4) (n : Nat) (d : Reg) (r : Nat) (f : FFlags) : Result :=
  if s.windowsFull then s.raise cWINDOW
  else .next (s₂.longResult la n [.reg d (w64 r), .swOr (swFlags f)])

end State

/-- FP32 takes the first latency, the 16-bit formats the second (04 R116). -/
def fpLatency (c n m : Nat) : Nat := if c = cFP32 then n else m

def execFadd (fmt : BitVec 3) (d a b : Reg) (s : State) : Result := s.fop2 (fmt3 fmt) d a b Val.add
def execFsub (fmt : BitVec 3) (d a b : Reg) (s : State) : Result :=
  s.fop2 (fmt3 fmt) d a b fun m x y => Val.add m x y.neg
def execFmul (fmt : BitVec 3) (d a b : Reg) (s : State) : Result := s.fop2 (fmt3 fmt) d a b fun _ x y => Val.mul x y

/-- One rounding; d is read through the third port (04 R113). -/
def execFfma (fmt : BitVec 3) (d a b : Reg) (s : State) : Result :=
  let c := fmt3 fmt
  s.issueHead ([.acc d, .src a, .src b] ++ drawOpd s.rdSw) (scalarFmt c) false fun s₁ =>
    let (x, s₂) := s₁.readW a
    let (y, s₂) := s₂.readW b
    let sub := swSUB s₁.rdSw
    match operandF c sub x.toNat, operandF c sub y.toNat, operandF c sub (s₁.regW d.toNat).toNat with
    | some (x, fx), some (y, fy), some (z, fz) =>
      let (v, fv) := Val.fma (swRM s₁.rdSw) x y z
      let (r, fr) := roundF c (s₁.rnd 0) v
      .next ((s₂.writeW d (w64 r)).orSw (swFlags (fx ||| fy ||| fz ||| fv ||| fr)))
    | _, _, _ => s.raise cSUBNORMAL

def execFdiv (fmt : BitVec 3) (d a b : Reg) (la : BitVec 4) (s : State) : Result :=
  let c := fmt3 fmt
  s.issueHead ([.dst d, .src a, .src b] ++ drawOpd s.rdSw) (scalarFmt c) false fun s₁ =>
    let (x, s₂) := s₁.readW a
    let (y, s₂) := s₂.readW b
    match operandF c (swSUB s₁.rdSw) x.toNat, operandF c (swSUB s₁.rdSw) y.toNat with
    | some (x, fx), some (y, fy) =>
      let (v, fv) := Val.div x y
      let (r, fr) := roundF c (s₁.rnd 0) v
      s.flong s₂ la (fpLatency c 24 16) d r (fx ||| fy ||| fv ||| fr)
    | _, _ => s.raise cSUBNORMAL

def execFsqrt (fmt : BitVec 3) (d a : Reg) (la : BitVec 4) (s : State) : Result :=
  let c := fmt3 fmt
  s.issueHead ([.dst d, .src a] ++ drawOpd s.rdSw) (scalarFmt c) false fun s₁ =>
    let (x, s₂) := s₁.readW a
    match operandF c (swSUB s₁.rdSw) x.toNat with
    | some (x, fx) =>
      let (v, fv) := Val.sqrt x
      let (r, fr) := roundF c (s₁.rnd 0) v
      s.flong s₂ la (fpLatency c 26 18) d r (fx ||| fv ||| fr)
    | none => s.raise cSUBNORMAL

/-- −0 orders below +0; a single NaN gives the other operand (04 R114). -/
def execFmin (fmt : BitVec 3) (d a b : Reg) (s : State) : Result :=
  s.fop2 (fmt3 fmt) d a b (fun _ x y => (Val.pickMin false x y, 0)) false
def execFmax (fmt : BitVec 3) (d a b : Reg) (s : State) : Result :=
  s.fop2 (fmt3 fmt) d a b (fun _ x y => (Val.pickMin true x y, 0)) false
def execFabs (fmt : BitVec 3) (d a : Reg) (s : State) : Result := s.fop1 (fmt3 fmt) d a Val.abs
def execFneg (fmt : BitVec 3) (d a : Reg) (s : State) : Result := s.fop1 (fmt3 fmt) d a Val.neg

/-- The class of a code (04 R114). -/
def classBit (c v : Nat) : Nat :=
  match unpackF c v with
  | .nan => 8
  | .inf n => if n then 0 else 7
  | .fin n m _ =>
    if m = 0 then (if n then 3 else 4)
    else if isSubnormal c v then (if n then 2 else 5) else (if n then 1 else 6)

/-- Exempt from R57 (04 R114). -/
def execFclass (fmt : BitVec 3) (d a : Reg) (s : State) : Result :=
  let c := fmt3 fmt
  s.issueHead [.dst d, .src a] (scalarFmt c) false fun s =>
    let (x, s) := s.readW a
    .next (s.writeW d (w64 (2 ^ classBit c x.toNat)))

/-- Writes N, Z, C and V by R97 and the skip count as R103 does (04 R114). -/
def execFcmp (k : BitVec 2) (cc : BitVec 3) (fmt : BitVec 2) (a b : Reg) (s : State) : Result :=
  let c := fmt2 fmt
  s.issueHead [.src a, .src b] (scalarFmt c) false fun s₁ =>
    let (x, s₂) := s₁.readW a
    let (y, s₂) := s₂.readW b
    match operandF c (swSUB s₁.rdSw) x.toNat, operandF c (swSUB s₁.rdSw) y.toNat with
    | some (x, fx), some (y, fy) =>
      .next ((s₂.compare (relFlags (Val.cmp x y)) k cc).orSw (swFlags (fx ||| fy)))
    | _, _ => s.raise cSUBNORMAL

/-- A converted value as a register holds it: an integer extended by its sign, a float in the low bits (04 R115). -/
def resultWord (c v : Nat) : Word := if c < 4 then .ofInt 64 (signed (fmtWidth c) v) else w64 v

/-- Any pair of codes 0x00 to 0x0F (04 R115). -/
def execFcvt (src dst : BitVec 5) (d a : Reg) (s : State) : Result :=
  s.issueHead ([.dst d, .src a] ++ drawOpd s.rdSw) [(src, decide (src.toNat < 16)), (dst, decide (dst.toNat < 16))] false
      fun s₁ =>
    let (x, s₂) := s₁.readW a
    match convert src.toNat dst.toNat (swSUB s₁.rdSw) (s₁.rnd 0) (x.toNat % 2 ^ fmtWidth src.toNat) with
    | some (r, f) => .next ((s₂.writeW d (resultWord dst.toNat r)).orSw (swFlags f))
    | none => s.raise cSUBNORMAL

/-- The key-hash of the stand's seed and a + b (04 R123). -/
def execRndk (d a b : Reg) (s : State) : Result :=
  s.issueHead [.dst d, .src a, .src b] [] false fun s =>
    let (x, s) := s.readW a
    let (y, s) := s.readW b
    .next (s.writeW d (keyHash s.seed (x + y)))

end Sys2Proof.Machine
end

