-- ==== Sys2Proof/Machine/Park.lean ====
section
/-! DEFINITION. Parking and unparking strands, the switch of a workspace, and the spill engine (16 R384 to R392). -/

namespace Sys2Proof.Machine

namespace State

/-- The states of R384. -/
def stCode : SlotState → Nat
  | .empty => 0 | .ready => 1 | .window => 2 | .sleep => 3 | .matrix => 4 | .trapped => 5 | .parked => 6

/-- A context of a slot in the spill area that is not being reloaded. -/
def spilledOf (s : State) (i : Fin 16) : Option (Nat × Spilled) := s.core.spilled.find? fun c => c.2.from_ == i && !c.2.wanted

/-- Does a `WPSET` switch a slot's workspace (16 R391)? -/
def switching (s : State) (i : Fin 16) : Bool :=
  allSlots.any fun j => match (s.slot j).wait with
    | some (.switch t _ _) => t == i
    | _ => false

/-- Unpark a slot: READY, or SLEEP while its wait is not met; a spilled context is reloaded (16 R386). A switch of its
workspace finishes first (R391). -/
def unpark (s : State) (q : ParkReq) : State :=
  let i := q.slot
  let x := s.slot i
  if x.st == .parked then
    if s.switching i then s.setSlot i { x with parkAsked := x.parkAsked ++ [q] }
    else
      (s.setSlot i { x with
        st := x.before
        waitFrom := if x.before == .sleep then some s.tile.cycle else none }).replyPark q (stCode x.before)
  else match s.spilledOf i with
  | some (n, c) =>
    let put (c : Spilled) : State := { s with core := { s.core with spilled := SMap.put n c s.core.spilled } }
    if s.switching i then put { c with slot := { c.slot with parkAsked := c.slot.parkAsked ++ [q] } }
    else ((put { c with wanted := true }).after 1 (.reload i)).replyPark q 14
  | none => s.replyPark q (stCode x.st)

/-- A strand is parked; the requests that waited for it are answered in their order (16 R385, R387). -/
def parkNow (s : State) (i : Fin 16) : State :=
  let x := s.slot i
  let s := s.setSlot i { x with
    st := .parked, before := if x.st == .sleep then .sleep else .ready, parkedAt := s.tile.cycle, waitFrom := none
    parkAsked := [] }
  x.parkAsked.foldl (fun s q => if q.unpark then s.unpark q else s.replyPark q 6) s

/-- Is a slot at a boundary where a park that waits may take place (01 R21, 16 R385)? A task that a park has found with the
lowest key settles and commits first. -/
def atBoundary (s : State) (i : Fin 16) : Bool :=
  (s.slot i).st == .ready && (s.slot i).windows.isEmpty && (s.speculative i).isNone
    && (match (s.slot i).task with
      | some t => t.lines.isEmpty
      | none => true)

/-- A speculative task that is to be parked (16 R385): with the lowest key it settles, else it is aborted and parked before
its first head. -/
def parkTask (s : State) (i : Fin 16) : State :=
  if s.holdsLowest i then s.after 0 (.taskSettle i)
  else
    let asked := (s.slot i).parkAsked
    ((s.abortTask i).modSlot i fun x => { x with parkAsked := asked }).parkNow i

/-- Park the slots that wait for their boundary. -/
def parkBoundaries (s : State) : State :=
  allSlots.foldl (fun s i =>
    if (s.slot i).parkAsked.isEmpty then s
    else if s.atBoundary i then s.parkNow i
    else if (s.slot i).st == .ready && (s.speculative i).isSome then s.parkTask i
    else s) s

/-- A `PARK` by the state of its target (16 R385). -/
def park (s : State) (q : ParkReq) : State :=
  let i := q.slot
  let x := s.slot i
  let asked := s.setSlot i { x with parkAsked := x.parkAsked ++ [q] }
  match x.st with
  | .empty => s.replyPark q (if (s.spilledOf i).isSome then 14 else 0)
  | .parked => if x.parkAsked.isEmpty then s.replyPark q 6 else asked
  | .trapped | .matrix => asked
  | _ =>
    if (s.speculative i).isSome then asked.parkTask i
    else if x.st == .sleep || s.atBoundary i then asked.parkNow i
    else asked

/-- Serve the first request: those of the core's own strands in issue order, then arrivals (16 R387). -/
def serveParks (s : State) : State :=
  match (s.core.parkReqs.find? fun q => !q.2).or s.core.parkReqs.head? with
  | none => s
  | some (q, far) =>
    let s : State := { s with core := { s.core with
      parkReqs := s.core.parkReqs.erase (q, far), parks := s.tile.cycle + 1 } }
    let x := s.slot q.slot
    if !q.unpark then s.park q
    else if x.parkAsked.any fun p => !p.unpark then s.setSlot q.slot { x with parkAsked := x.parkAsked ++ [q] }
    else s.unpark q

/-- `PARK` and `UNPARK` (16 R384). -/
def parkHead (s : State) (d a : Reg) (n : BitVec 4) (unpark : Bool) : Result :=
  s.issueHead [(Opd.dst d).noPort, (Opd.src a).noPort] [] true fun s =>
    let ea := s.regW a.toNat
    match s.coreOf ea with
    | none => s.raise cADDRESS ea
    | some (ltn, core) =>
      let own := ltn == s.core.ltn && core == s.core.num
      let q : ParkReq := ⟨s.core.ltn, s.core.num, s.issue.slot, d, n.toFin, unpark, 0, s.me.strand⟩
      if own && n.toFin == s.issue.slot then s.raise cRANGE
      else s.settledOr fun _ =>
        if own then
          .next ((({ s with core := { s.core with parkReqs := s.core.parkReqs ++ [(q, false)] } } : State).after 1
            (.parkRequestServe q)).await .answer)
        else if s.holdFree = 0 then s.sleep (.hold 1)
        else .next ((s.sendPacket ltn core (.park q) s.me.strand).await .answer)

/-! ## The spill engine (16 R388 to R390) -/

/-- Has the core work for a slot in a source of 11 R265? The fifth, a steal, has none for a core without an EMPTY slot: only
an idle core probes, and it has one (11 R273). -/
def hasWork (s : State) : Bool :=
  !s.core.handlerQ.isEmpty || !s.core.arrivals.isEmpty || !s.core.ready.isEmpty || !s.core.deque.hw.isEmpty
    || s.core.deque.inRegion != 0

/-- May a slot's strand be spilled: PARKED, without an open window, and no handler of a TRAPPED strand? -/
def spillable (s : State) (i : Fin 16) : Bool :=
  let x := s.slot i
  x.st == .parked && x.windows.isEmpty && (match x.handler with
    | some h => (s.slot h.served).st != .trapped
    | none => true)

/-- The strand that the engine spills: the one parked longest, of equals the lower slot; none while a slot is free. -/
def spillChoice (s : State) : Option (Fin 16) :=
  if !s.hasWork || s.emptySlot.isSome then none
  else
    let l := allSlots.filter s.spillable
    l.find? fun i => l.all fun j => decide ((s.slot i).parkedAt ≤ (s.slot j).parkedAt)

/-- The stand-relative index of this tile (04 R118). -/
def tileIndex (s : State) : Nat :=
  let r := s.standRect
  (s.core.ltn / 30 - r.rowLo) * (r.colHi - r.colLo + 1) + (s.core.ltn % 30 - r.colLo)

/-- The area of a slot's context (16 R389). -/
def spillArea (s : State) (i : Fin 16) : Nat :=
  s.rim.spillBase + 2 ^ 16 * ((16 * s.tileIndex + s.core.num) * 16 + i.val)

/-- The words of a matrix tile as bytes (10 R241). -/
def tileBytes (m : MTile) : List Byte := (List.range 3072).flatMap fun n => leBytes 4 (SMap.getD m.words n 0).toNat

/-- The areas of a context that R389 places: its line of state with the loop stack, the loop buffer, the bindings and L, whose
layout it leaves open and which are free bytes here (log entry 17), `jf`, the assembly buffer, the workspace, and the tiles,
whose words fill their areas. -/
def spillImage (s : State) (x : Slot) (regs : List Byte) (tiles : List (Fin 4 × MTile)) : List (Nat × List Byte) × State :=
  let (head, s) := s.freeBytes 64
  let (rest, s) := s.freeBytes 752
  ([(0, head ++ leBytes 16 x.jf.toNat ++ rest)]
    ++ (x.qo.toList.map fun b => (0x340, b.buf.flatMap fun w => leBytes 8 w.toNat))
    ++ [(0x600, regs)] ++ (tiles.map fun (t, m) => (0x1000 + 12288 * t.val, tileBytes m)), s)

/-- Spill a slot's strand: its context and tiles go to the spill area, and the slot is EMPTY. -/
def spillSlot (s : State) (i : Fin 16) : State :=
  let s := s.finishPayload i
  let x := s.slot i
  let regs := bytesAt s.mem (s.wKey i 0) 768
  let tiles := ([0, 1, 2, 3] : List (Fin 4)).filterMap fun t =>
    if s.core.tiles[t].owner = some i then some (t, s.core.tiles[t]) else none
  let base := s.spillArea i
  let (image, s) := s.spillImage x regs tiles
  let (area, s) := image.foldl (fun (l, s) (off, b) =>
    let (m, t) := State.writeVirtual s (base + off) (b.length + 1) b
    (l ++ m, t)) (([], s) : List (Nat × List Byte) × State)
  let n := s.core.nextSpill
  let s := (s.releaseTiles i).setSlot i { Slot.none with lastTurn := x.lastTurn }
  { s with core := { s.core with
    spilled := SMap.put n ⟨{ x with spilled := true }, i, regs, tiles, false, area⟩ s.core.spilled, nextSpill := n + 1 } }

end State

/-! ## Heads -/

/-- Gives a parked slot another workspace; the strand sleeps while it is loaded (16 R391). The load touches the workspace's bank
for the issuing strand (01 R33) and is workspace buffer traffic (01 R17). -/
def execWpset (d a : Reg) (n : BitVec 4) (s : State) : Result :=
  s.issueHead [(Opd.dst d).noPort, (Opd.src a).noPort] [] true fun s =>
    let i : Fin 16 := n.toFin
    let wp := (s.regW a.toNat).toNat
    if i = s.issue.slot ∨ (s.slot i).st ≠ .parked then s.raise cSLOT
    else if !s.wpValid wp then s.raise cWP
    else match s.bankCheck wp 768 with
    | some (.trap c) => s.raise c
    | some (.waking b) => (s.startWake b).forfeit
    | _ =>
      let old : Word := (s.slot i).wp.setWidth 64
      let s := (s.claim wp 768).modSlot i fun x => { x with wp := .ofNat 22 wp }
      .next ((s.await (.switch i d old)).after 40 (.wpsetSwitchDone i))

/-- Asks that a slot be parked (16 R384, R385). -/
def execPark (d a : Reg) (n : BitVec 4) (s : State) : Result := s.parkHead d a n false

/-- Asks that a parked slot go on (16 R384, R386). -/
def execUnpark (d a : Reg) (n : BitVec 4) (s : State) : Result := s.parkHead d a n true

/-! ## Events -/

/-- The new workspace is loaded: the issuer has the old one and wakes, and an `UNPARK` that has waited takes effect (16
R391). -/
def execWpsetSwitchDone (slot : Fin 16) (s : State) : Result :=
  let mine (x : Slot) : Option (Reg × Word) := match x.wait with
    | some (.switch t d old) => if t == slot then some (d, old) else none
    | _ => none
  let found : Option (Nat × Reg × Word) :=
    (allSlots.findSome? fun i => (mine (s.slot i)).map fun p => ((s.slot i).strand, p)).or
      (s.core.spilled.findSome? fun c => (mine c.2.slot).map fun p => (c.2.slot.strand, p))
  match found with
  | none => .next s
  | some (strand, d, old) =>
    let arm (x : Slot) : Slot := if x.strand = strand then { x with wait := some .answer } else x
    let s : State := { s with core := { s.core with
      slots := s.core.slots.map arm
      spilled := s.core.spilled.map fun (n, c) => (n, { c with slot := arm c.slot }) } }
    let holder := (allSlots.find? fun i => (s.slot i).strand = strand).getD 0
    let s := s.answer holder strand [(d, old)]
    let x := s.slot slot
    let waits := if s.switching slot then []
      else if x.st == .parked then x.parkAsked
      else ((s.spilledOf slot).map fun c => c.2.slot.parkAsked).getD []
    let clear (x : Slot) : Slot := if x.st == .parked then { x with parkAsked := [] } else x
    let s := if waits.isEmpty then s else if x.st == .parked then s.modSlot slot clear
      else { s with core := { s.core with spilled := s.core.spilled.map fun (n, c) =>
        (n, if c.from_ = slot then { c with slot := clear c.slot } else c) } }
    .next (waits.foldl (fun s q => if q.unpark then s.unpark q else s.park q) s)

/-- A request arrives in its channel's order, or is served: one in a cycle (16 R387). -/
def execParkRequestServe (q : ParkReq) (s : State) : Result :=
  if s.core.parkReqs.any fun p => p.1 == q then
    .next (if s.core.parks = s.tile.cycle + 1 then s.after 1 (.parkRequestServe q) else s.serveParks)
  else
    s.arriveMsg ⟨q.sltn, q.score, q.sslot.val, s.core.ltn, s.core.num, q.seq, .park q, 0⟩ (2, 0) fun s =>
      some (({ s with core := { s.core with parkReqs := s.core.parkReqs ++ [(q, true)] } } : State).after 0 (.parkRequestServe q))

/-- The spill engine makes room for waiting work (16 R388). -/
def execSpill (slot : Fin 16) (s : State) : Result := .next (if s.spillChoice = some slot then s.spillSlot slot else s)

/-- An unparked context that is in the spill area comes back as an arrival, once the queue has room (16 R390). -/
def execReload (slot : Fin 16) (s : State) : Result :=
  match s.core.spilled.find? fun c => c.2.from_ == slot && c.2.wanted && !(s.core.arrivals.any fun a => a.reload == some c.1) with
  | none => .next s
  | some (n, c) =>
    if 16 ≤ s.core.arrivals.length then .next (s.after 8 (.reload slot))
    else
      let a : Arrival := ⟨c.slot.pc, c.slot.priv, c.slot.sw, [], false, none, none, some n, s.core.ltn, s.core.num, slot.val, 0⟩
      .next (({ s with core := { s.core with arrivals := s.core.arrivals ++ [a] } } : State).logged 7 s.core.num slot.val
        [w64 n] (.reload slot))

end Sys2Proof.Machine
end

