-- ==== Sys2Proof/Machine/System.lean ====
section
/-! DEFINITION. The query instructions and the system registers (04 R117 to R122; 01 R26, R34, R35; 02 R54; 16 R374; 17
R410; 18 R425, R426; 19 R432; 21 R498). -/

namespace Sys2Proof.Machine

/-- A stand of which nothing has been written; CRETRY is 3, CTMO 100 (18 R425), and sys.tierctl as 17 R410 gives. -/
def emptyStand : Stand :=
  { a := 0, b := 0, standdel := 0, keydel := 0, hbm := [], far := [], secret := 0, ptroot := 0
    tierctl := 0x100000403E8, tierskip := 0, poisonMade := 0, poisonUsed := 0, cretry := 3, ctmo := 100, pod := [], rank := 0, hostref := 0, peerref := 0, jshard := 0,
    jckpt := 0, jstat := 0, jused := 0, manifests := [], boostok := false, ranges := [] }

namespace State

/-! ## Reading -/

/-- The field of a site: the wafer has 4 × 4 fields of 8 × 8 sites (21 R499). -/
def fieldOf (site : Nat) : Nat := site / 32 / 8 * 4 + site % 32 / 8

/-- `sys.boostst` (21 R498). -/
def boostStatus (s : State) : Word :=
  let f := fieldOf (s.siteOf s.core.ltn)
  let b := SMap.getD s.rim.fields f ⟨4, 0, false, false, 0, 0⟩
  w64 (f * 2 ^ 12 + b.step * 2 ^ 8 + b.claim * 2 ^ 6 + b.place.toNat * 2 ^ 5 + b.cords)

/-- A stand register; without a stand it reads as after reset. -/
def ofStand (s : State) (f : Stand → Word) : Word :=
  match s.stand with
  | some t => f t
  | none => f emptyStand

/-- The value of a system register, and whether an agent outside the tile sets it (04 R120; 19 R449). A number that no
chapter assigns has none. -/
def sysValue (s : State) (n : Nat) : Option (Word × Bool) :=
  match n with
  | 0x000 => some (s.rdSw, false)
  | 0x010 => some (s.core.droop, false)
  | 0x011 => some (s.core.bankpm, false)
  | 0x020 => some (s.core.sseed0, false)
  | 0x021 => some (s.core.sseed1, false)
  | 0x040 => some (s.tile.niv.setWidth 64, false)
  | 0x041 => some (s.tile.wdl.setWidth 64, false)
  | 0x060 => some (s.ofStand fun t => t.cretry.setWidth 64, false)
  | 0x061 => some (s.rim.modid.setWidth 64, true)
  | 0x062 => some (s.ofStand fun t => w64 ((!t.pod.isEmpty).toNat * 2 ^ 63 + t.rank % 64 * 2 ^ 8
      + (if t.pod.isEmpty then 1 else t.pod.length)), true)
  | 0x063 => some (s.ofStand fun t => t.ctmo.setWidth 64, false)
  | 0x064 => some (s.core.collOrd.setWidth 64 <<< 32 ||| w64 s.core.collOut, true)
  | 0x065 => some (s.ofStand fun t => t.hostref ++ t.peerref, true)
  | 0x100 => some (s.rim.standid, false)
  | 0x101 => some (s.rim.lseq, false)
  | 0x102 => some (s.ofStand (·.standdel), true)
  | 0x103 => some (s.ofStand (·.keydel), true)
  | 0x140 => some (s.ofStand (·.ptroot), false)
  | 0x141 => some (s.ofStand (·.tierctl), false)
  | 0x142 => some (s.ofStand (·.tierskip), true)
  | 0x143 => some (s.ofStand fun t => t.poisonUsed ++ t.poisonMade, true)
  | 0x144 => some (s.keyStatus 0, true)
  | 0x200 => some (w64 s.rim.hbmcap, true)
  | 0x201 => some (w64 (s.rim.pending.isSome.toNat * 2 ^ 63 + s.rim.dies % 1024 * 2 ^ 42 + s.rim.pending.getD 0), true)
  | 0x202 => some (w64 (s.rim.flat.toNat * 2 ^ 43 + s.rim.active.length % 2048 * 2 ^ 32 + s.rim.rebuild), true)
  | 0x210 => some (s.ofStand (·.jshard), false)
  | 0x211 => some (s.ofStand (·.jckpt), false)
  | 0x212 => some (s.ofStand (·.jstat), true)
  | 0x220 => some (s.ofStand fun t => if t.boostok then 1 else 0, false)
  | 0x221 => some (s.boostStatus, true)
  | 0x222 => some (w64 s.rim.bmax, true)
  | 0x230 => some (w64 s.rim.lmsleft, true)
  | n => if h : 0x080 ≤ n ∧ n < 0x090 then some (s.core.thv[n - 0x080], false) else none

/-! ## Writing -/

/-- Has a register a PRV field (04 R120)? -/
def sysPrivileged (n : Nat) : Bool :=
  [0x010, 0x011, 0x040, 0x041, 0x060, 0x063, 0x140, 0x141, 0x210, 0x220].contains n || (decide (0x080 ≤ n) && decide (n < 0x090))

/-- Replace the bits of a mask. -/
def bitsOf (mask v old : Word) : Word := (v &&& mask) ||| (old &&& ~~~mask)

/-- `sys.droop` (01 R26): RMAX is not written 0. -/
def droopWrite (old v : Word) : Word :=
  if bits v.toNat 1 0 = 0 then bitsOf 0xFF00 v old else bitsOf 0xFF03 v old

/-- A write of a register that has no row of its own; RO fields keep their values (00 R7, R8; 04 R120). -/
def sysWrite (s : State) (n : Nat) (v : Word) : State :=
  match n with
  | 0x010 => { s with core := { s.core with droop := droopWrite s.core.droop v } }
  | 0x041 =>
    let w := bits v.toNat 4 0
    if 16 ≤ w ∧ w ≤ 30 then { s with tile := { s.tile with wdl := .ofNat 5 w } } else s
  | 0x060 => s.modStand fun t => { t with cretry := v.setWidth 8 }
  | 0x063 => s.modStand fun t => { t with ctmo := v.setWidth 16 }
  | 0x141 =>
    let begins := v.getLsbD 63 && !(s.ofStand (·.tierctl)).getLsbD 63
    let s := s.modStand fun t => { t with tierctl := bitsOf 0x8000FFFF000FFFFF v 0 }
    if begins then s.afterClk (ccPerUs * max 1 (bits v.toNat 15 0)) .tierEpochEnd else s
  | 0x210 => s.modStand fun t => { t with jshard := bitsOf 0xFFFFF1FFFFFFFFFF v 0 }
  | 0x220 => s.modStand fun t => { t with boostok := v.getLsbD 0 }
  | n => if h : 0x080 ≤ n ∧ n < 0x090 then
      { s with core := { s.core with thv := s.core.thv.set (n - 0x080) (v &&& vectorMask) } }
    else s

/-- The bytes of a bank that comes back from GATED are undefined, and so are its lines' metadata (01 R33, log entry 1):
each is free. An undefined value is no poison (00 R10). -/
def freeLines (s : State) (line : Nat) : Nat → State
  | 0 => s
  | n + 1 =>
    let f (i : Nat) : Word := Config.freeValue (s.fresh + i)
    let m := f 8
    let s := s.touchLine line
    freeLines { s with
      mem := putBytes s.mem (line * 64) ((List.range 8).flatMap fun i => leBytes 8 (f i).toNat)
      metas := SMap.set 0 line (m.setWidth 16) s.metas
      poison := SMap.erase line s.poison
      fresh := s.fresh + 9 } (line + 1) n

/-- Put a bank into a state (01 R33, R34): 3 and a bank that holds part of the hinge shadow leave it as it is. DESIGN CHOICE
(log entry 46): a write ends a wake that is in progress, so a bank set to RETAIN while it wakes needs a new touch. -/
def setBank (s : State) (b : Nat) (v : Nat) : State :=
  if v = 3 ∨ (v ≠ 0 ∧ s.rim.visibleTop < (b + 1) * 2 ^ 20) then s
  else
    let old := s.bankState b
    let s : State := { s with core := { s.core with
      bankpm := bitsOf (w64 (3 * 4 ^ b)) (w64 (v * 4 ^ b)) s.core.bankpm
      waking := s.core.waking.filter fun w => w.1.val != b } }
    if old = 2 ∧ v ≠ 2 then s.freeLines (s.key (b * 2 ^ 20) / 64) 16384 else s

/-- A write of the issuing strand: it reads a, which may be a port, settles, and needs privilege for a register with a PRV
field (04 R120; 09 R235). -/
def writes (s : State) (a : Reg) (prv : Bool) (ok : Bool) (k : State → Word → State → Result) : Result :=
  s.issueHead [.src a] [] prv (extra := ok) fun s =>
    let (v, r) := s.readW a
    s.settledOr fun _ => k s v r

end State

/-! ## Queries -/

/-- A logical position value (04 R118). -/
def execTopo (d : Reg) (n : BitVec 22) (s : State) : Result :=
  s.issueHead [.dst d] [] false (extra := decide (n.toNat < 8)) fun s =>
    let l := s.core.ltn
    let r := s.standRect
    let v := match n.toNat with
      | 0 => l
      | 1 => l / 30
      | 2 => l % 30
      | 3 => s.core.num
      | 4 => s.issue.slot.val
      | 5 => r.colLo + r.rowLo * 2 ^ 8 + r.colHi * 2 ^ 16 + r.rowHi * 2 ^ 24
      | 6 => (l / 30 - r.rowLo) * (r.colHi - r.colLo + 1) + (l % 30 - r.colLo)
      | _ => ((List.range s.rim.held).filter fun t => State.inRect r t).length
    .next (s.writeW d (w64 v))

/-- A capability word (04 R119). -/
def execCapr (d : Reg) (n : BitVec 22) (s : State) : Result :=
  s.issueHead [.dst d] [] false (extra := decide (n.toNat < 64)) fun s =>
    let v := match n.toNat with
      | 0 => 64
      | 1 => s.rim.gradeB.toNat
      | 2 => 30
      | 3 => s.rim.held
      | 4 => s.rim.held - 30 * s.lastRow
      | 5 => 0x1010
      | 6 => s.rim.visibleTop
      | 7 => 0x4030
      | 8 => 1
      | _ => 0
    .next (s.writeW d (w64 v))

/-- Reads a system register; a value that an agent outside the tile sets is logged (04 R120, R121; 19 R449). -/
def execSrd (d : Reg) (n : BitVec 12) (s : State) : Result :=
  s.issueHead [.dst d] [] false (extra := (s.sysValue n.toNat).isSome) fun s =>
    match s.sysValue n.toNat with
    | none => s.raiseDecode cILLEGAL
    | some (v, outside) =>
      if outside then
        let (v, s) := s.valueRead v
        .next (s.writeW d v)
      else .next (s.writeW d v)

/-- Writes a system register (04 R120). -/
def execSwr (a : Reg) (n : BitVec 12) (s : State) : Result :=
  s.writes a (State.sysPrivileged n.toNat) (s.sysValue n.toNat).isSome fun _ v r => .next (r.sysWrite n.toNat v)

/-- A whole-word write of `sw` (01 R35, 04 R121). -/
def execSysSwWrite (a : Reg) (s : State) : Result :=
  s.writes a false true fun s v r =>
    if State.swIllegal v then s.raise cSW else .next (r.setSw (BitVec.allOnes 64) (v &&& State.swWriteMask))

/-- Writes half of the stochastic seed; it reaches the stand's other cores later (02 R54). -/
def execSseedWrite (hi : Bool) (a : Reg) (s : State) : Result :=
  s.writes a false true fun _ v r => .next { r with core :=
    if hi then { r.core with sseed1 := v } else { r.core with sseed0 := v } }

/-- Sets the states of the banks (01 R34). -/
def execBankpmWrite (a : Reg) (s : State) : Result :=
  s.writes a true true fun _ v r =>
    .next (((r.setBank 0 (bits v.toNat 1 0)).setBank 1 (bits v.toNat 3 2)).setBank 2 (bits v.toNat 5 4))

/-- Sets the notch interval, from the first point of the new schedule on (19 R432). -/
def execNivWrite (a : Reg) (s : State) : Result :=
  s.writes a true true fun _ v r =>
    let w := bits v.toNat 4 0
    .next (if 16 ≤ w ∧ w ≤ 26 then { r with tile := { r.tile with niv := .ofNat 5 w } } else r)

/-- Writes `sys.ptroot`; every leaf of the stand is dropped, and the strand sleeps until that is done (17 R410). -/
def execPtrootWrite (a : Reg) (s : State) : Result :=
  s.writes a true true fun _ v r =>
    .next ((r.modStand fun t => { t with ptroot := v &&& 0x800FFFFFFFFFF000 }).viaClass0 (.tlbinvApply true 0))

/-- Reads a performance counter; those not assigned read zero (04 R122). -/
def execPerfr (d : Reg) (n : BitVec 22) (s : State) : Result :=
  s.issueHead [.dst d] [] false (extra := decide (n.toNat < 64)) fun s =>
    .next (s.writeW d (if h : n.toNat < 64 then s.core.perf[n.toNat] else 0))

/-! ## Events -/

/-- A seed write of another tile arrives as a class-0 update (02 R54). -/
def execSeedUpdateArrival (hi : Bool) (v : Word) (s : State) : Result :=
  let s := s.logged 6 0 0 [w64 (0x40 + hi.toNat * 2 ^ 8), v] (.seedUpdateArrival hi v)
  .next { s with core := if hi then { s.core with sseed1 := v } else { s.core with sseed0 := v } }

end Sys2Proof.Machine
end

