-- ==== Sys2Proof/Machine/Launch.lean ====
section
/-! DEFINITION. Stands, launch records, the start and the end of a launch, and pre-emption (16 R371 to R383), with the job
record (21 R496, R497). -/

namespace Sys2Proof.Machine

/-- A field of a launch record (16 R375). -/
def recField (l : Launch) (w hi lo : Nat) : Nat := bits (l.words.getD w 0).toNat hi lo

/-- The eight words of a status block (16 R378). -/
def statusWords (l : Launch) : List Word :=
  let st := match l.st with
    | .queued => 0 | .running => 1 | .done => 2 | .fault => 3 | .refused => 4 | .swapped => 5
  [w64 (st * 2 ^ 56 + l.reason % 256 * 2 ^ 48 + l.info.code.toNat), l.info.fpc.setWidth 64,
   w64 (l.info.ltn % 4096 * 2 ^ 12 + l.info.core % 16 * 2 ^ 8 + l.info.slot % 16 * 2 ^ 4), l.words.getD 31 0,
   l.dlcnt.setWidth 64, l.dldst, l.dlsrc ||| l.dlseq.setWidth 64, l.cyc]

/-- The bits of each word of a record that are not reserved (16 R375). -/
def recMask (w : Nat) : Word :=
  match w with
  | 0 => 0xFFFFE00000000000
  | 1 => 0xFFFF
  | 3 | 5 | 10 => 0xFFFFFFFF
  | 6 => 0x1F1F0700003FFFFF
  | 7 | 8 => 0x0000FFFF003FFFFF
  | n => if (22 ≤ n ∧ n ≤ 30) ∨ 32 ≤ n then 0 else 0xFFFFFFFFFFFFFFFF

/-- NIVL, WDLL and SHD with their defaults (16 R375). -/
def recNiv (l : Launch) : Nat := if recField l 6 60 56 = 0 then 20 else recField l 6 60 56
def recWdl (l : Launch) : Nat := if recField l 6 52 48 = 0 then 21 else recField l 6 52 48
def recShd (l : Launch) : Nat := if recField l 6 42 40 = 0 then 3 else recField l 6 42 40
def recTop (l : Launch) : Nat := 3 * 2 ^ 20 - recShd l * 2 ^ 17
def recTwb (l : Launch) : Nat := recField l 6 21 0
def recBuck (l : Launch) : Bool := (l.words.getD 0 0).getLsbD 46

/-- The image digest: the most significant byte stands first (16 R375). -/
def recDig (l : Launch) : BitVec 384 := (List.range 6).foldl (fun d i => d <<< 64 ||| (l.words.getD (16 + i) 0).setWidth 384) 0

/-- An entry of the placement map (16 R376). -/
structure Placement where
  tlo : Nat
  thi : Nat
  core : Nat
  slot : Nat
  pc : BitVec 22
  regs : List (Nat × Word)
  reserved : Bool
deriving DecidableEq, Repr

/-- A queue selector with its descriptor (16 R376, 13 R315). -/
structure Selector where
  tlo : Nat
  thi : Nat
  core : Nat
  q : Nat
  d : List Word
  reserved : Bool
deriving DecidableEq, Repr

/-- Register pairs of an entry. -/
def mapPairs : Nat → List Word → List (Nat × Word) × List Word
  | n + 1, r :: v :: ws => let (l, rest) := mapPairs n ws; ((r.toNat, v) :: l, rest)
  | _, ws => ([], ws)

/-- The placement entries of a map. -/
def mapEntries : Nat → List Word → List Placement × List Word
  | n + 1, h :: z :: ws =>
    let v := h.toNat
    let (regs, rest) := mapPairs (bits v 28 24) ws
    let (l, rest) := mapEntries n rest
    (⟨bits v 63 52, bits v 51 40, bits v 39 36, bits v 35 32, .ofNat 22 v, regs,
      z != 0 || bits v 31 29 != 0 || bits v 23 22 != 0⟩ :: l, rest)
  | _, ws => ([], ws)

/-- The queue selectors that follow them. -/
def mapSelectors : Nat → List Word → List Selector
  | n + 1, h :: z :: a :: b :: c :: d :: ws =>
    let v := h.toNat
    ⟨bits v 63 52, bits v 51 40, bits v 39 36, bits v 35 32, [a, b, c, d],
      z != 0 || bits v 31 0 != 0 || bits a.toNat 62 62 != 0 || bits a.toNat 55 48 != 0 || bits a.toNat 31 22 != 0
        || bits b.toNat 63 8 != 0 || c != 0 || d != 0⟩ :: mapSelectors n ws
  | _, _ => []

/-- The ring of a queue: its base and bytes (13 R314, R315). -/
def ringOf (q : Selector) : Nat × Nat := (bits (q.d.headD 0).toNat 21 0, 32 * 2 ^ bits (q.d.headD 0).toNat 59 56)

/-- Do two ranges meet? -/
def overlap (a b : Nat × Nat) : Bool := decide (a.1 < b.1 + b.2) && decide (b.1 < a.1 + a.2)

/-- Does any pair of a list meet? -/
def anyOverlap : List (Nat × Nat) → Bool
  | [] => false
  | a :: l => l.any (overlap a) || anyOverlap l

/-- Is a region of a slice a multiple of 64, within one bank and below the visible top (01 R29, 11 R272, 12 R302)? -/
def regionOk (top : Nat) (r : Nat × Nat) : Bool :=
  r.2 == 0 || (r.1 % 64 == 0 && decide (r.1 + r.2 ≤ top) && r.1 / 2 ^ 20 == (r.1 + r.2 - 1) / 2 ^ 20)

/-- Check 7: sections that overlap, that reach the visible top, or that meet the workspace of a placed strand (03 R93). -/
def sectionsOk (l : Launch) (secs : List (Nat × Nat)) (places : List Placement) : Bool :=
  !anyOverlap secs && secs.all fun r => decide (r.1 + r.2 ≤ recTop l)
    && places.all fun p => !overlap r (recTwb l + 1024 * p.slot, 768)

/-- Check 8: the regions of 11 R263 and R272, 12 R302 and 13 R315, and the placements (16 R377). -/
def regionsOk (l : Launch) (tiles : Nat) (secs : List (Nat × Nat)) (places : List Placement) (sels : List Selector) : Bool :=
  let home := (recTwb l, 16384)
  recTwb l % 1024 == 0 && regionOk (recTop l) home
    && regionOk (recTop l) (recField l 7 21 0, 64 * recField l 7 47 32)
    && (!recBuck l || regionOk (recTop l) (recField l 8 21 0, 64 * recField l 8 47 32))
    && (sels.all fun q => regionOk (recTop l) (ringOf q) && decide (4 ≤ bits (q.d.headD 0).toNat 59 56)
      && decide (q.tlo ≤ q.thi) && decide (q.thi < tiles) && !overlap (ringOf q) home && !secs.any (overlap (ringOf q)))
    && (places.all fun p => decide (p.tlo ≤ p.thi) && decide (p.thi < tiles) && !(recBuck l && p.slot == 15)
      && decide (p.regs.length ≤ 30)
      && p.regs.all (fun r => decide (r.1 < 30)))
    && distinct places
where
  distinct : List Placement → Bool
    | [] => true
    | p :: ps => ps.all (fun q => p.core != q.core || p.slot != q.slot || decide (p.thi < q.tlo) || decide (q.thi < p.tlo))
      && distinct ps

namespace State

/-! ## Launches -/

/-- The effective priority (16 R379). -/
def effPrio (s : State) (l : Launch) : Nat :=
  min (recField l 0 49 48) (match s.standAt l.stand with
    | some t => bits t.b.toNat 61 60
    | none => 0)

/-- The rectangle of a stand. -/
def rectOf (s : State) (n : Nat) : Rect :=
  match s.standAt n with
  | some t => if t.b.getLsbD 63 then unpackRect (bits t.a.toNat 31 0) else ⟨1, 1, 0, 0⟩
  | none => ⟨1, 1, 0, 0⟩

/-- Has a stand a launch that is running or swapped out? -/
def standRuns (s : State) (n : Nat) : Bool :=
  s.rim.launches.any fun l => l.stand == n && (l.st == .running || l.st == .swapped)

/-- Is this tile resident for a stand: its entry is BOUND or HELD (16 R382)? -/
def tileTaken (s : State) : Bool :=
  let k := s.keyOf s.core.ltn
  k.st == .bound || k.st == .held

/-- Is this tile free: no stand is resident and no launch is about to be placed on it (16 R379, R383)? -/
def tileFree (s : State) : Bool := !s.tileTaken && (s.keyOf s.core.ltn).st != .unplaced

/-- Change the launches that a predicate names. -/
def modLaunch (s : State) (p : Launch → Bool) (f : Launch → Launch) : State :=
  { s with rim := { s.rim with launches := s.rim.launches.map fun l => if p l then f l else l } }

/-- Bytes of words. -/
def bytesOfWords (w : List Word) : List Byte := w.flatMap fun v => leBytes 8 v.toNat

/-- Write a status block at STATUS (16 R378): a host-visible address that names HBM, as an HDM offset does (18 R414). Any other
lies in the memory of the host, which alone sees it (log entry 34). -/
def putStatus (s : State) (l : Launch) : State :=
  let a := (l.words.getD 15 0).toNat
  let b := bytesOfWords (statusWords l)
  let k := 64 - a % 64
  if s.rim.hbmcap < a + 64 then s
  else if k = 64 then s.writeDevice a b none
  else (s.writeDevice a (b.take k) none).writeDevice (a + k) (b.drop k) none

/-- The launches that a predicate names change their STATE, and their status blocks are written (16 R378). -/
def changeState (s : State) (p : Launch → Bool) (f : Launch → Launch) : State :=
  (s.rim.launches.filter p).foldl (fun s l => s.putStatus (f l)) (s.modLaunch p f)

/-- The launch that runs on this tile. -/
def runningHere (s : State) : Option Launch :=
  s.rim.launches.find? fun l => l.st == .running && l.stand == s.standNo && inRect (s.rectOf l.stand) s.core.ltn

/-- Launches at the head of their stand's queue with nothing running before them (16 R379). -/
def waiting (s : State) : List Launch :=
  s.rim.launches.filter fun l => l.st == .queued && !s.standRuns l.stand
    && (s.rim.launches.find? fun m => m.st == .queued && m.stand == l.stand) == some l

/-- Of those that want this tile, the one that goes first: by priority, then by acceptance. -/
def firstWaiting (s : State) : Option Launch :=
  let ls := s.waiting.filter fun l => inRect (s.rectOf l.stand) s.core.ltn
  ls.find? fun l => ls.all fun m => decide (s.effPrio m ≤ s.effPrio l)

/-- Try the starts that wait, and the swap-in, again. -/
def tryStarts (s : State) : State :=
  let s := s.waiting.foldl (fun s l => s.afterClk 1 (.launchStart (.ofNat 64 l.stand))) s
  s.afterClk 1 .swapIn

/-! ## Device-virtual memory of a stand -/

/-- Is a range mapped with pinned pages in a stand's translation (16 R377 REASON 9)? -/
def pinned (s : State) (t : Stand) : Nat → Nat → Nat → Bool
  | 0, _, _ => true
  | fuel + 1, va, len =>
    if len = 0 then true
    else match s.translateIn t t.ranges false va with
      | .error _ => false
      | .ok x =>
        let page := 2 ^ max 12 x.log2
        x.attrs.getLsbD 56 && (s.checkXlate t x false false).isNone && pinned s t fuel (va + (page - va % page)) (len - (page - va % page))

/-- Read a stand's device-virtual memory a line at a time; what is not mapped reads as zeros. -/
def readVirtual (s : State) (t : Stand) : Nat → Nat → Nat → List Byte × State
  | 0, _, _ => ([], s)
  | fuel + 1, va, n =>
    if n = 0 then ([], s)
    else
      let k := min n (64 - va % 64)
      let (b, s) := match s.translateIn t t.ranges false va with
        | .ok x => s.readDevice x.dpa k (if x.attrs.getLsbD 55 then s.keyOfSlot (bits t.b.toNat 53 48) else none)
        | .error _ => (List.replicate k 0, s)
      let (rest, s) := readVirtual s t fuel (va + k) (n - k)
      (b ++ rest, s)

/-- Words of bytes. -/
def wordsOfBytes (b : List Byte) : List Word :=
  (List.range (b.length / 8)).map fun i => w64 (leNat ((b.drop (8 * i)).take 8))

/-- Number of tiles of a rectangle. -/
def rectTiles (r : Rect) : Nat := (r.colHi + 1 - r.colLo) * (r.rowHi + 1 - r.rowLo)

/-- What a launch has read at its start. -/
structure Loaded where
  sections : List (Nat × List Byte)
  places : List Placement
  sels : List Selector

/-- Checks 6 to 9 of R377 as the launch starts, of which 9 comes first, since the others read what it maps (log entry
10). The placement map is as long as its headers say. -/
def loadLaunch (s : State) (t : Stand) (l : Launch) : Except Nat Loaded × State :=
  let tiles := rectTiles (unpackRect (bits t.a.toNat 31 0))
  let image := (l.words.getD 2 0).toNat
  let npl := recField l 5 15 0
  let ndq := recField l 5 31 16
  let most := (16 + 496) * npl + 48 * ndq
  let (map, s) := s.readVirtual t (most / 64 + 2) (l.words.getD 4 0).toNat most
  let (places, rest) := mapEntries npl (wordsOfBytes map)
  let mapLen := most - 8 * rest.length + 48 * ndq
  let ok (w align len : Nat) : Bool :=
    let va := (l.words.getD w 0).toNat
    va % align == 0 && decide (va < 2 ^ 57) && s.pinned t (len / 4096 + 2) va len
  if !(ok 2 64 (recField l 3 31 0) && ok 4 64 mapLen && ok 9 64 (64 * recField l 10 31 0)
      && ok 11 65536 (2 ^ 24 * tiles) && ok 12 65536 (49 * 2 ^ 20 * tiles)) then (.error 9, s)
  else
    let (img, s) := s.readVirtual t (recField l 3 31 0 / 64 + 2) image (recField l 3 31 0)
    let secs := Config.imageSections img
    let ranges := secs.map fun x => (x.1, x.2.length)
    let sels := mapSelectors ndq rest
    if places.any (·.reserved) || sels.any (·.reserved) then (.error 4, s)
    else if Config.sha384 img ≠ recDig l then (.error 6, s)
    else if !sectionsOk l ranges places then (.error 7, s)
    else if !regionsOk l tiles ranges places sels then (.error 8, s)
    else (.ok ⟨secs, places, sels⟩, s)

/-! ## The start on this tile (16 R380) -/

/-- The registers and fields that the rim controller holds for the running launch. -/
def applyRecord (s : State) (t : Stand) (l : Launch) (sections : List (Nat × Nat)) : State :=
  { s with rim := { s.rim with
    standid := w64 (s.effPrio l * 2 ^ 22 + l.stand * 2 ^ 16 + bits t.b.toNat 15 0), lseq := l.words.getD 31 0
    visibleTop := recTop l, twb := .ofNat 22 (recTwb l), mbox := (l.words.getD 9 0).toNat, mboxl := recField l 10 31 0
    mailbox := [], spillBase := (l.words.getD 11 0).toNat, swapBase := (l.words.getD 12 0).toNat, sections := sections } }

/-- Slice bytes, metadata and poison of this tile. -/
def ownKey (s : State) (k : Nat) : Bool := decide (sliceBase s.core.ltn 0 ≤ k) && decide (k < sliceBase (s.core.ltn + 1) 0)

/-- Drop what the slices hold where a predicate of the slice offset says so, and every metadata field, which reads zero after
a launch (08 R192). -/
def clearSlices (s : State) (p : Nat → Bool) : State :=
  { s with
    mem := s.mem.filter fun c => !(s.ownKey c.1 && p (c.1 % 2 ^ 22))
    metas := s.metas.filter fun c => !s.ownKey (c.1 * 64)
    poison := s.poison.filter fun c => !(s.ownKey (c.1 * 64) && p (c.1 * 64 % 2 ^ 22)) }

/-- The entries of a rectangle's tiles change, those of them that do. -/
def bindRect (s : State) (r : Rect) (f : Nat → KeyEntry → KeyEntry) : State :=
  ((List.range s.rim.held).filter fun n => inRect r n).foldl (fun s n =>
    let e := f n (s.keyOf n)
    if e = s.keyOf n then s else s.changeKey n e) s

/-- A delta queue as its descriptor declares it (13 R315). -/
def declare (q : Selector) : DQueue :=
  let w := (q.d.headD 0).toNat
  ⟨w.testBit 63, .ofNat 2 (bits w 61 60), bits w 59 56, .ofNat 16 (bits w 47 32), .ofNat 22 w, [], 0, []⟩

/-- The state of the tile's slices, core and tile as a checkpoint holds it (19 R434, R438). -/
def imageOf (s : State) : Image :=
  { core := s.core, tile := s.tile, agenda := s.agenda, fresh := s.fresh
    mem := s.mem.filter fun c => s.ownKey c.1
    metas := s.metas.filter fun c => s.ownKey (c.1 * 64)
    poison := s.poison.filter fun c => s.ownKey (c.1 * 64) }

/-- The entry of a tile that is BOUND to a stand, at its site. -/
def boundEntry (s : State) (stand n : Nat) : KeyEntry := ⟨.bound, stand, false, s.siteOf n / 32, s.siteOf n % 32⟩

/-- What the notch machine holds after a start from a whole image: notches and log begin again in half 0 (19 R443). -/
def restartNotch (n : Notch) (cycle : Nat) : Notch :=
  { n with
    st := .run, half := false, dirty := [], frozenMap := [], delta := [], folding := [], log := [], prevLog := []
    opened := cycle, frozenFor := 0 }

/-- The whole image becomes the base image and the recovery point (16 R383, 19 R443). -/
def rebased (s : State) : State :=
  let s : State := { s with tile := { s.tile with notch := restartNotch s.tile.notch s.tile.cycle } }
  { s with base := some s.imageOf, recovery := some { s.imageOf with mem := [], metas := [], poison := [] }, captured := none }

/-- A launch starts on this tile: the slices outside the image, the workspaces and the shadow are zero, the state is
reset, the placed strands arrive, and this state is notch 0. -/
def startHere (s : State) (t : Stand) (l : Launch) (x : Loaded) : State :=
  let r := unpackRect (bits t.a.toNat 31 0)
  let secs := x.sections.map fun y => (y.1, y.2.length)
  let resident := (l.words.getD 0 0).getLsbD 45 && SMap.find l.stand s.rim.lastImages == some (recDig l)
  let bound := s.bindRect r fun n _ => s.boundEntry l.stand n
  let s := s.applyRecord t l secs
  let mine (lo hi core : Nat) : Bool := decide (lo ≤ s.tileIndex) && decide (s.tileIndex ≤ hi) && core == s.core.num
  let placed := x.places.any fun p => mine p.tlo p.thi p.core
  let keep (off : Nat) : Bool :=
    decide (recTop l ≤ off) || (decide (recTwb l ≤ off) && decide (off < recTwb l + 16384))
      || (resident && secs.any fun y => decide (y.1 ≤ off) && decide (off < y.1 + y.2))
  let s := s.clearSlices fun off => !keep off
  let s : State := if resident || !placed then s
    else { s with mem := x.sections.foldl (fun m y => putBytes m (s.key y.1) y.2) s.mem }
  let images := s.rim.lastImages.filter fun c => !inRect (s.rectOf c.1) s.core.ltn
  let arrivals := (x.places.filter fun p => mine p.tlo p.thi p.core).map fun p =>
    (⟨p.pc, (l.words.getD 0 0).getLsbD 47, swReset, p.regs.map fun (r, v) => (.ofNat 5 r, v), true, some (.ofNat 16 p.slot),
      none, none, 0, 0, 0, 0⟩ : Arrival)
  let prod := (x.sels.filter fun q => decide (q.tlo ≤ s.tileIndex) && decide (s.tileIndex ≤ q.thi)).foldl
    (fun m q => m ||| (q.d.getD 1 0).setWidth 8) (0 : Byte)
  let dqs := (x.sels.filter fun q => mine q.tlo q.thi q.core).foldl
    (fun (d : Vector DQueue 16) q => d.set (Fin.ofNat 16 q.q) (declare q)) Core.reset.dq
  let bucker : Slot := { Slot.none with st := .sleep, bucker := true }
  let slots := if recBuck l then Core.reset.slots.set 15 bucker else Core.reset.slots
  let core : Core := { Core.reset with
    ltn := s.core.ltn, num := s.core.num, slots := slots, nextStrand := s.core.nextStrand, nextTag := s.core.nextTag
    nextEntry := s.core.nextEntry, sseed0 := l.words.getD 13 0, sseed1 := l.words.getD 14 0
    bucker := ⟨recBuck l, .ofNat 22 (recField l 8 21 0), recField l 8 47 32, []⟩
    deque := ⟨[], .ofNat 22 (recField l 7 21 0), recField l 7 47 32, 0, 0⟩, dq := dqs, arrivals := arrivals }
  let clocks := (Vector.range 8).map fun p => if prod.getLsbD p then some (0 : Word) else none
  let tile : Tile := { Tile.reset with
    keyring := bound.tile.keyring, ranges := t.ranges, clocks := clocks, niv := .ofNat 5 (recNiv l), wdl := .ofNat 5 (recWdl l) }
  let s : State := { s with
    core := core, tile := tile, agenda := [], farExp := [], rim := { s.rim with lastImages := SMap.put l.stand (recDig l) images } }
  { s with base := some s.imageOf, recovery := some { s.imageOf with mem := [], metas := [], poison := [] }, captured := none }

/-! ## The end (16 R381; 21 R496, R497) -/

/-- Have all strands of the core ended, and all its entries completed? -/
def coreDone (s : State) : Bool :=
  allSlots.all (fun i => (s.slot i).st == .empty || (s.slot i).bucker) && !s.hasWork && s.core.spilled.isEmpty
    && s.core.superQ.isEmpty && s.core.pg.isEmpty

/-- The words of a digest, its most significant byte first. -/
def digestWords (d : BitVec 384) : List Word := (List.range 6).map fun i => d.extractLsb' (320 - 64 * i) 64

/-- The words of a sequence of bytes, the last one filled with zeros. -/
def padWords (b : List Byte) : List Word :=
  (List.range ((b.length + 7) / 8)).map fun i => w64 (leNat ((b.drop (8 * i)).take 8))

/-- Sign bytes with both signatures; one of the HSS signatures is used up (21 R497). -/
def sign (s : State) (b : List Byte) : List Byte × State :=
  let d := Config.sha384 b
  (Config.ecdsaSign d ++ Config.hssSign s.rim.lmsleft d, { s with rim := { s.rim with lmsleft := s.rim.lmsleft - 1 } })

/-- Append an entry to the audit log. -/
def audit (s : State) (w : List Word) : State :=
  { s with rim := { s.rim with audit := SMap.put s.rim.nextAudit w s.rim.audit, nextAudit := s.rim.nextAudit + 1 } }

/-- Nanoseconds since boot, at the nominal clock (log entry 7). -/
def nanos (clk : Nat) : Nat := clk * 10 / 19

/-- The job record of a launch that has ended (21 R496). -/
def jobRecord (s : State) (l : Launch) (mdig : BitVec 384) : State :=
  let fw := s.rim.measured.eraseDups
  let words := [w64 (2 ^ 56 + l.stand % 64 * 2 ^ 50 + (if l.st == .done then 2 else 3) * 2 ^ 48 + s.rim.modid.toNat),
      l.words.getD 31 0] ++ digestWords (recDig l) ++ [w64 (nanos l.startedAt), w64 (nanos s.clk),
      w64 (l.faults % 2 ^ 32 * 2 ^ 32 + fw.length)] ++ digestWords mdig ++ fw.flatMap digestWords
  let (sig, s) := s.sign (bytesOfWords words)
  s.audit (words ++ padWords sig)

/-- End every strand of the core at once (16 R381). -/
def clearStrands (s : State) : State :=
  { s with core := { s.core with
    slots := s.core.slots.map fun x => { Slot.none with lastTurn := x.lastTurn }
    mat := [], streams := [], winOps := [], handlerQ := [], superQ := [], arrivals := [], ready := [], parkReqs := [], spilled := []
    tiles := s.core.tiles.map fun m => { m with owner := none, live := false }
    deque := { s.core.deque with hw := [], inRegion := 0 } } }

/-- The tile is left by the launch that ran on it: a recovery and a pre-emption of it are over, and a fold leaves one logical
tile fewer (20 R480). -/
def leaveTile (s : State) : State :=
  let held := if s.rim.foldMate.isSome then s.rim.held - 1 else s.rim.held
  { s with
    rim := { s.rim with held := held, recovery := none, preempt := none, foldMate := none, resident := true }
    tile := { s.tile with frozen := false } }

/-- A launch ends (16 R381): its tiles' entries become EXITED, what of it is swapped out is dropped, the record is written once
a checkpoint of the launch end is done (21 R491), and the next launch may start. `here` tells that it runs on this tile. -/
def finishLaunch (s : State) (l : Launch) (here : Bool) (st : LaunchState) (info : FaultInfo) : State :=
  let first := here = true ∧ s.tileIndex = 0 ∧ s.core.num = 0
  let (cyc, s) := if first then (s.core.perf[6], s) else s.free
  let l' : Launch := { l with st := st, info := info, cyc := cyc }
  let s := s.changeState (· == l) fun _ => l'
  let s := s.bindRect (s.rectOf l.stand) fun _ k => if k.stand = l.stand then { k with st := .exited } else k
  let s := if here then s.leaveTile else s
  let s : State := { s with rim := { s.rim with swapped := s.rim.swapped.filter fun x => x.stand != l.stand } }
  let t := (s.standAt l.stand).getD emptyStand
  let s := if bits t.b.toNat 59 58 = 1 then
      ({ s with rim := { s.rim with
        stands := SMap.put l.stand { t with jstat := 0x4000000000000000 } s.rim.stands
        jobs := s.rim.jobs ++ [(t.jckpt, some l')] } } : State).afterClk 1 .jobCheckpointService
    else s.jobRecord l' 0
  s.tryStarts

/-! ## Pre-emption (16 R382, R383) -/

/-- May the rim controller park a slot: it is not EMPTY or PARKED, is not asked yet, and serves no TRAPPED strand (log
entry 17)? -/
def takeable (s : State) (i : Fin 16) : Bool :=
  let x := s.slot i
  x.st != .empty && x.st != .parked && x.parkAsked.all (fun q => q.sltn != 4095) && !x.bucker && (match x.handler with
    | some h => (s.slot h.served).st != .trapped
    | none => true)

/-- Park what runs on the tile. -/
def parkAll (s : State) : State :=
  allSlots.foldl (fun s i =>
    if s.takeable i then
      let s := s.park ⟨4095, 0, 0, 0, i, false, 0, 0⟩
      { s with rim := { s.rim with preempt := s.rim.preempt.map fun (n, l) => (n, l ++ [i]) } }
    else s) s

/-- The leaves that map a range of a stand's addresses: address, device-physical address, bytes and whether the page is
encrypted. What is not mapped is left out. -/
def leafSpans (s : State) (t : Stand) : Nat → Nat → Nat → List (Nat × Nat × Nat × Bool)
  | 0, _, _ => []
  | fuel + 1, va, len =>
    if len = 0 then []
    else match s.translateIn t t.ranges false va with
      | .error _ =>
        let n := min len (4096 - va % 4096)
        leafSpans s t fuel (va + n) (len - n)
      | .ok x =>
        let page := 2 ^ max 12 x.log2
        let n := min len (page - va % page)
        (va, x.dpa, n, x.attrs.getLsbD 55) :: leafSpans s t fuel (va + n) (len - n)

/-- The area of this tile's swap image (16 R383). -/
def swapArea (s : State) : Nat := s.rim.swapBase + 49 * 2 ^ 20 * s.tileIndex

/-- The slice byte that stands at an offset of the swap image: core c's slice at c × 3 MiB, as far as it is visible; the last
MiB is the rest of the image (log entry 41). -/
def slicePlace (s : State) (p : Nat) : Option Nat :=
  let core := p / (3 * 2 ^ 20)
  let off := p % (3 * 2 ^ 20)
  if core < 16 ∧ off < s.rim.visibleTop then some (sliceBase s.core.ltn core + off) else none

/-- The rim cache holds no sector of a range any more, and its lines are under a key. -/
def rekeyed (s : State) (dpa n : Nat) (key : Option (Nat × BitVec 512)) : State :=
  let inside (a : Nat) : Bool := decide (dpa ≤ a) && decide (a < dpa + n)
  let lines := (List.range ((n + 63) / 64)).map fun j => dpa / 64 + j
  let plain := s.rim.lineKeys.filter fun c => !inside (c.1 * 64)
  let keyed := match key with
    | some (_, k) => lines.foldl (fun m l => SMap.put l k m) plain
    | none => plain
  { s with rim := { s.rim with
    rows := s.rim.rows.filter fun r => !(decide (r.1 * 1024 < dpa + n) && decide (dpa < r.1 * 1024 + 1024))
    columns := s.rim.columns.filter fun c => !(c.lines.any inside)
    lineKeys := keyed
    frames := ((List.range ((n + 4095) / 4096)).map (dpa / 4096 + ·)).foldl (fun m f =>
      SMap.set (1, none) f ((SMap.getD m f (1, none)).1, key.map (·.1)) m) s.rim.frames } }

/-- The visible slices go to the tile's swap area; the manual leaves open how the rest of the image stands behind them, and
those bytes are free (16 R383, log entries 1 and 41). -/
def toSwap (s : State) (t : Stand) : State :=
  let area := s.swapArea
  let slot := bits t.b.toNat 53 48
  let spans := s.leafSpans t 12800 area (49 * 2 ^ 20)
  spans.foldl (fun s (va, dpa, n, enc) =>
    let place (k : Nat) : Option Nat := s.slicePlace (va + (k - dpa) - area)
    let span (k : Nat) : Bool := decide (dpa ≤ k) && decide (k < dpa + n)
    let core (k : Nat) : Nat := (k - sliceBase s.core.ltn 0) / 2 ^ 22
    let pos (k : Nat) : Nat := area + core k * (3 * 2 ^ 20) + k % 2 ^ 22
    let s := s.rekeyed dpa n (if enc then (s.keyOfSlot slot).map fun k => (slot, k) else none)
    let kept := s.mem.filter fun c => !(span c.1 && (place c.1).isSome)
    let ours := s.mem.filter fun c => s.ownKey c.1 && decide (c.1 % 2 ^ 22 < s.rim.visibleTop) && decide (va ≤ pos c.1)
      && decide (pos c.1 < va + n)
    let s : State := { s with mem := ours.foldl (fun m c => SMap.set 0 (dpa + (pos c.1 - va)) c.2 m) kept }
    let last := area + 48 * 2 ^ 20
    if va + n ≤ last then s
    else
      let lo := max va last
      s.ruin [(dpa + (lo - va), va + n - lo)]) s

/-- The visible slices come back from the tile's swap area; a line that has since come under another key is undefined (17
R406). -/
def fromSwap (s : State) (t : Stand) : State :=
  let area := s.swapArea
  let spans := s.leafSpans t 12800 area (48 * 2 ^ 20)
  let found := s.mem
  spans.foldl (fun s (va, dpa, n, enc) =>
    let key := if enc then s.keyOfSlot (bits t.b.toNat 53 48) else none
    let place (k : Nat) : Option Nat := s.slicePlace (va + (k - dpa) - area)
    let cells := (found.filter fun c => decide (dpa ≤ c.1) && decide (c.1 < dpa + n)).filterMap fun c =>
      (place c.1).map fun k => (k, c.2)
    let s : State := { s with mem := cells.foldl (fun m c => SMap.set 0 c.1 c.2 m) s.mem }
    let lost := (List.range (n / 64)).filter fun j => SMap.find (dpa / 64 + j) s.rim.lineKeys != key
    s.ruin (lost.filterMap fun j => (place (dpa + 64 * j)).map fun k => (k, 64))) s

/-- The effective priority of a launch swapped out. -/
def swapPrio (s : State) (x : Swapped) : Nat :=
  match s.rim.launches.find? fun l => l.stand == x.stand && l.st == .swapped with
  | some l => s.effPrio l
  | none => 0

end State

/-! ## Heads -/

/-- Writes an entry of the stand table (16 R372, R373). -/
def execStandcfg (a b : Reg) (n : BitVec 6) (s : State) : Result :=
  s.issueHead [(Opd.src a).noPort, (Opd.src b).noPort] [] true fun s =>
    let x := s.regW a.toNat
    let y := s.regW b.toNat
    let valid := y.getLsbD 63
    let may := match s.stand with
      | some t => t.standdel.getLsbD n.toNat && (!valid || t.keydel.getLsbD (bits y.toNat 53 48))
      | none => false
    let reserved := bits x.toNat 63 32 != 0 || bits y.toNat 62 62 != 0 || bits y.toNat 57 54 != 0 || bits y.toNat 47 16 != 0
      || bits y.toNat 59 58 == 3
    if !may then s.raise cSTANDDENIED
    else if reserved || (valid && (s.rectOperand x).isNone) then s.raise cSTANDINVALID
    else if (s.rim.launches.any fun l => l.stand == n.toNat && (l.st == .queued || l.st == .running || l.st == .swapped))
        || n.toNat == s.standNo then s.raise cSTANDBUSY
    else
      let t := (s.standAt n.toNat).getD emptyStand
      let r := s.rectOf n.toNat
      let s : State := { s with rim := { s.rim with
        stands := SMap.put n.toNat { t with a := x, b := y, ranges := [] } s.rim.stands } }
      .next (if valid then s else s.bindRect r fun _ k =>
        if k.st == .exited && k.stand == n.toNat then { k with st := .absent } else k)

/-! ## Events -/

/-- A host write to a launch slot: only whole 64-byte writes at four offsets are kept (18 R413). -/
def execLaunchSlotWrite (slot : Fin 64) (off len : Nat) (data : BitVec 512) (s : State) : Result :=
  if len = 64 ∧ off % 64 = 0 ∧ off < 256 then
    let slots := SMap.put (4 * slot.val + off / 64) data s.rim.launchSlots
    let s : State := { s with rim := { s.rim with launchSlots := slots } }
    .next (if (List.range 4).all fun k => (SMap.find (4 * slot.val + k) slots).isSome
      then s.afterClk 1 (.launchRecord slot) else s)
  else .next s

/-- The rim controller checks a record (16 R377; 21 R497): the first REASON that holds refuses it. -/
def execLaunchRecord (slot : Fin 64) (s : State) : Result :=
  let parts := (List.range 4).map fun k => SMap.find (4 * slot.val + k) s.rim.launchSlots
  if parts.any (·.isNone) then .next s
  else
    let words := parts.flatMap fun p => (List.range 8).map fun i => (p.getD 0).extractLsb' (64 * i) 64
    let n := bits (words.headD 0).toNat 55 50
    let l : Launch := ⟨words, n, .queued, 0, ⟨0, 0, 0, 0, 0⟩, 0, 0, 0, 0, 0, 0, 0⟩
    let t := (s.standAt n).getD emptyStand
    let r := State.unpackRect (bits t.a.toNat 31 0)
    let queued := (s.rim.launches.filter fun m => m.stand == n && m.st == .queued).length
    let rows := recField l 1 15 8
    let reason : Nat :=
      if recField l 0 63 56 ≠ 1 then 1
      else if !t.b.getLsbD 63 then 2
      else if 32 ≤ queued then 3
      else if (List.range 32).any fun i => words.getD i 0 &&& ~~~recMask i != 0 then 4
      else if recField l 1 7 0 ≠ r.colHi + 1 - r.colLo ∨ (rows ≠ 0 ∧ rows ≠ r.rowHi + 1 - r.rowLo) then 5
      else if !(decide (16 ≤ recNiv l ∧ recNiv l ≤ 26) && decide (16 ≤ recWdl l ∧ recWdl l ≤ 30)
          && decide (2 ≤ recShd l ∧ recShd l ≤ 6)) then 10
      else if s.rim.lmsleft = 0 ∨ Config.auditCapacity ≤ s.rim.audit.length then 11
      else 0
    let l := if reason = 0 then l else { l with st := .refused, reason := reason }
    let slots := (List.range 4).foldl (fun m k => SMap.erase (4 * slot.val + k) m) s.rim.launchSlots
    let s := ({ s with rim := { s.rim with launchSlots := slots, launches := s.rim.launches ++ [l] } } : State).putStatus l
    .next (if reason = 0 then s.afterClk 1 (.launchStart (.ofNat 64 n)) else s)

/-- A queued launch starts (16 R379, R380): its tiles are free, or it begins to take them from a stand of lower priority. Its
entries become UNPLACED while the placement map is read; then its tiles are reset and bound, it is RUNNING, and launches that
have waited for it look again. -/
def execLaunchStart (stand : Fin 64) (s : State) : Result :=
  match s.waiting.find? fun l => l.stand == stand.val, s.standAt stand.val with
  | some l, some t =>
    let r := s.rectOf stand.val
    let here := State.inRect r s.core.ltn
    let starting := (List.range s.rim.held).all fun n =>
      !State.inRect r n || ((s.keyOf n).st == .unplaced && (s.keyOf n).stand == stand.val)
    if here && !starting && s.firstWaiting != some l then .next s
    else if here && !starting && !s.tileFree then
      match s.runningHere with
      | some m =>
        if s.effPrio m < s.effPrio l ∧ s.rim.preempt.isNone ∧ s.rim.recovery.isNone then
          .next (({ s with rim := { s.rim with preempt := some (stand.val, []) } } : State).afterClk 1 .swapOut)
        else .next s
      | none => .next s
    else if here && !s.core.pg.isEmpty then .next (s.afterClk 8 (.launchStart stand))
    else
      let (x, s) := s.loadLaunch t l
      match x with
      | .error reason =>
        let s := s.bindRect r fun _ k => if k.st = .unplaced ∧ k.stand = stand.val then { k with st := .exited } else k
        .next ((s.changeState (· == l) fun l => { l with st := .refused, reason := reason }).tryStarts)
      | .ok x =>
        if !starting then
          .next ((s.bindRect r fun n _ => { s.boundEntry stand.val n with st := .unplaced }).afterClk 475 (.launchStart stand))
        else
          let s := if here then s.startHere t l x else s.bindRect r fun n _ => s.boundEntry stand.val n
          .next ((s.changeState (· == l) fun l => { l with st := .running, startedAt := s.clk }).tryStarts)
  | _, _ => .next s

/-- A launch that runs, or is swapped out, ends DONE once every strand has ended and every entry has completed, of which the
event tells for the other cores; or it ends FAULT (16 R381, 07 R184). -/
def execLaunchEnd (close : LaunchClose) (s : State) : Result :=
  match s.rim.launches.find? fun l => l.stand == close.stand.val && (l.st == .running || l.st == .swapped) with
  | none => .next s
  | some l =>
    let here := s.runningHere == some l
    let away := s.rim.swapped.all fun x => x.stand != close.stand.val || ({ s with core := x.image.core } : State).coreDone
    match close.fault with
    | none =>
      .next (if (!here || (s.tileTaken && s.coreDone)) && away then s.finishLaunch l here .done ⟨0, 0, 0, 0, 0⟩ else s)
    | some i => .next ((if here then s.clearStrands else s).finishLaunch l here .fault i)

/-- The pre-empted tile is swapped out once its strands are parked and its entries have completed (16 R382, R383): its image
goes to the swap area, its entry is SWAPPED, and what waits for the tile looks again. -/
def execSwapOut (s : State) : Result :=
  match s.rim.preempt with
  | none => .next s
  | some (n, _) =>
    let s := s.parkAll
    let parked := allSlots.all fun i => (s.slot i).st == .empty || (s.slot i).st == .parked || (s.slot i).bucker
    if !(parked && s.core.pg.isEmpty) || s.tile.frozen then .next (s.afterClk 1 .swapOut)
    else
      let slots := (s.rim.preempt.getD (n, [])).2
      let old := s.standNo
      let image : Image := { s.imageOf with mem := [] }
      let s := s.toSwap ((s.standAt old).getD emptyStand)
      let s : State := { s with rim := { s.rim with
        swapped := s.rim.swapped ++ [⟨old, slots, image, s.rim.sections, s.rim.mailbox⟩], preempt := none } }
      let s := s.changeState (fun l => l.stand == old && l.st == .running) fun l => { l with st := .swapped }
      let s := s.bindRect (State.tileRect s.core.ltn) fun _ k => { k with st := .swapped }
      let core : Core := { Core.reset with
        ltn := s.core.ltn, num := s.core.num, nextStrand := s.core.nextStrand, nextTag := s.core.nextTag, nextEntry := s.core.nextEntry }
      .next ({ s with agenda := [], core := core
                      tile := { Tile.reset with keyring := s.tile.keyring, changed := s.tile.changed } } : State).tryStarts

/-- A swapped tile comes back when the tile is free and nothing of higher priority waits for it (16 R383): its image is
restored and is its checkpoint, its entry is BOUND, the mailbox messages for it enter their queues (12 R298), and the strands
that were parked for it are unparked. -/
def execSwapIn (s : State) : Result :=
  match s.rim.swapped.find? fun (x : Swapped) => s.rim.swapped.all fun (y : Swapped) => decide (s.swapPrio y ≤ s.swapPrio x) with
  | none => .next s
  | some (x : Swapped) =>
    let blocked : Bool := match s.firstWaiting with
      | some l => decide (s.swapPrio x < s.effPrio l)
      | none => false
    if !s.tileFree || blocked || !s.core.pg.isEmpty then .next s
    else
      match s.rim.launches.find? (fun l => l.stand == x.stand && l.st == .swapped), s.standAt x.stand with
      | some l, some t =>
        let s := s.clearSlices fun _ => true
        let metas := x.image.metas.foldl (fun m c => SMap.set 0 c.1 c.2 m) s.metas
        let poison := x.image.poison.foldl (fun m c => SMap.put c.1 () m) s.poison
        let s : State := { s with
          core := x.image.core
          tile := { x.image.tile with keyring := s.tile.keyring, changed := s.tile.changed, ranges := t.ranges, tlb := [] }
          agenda := x.image.agenda, metas := metas, poison := poison
          rim := { s.rim with swapped := s.rim.swapped.erase x } }
        let s := (s.applyRecord t l x.sections).fromSwap t
        let (mine, others) := x.mailbox.partition fun m => m.packet.dltn == s.core.ltn
        let s : State := { s with rim := { s.rim with mailbox := others } }
        let s := s.changeState (· == l) fun l => { l with st := .running }
        let s := s.bindRect (State.tileRect s.core.ltn) fun n _ => s.boundEntry x.stand n
        let s := s.rebased.logged 7 s.core.num 0 [0] .swapIn
        let s := mine.foldl (fun s m => s.after 0 (.messageAccept m.packet)) s
        .next (x.slots.foldl (fun s i => s.unpark ⟨4095, 0, 0, 0, i, true, 0, 0⟩) s)
      | _, _ => .next s

end Sys2Proof.Machine
end

