-- ==== Sys2Proof/Machine/Host.lean ====
section
/-! DEFINITION. The host link, the scale-out ports, peer accesses, the management service's tables and the collective engine
(18 R412 to R428). -/

namespace Sys2Proof.Machine

namespace State

/-! ## Accesses from outside (18 R414, R419) -/

/-- A stand of the table, or an empty one. -/
def standOr (s : State) (n : Nat) : Stand := (s.standAt n).getD emptyStand

/-- Change a stand's record. -/
def modStandAt (s : State) (n : Nat) (f : Stand → Stand) : State :=
  { s with rim := { s.rim with stands := SMap.put n (f (s.standOr n)) s.rim.stands } }

/-- The lowest-numbered valid aperture that holds an HBM address. -/
def apertureOf (s : State) (addr : Nat) : Option (Word × Word) :=
  (s.rim.apertures.find? fun (_, w0, w1) =>
    w0.getLsbD 63 && decide (bits w0.toNat 41 0 ≤ addr) && decide (addr + 63 ≤ bits w1.toNat 41 0)).map (·.2)

/-- Does the grant of a stand hold the whole range of an aperture (18 R414)? -/
def apertureGranted (s : State) (w0 w1 : Word) : Bool :=
  match s.standAt (bits w0.toNat 59 54) with
  | some t =>
    let first := bits w0.toNat 41 0 / 2 ^ 21
    let last := bits w1.toNat 41 0 / 2 ^ 21
    decide (last < first) || (List.range (last + 1 - first)).all fun i => granted t ((first + i) * 2 ^ 21)
  | none => false

/-- Is a host access refused? -/
def hostRefused (s : State) (w : Bool) (addr : Nat) : Option (Word × Word) → Bool
  | none => true
  | some (w0, w1) =>
    let dec := w0.getLsbD 60
    let key := bits (s.standOr (bits w0.toNat 59 54)).b.toNat 53 48
    !(if w then w0.getLsbD 61 else w0.getLsbD 62) || !s.apertureGranted w0 w1 || !s.dpaNames addr
      || (dec && !s.rim.hostIde)
      || (dec && (s.frameOf (s.route addr)).2.isSome && (SMap.find key s.rim.keys).isNone)

/-- A line is poisoned at its source: MADE of `sys.poisonct` of the owning stand rises (17 R407). -/
def countMade (s : State) (n : Nat) : State := s.modStandAt n fun t => { t with poisonMade := t.poisonMade + 1 }

/-- The stand that owns a line of memory: a slice line is the running stand's, a line of device memory that of the first stand
whose grant holds it (17 R395). -/
def ownerOf (s : State) (line : Nat) : Nat :=
  if 2 ^ 63 ≤ 64 * line then s.standNo
  else ((s.rim.stands.find? fun t => granted t.2 (64 * line)).map (·.1)).getD s.standNo

/-- The errors that have happened (17 R407, 20 R460): an uncorrectable one poisons its line, a corrected one counts. -/
def suffer (s : State) : State :=
  let (now, later) := s.errors.partition fun e => decide (e.1 ≤ s.clk)
  now.foldl (fun (s : State) e => match e.2 with
    | none => s.bump 23
    | some line => ({ s with poison := SMap.put line () s.poison } : State).countMade (s.ownerOf line)) { s with errors := later }

/-- A whole-line write from outside under a key, or as the bytes stand; poison that comes with it is made here (17 R407). -/
def writeOutside (s : State) (dpa : Nat) (data : List Byte) (key : Option (BitVec 512)) (poison : Bool) (stand : Nat) : State :=
  let a := s.route dpa
  let s := (s.touchRows a data.length).write none a data poison
  let s := if poison then s.countMade stand else s
  { s with rim := { s.rim with lineKeys := match key with
      | some k => SMap.put (a / 64) k s.rim.lineKeys
      | none => SMap.erase (a / 64) s.rim.lineKeys } }

/-! ## Ports (18 R415 to R417) -/

/-- A port that nothing has changed: up, five lanes, no packet under its first key. -/
def portAt (s : State) (p : Nat) : Port := SMap.getD s.rim.ports p ⟨true, 5, 0, 0⟩

def setPort (s : State) (p : Nat) (x : Port) : State := { s with rim := { s.rim with ports := SMap.put p x s.rim.ports } }

/-! ## The collective engine (18 R421 to R424) -/

/-- Change a collective. -/
def modColl (s : State) (c : Collective) (f : Collective → Collective) : State :=
  { s with rim := { s.rim with collectives := s.rim.collectives.map fun x =>
    if x.ltn == c.ltn && x.core == c.core && x.ord == c.ord && x.stand == c.stand then f x else x } }

/-- Members of the pod and this module's rank. -/
def podOf (s : State) (c : Collective) : Nat × Nat :=
  let t := s.standOr c.stand
  (max 1 t.pod.length, t.rank)

/-- Steps that every rank sends. -/
def collSteps (s : State) (c : Collective) : Nat :=
  let n := (s.podOf c).1
  if c.op = 0 then 2 * (n - 1) else n - 1

/-- The chunk that a rank sends in a step: reduce-scatter counts down from its own, all-gather after it from the next one
(18 R422). -/
def chunkSent (n op rank step : Nat) : Nat :=
  if op = 0 ∧ n - 1 ≤ step then (rank + 1 + 2 * n - (step - (n - 1))) % n else (rank + 2 * n - step) % n

/-- Is a step of the reducing kind? -/
def reduces (n op step : Nat) : Bool := op == 1 || (op == 0 && decide (step < n - 1))

/-- One BF16 sum, rounded once to nearest, subnormals exact (18 R422). -/
def sumB16 (a b : BitVec 16) : BitVec 16 :=
  .ofNat 16 (roundF cBF16 ⟨0, false, 0⟩ (Val.add 0 (unpackF cBF16 a.toNat) (unpackF cBF16 b.toNat)).1).1

/-- The bytes of the elements, and the elements of bytes. -/
def elemBytes (d : List (BitVec 16)) : List Byte := d.flatMap fun x => leBytes 2 x.toNat
def bytesElem (b : List Byte) : List (BitVec 16) := (List.range (b.length / 2)).map fun i => .ofNat 16 (leNat ((b.drop (2 * i)).take 2))

/-- The time after which a step that is not acknowledged is sent again (18 R423, R425), in core-clock cycles. -/
def stepTime (s : State) (c : Collective) : Nat := ccPerUs * max 1 (s.standOr c.stand).ctmo.toNat

/-- A collective ends: its status word, counter or fault reaches the tile (18 R422, R423). -/
def endColl (s : State) (c : Collective) (fault : Option Nat) : State :=
  (s.modColl c fun x => { x with ended := true }).afterClk 1
    (.catchStore (.collective (.ofNat 16 c.slot) c.strand c.lk (.ofNat 22 c.stw) (fault.map (.ofNat 8))))

/-- Write the buffer back, a line at a time; none if a line is refused. -/
def storeColl (s : State) (t : Stand) : Nat → Nat → List Byte → Option State
  | 0, _, _ => some s
  | fuel + 1, va, data =>
    if data.isEmpty then some s
    else match s.translateIn t t.ranges false va with
      | .error _ => none
      | .ok x =>
        match s.checkXlate t x true false with
        | some _ => none
        | none =>
          let slot := bits t.b.toNat 53 48
          let key := if x.attrs.getLsbD 55 then (s.keyOfSlot slot).map fun k => (slot, k) else none
          storeColl (s.writeDevice x.dpa (data.take 64) key) t fuel (va + 64) (data.drop 64)

/-- Send the next step when the one before is acknowledged and its chunk has come, or end after the last step. -/
def advanceColl (s : State) (c : Collective) : State :=
  let total := s.collSteps c
  if c.ended || c.ackedStep != c.sentStep then s
  else if c.sentStep < total then
    if c.sentStep ≤ c.applied then
      (s.modColl c fun x => { x with sentStep := x.sentStep + 1, resends := 0 }).afterClk (s.stepTime c)
        (.collectiveStepTimeout c.tag c.sentStep)
    else s
  else if c.applied < total then s
  else
    match s.storeColl (s.standOr c.stand) (2 * c.nel / 64 + 1) c.buf (elemBytes c.data) with
    | some s => s.endColl c none
    | none => s.endColl c (some (total - 1))

/-- The collective of this stand that a tag names: the oldest that has not ended. -/
def collOf (s : State) (tag : Word) : Option Collective :=
  s.rim.collectives.find? fun c => c.tag == tag && !c.ended && c.stand == s.standNo

/-- Begin a collective whose strand's earlier entries have completed: its buffer is read (18 R421, R422). -/
def beginColl (s : State) (c : Collective) : State :=
  let t := s.standOr c.stand
  let mapped := (List.range (2 * c.nel / 64)).all fun i => match s.translateIn t t.ranges false (c.buf + 64 * i) with
    | .ok x => (s.checkXlate t x false false).isNone
    | .error _ => false
  let c := { c with queued := none }
  if !mapped then (s.modColl c fun x => { x with queued := none }).endColl c (some 0)
  else
    let (b, s) := s.readVirtual t (2 * c.nel / 64 + 1) c.buf (2 * c.nel)
    let c := { c with data := bytesElem b }
    (s.modColl c fun _ => c).advanceColl c

/-- What a collective that has ended does to the tile: the status word, then the counter, or the fault of its strand; OUT
falls (18 R422 to R424). -/
def applyColl (s : State) (slot : Fin 16) (strand : Nat) (lk : BitVec 4) (stw : Nat) (fault : Option Byte) : State :=
  let s : State := { s with core := { s.core with collOut := s.core.collOut - 1 } }
  let status := match fault with
    | some step => 0x120 + step.toNat * 2 ^ 16
    | none => 0
  let s := if stw = 0 then s else s.write none (s.key stw) (leBytes 8 status)
  match fault with
  | none => s.raiseCounter lk 0 0
  | some step =>
    let d : Deferred := ⟨⟨cCOLLECTIVE, step.setWidth 32, 0⟩, none⟩
    if (s.slot slot).strand = strand ∧ (s.slot slot).st ≠ .empty then
      s.modSlot slot fun x =>
        let y : Slot := { x with
          deferred := x.deferred ++ [d], st := if x.st == .sleep then .ready else x.st
          before := if x.st == .parked then .ready else x.before }
        match x.waitAt, x.st == .sleep || (x.st == .parked && x.before == .sleep) with
        | some (pc, fold, loops), true => { y with pc := pc, fold := fold, loops := loops, wait := none, waitAt := none }
        | _, _ => y
    else if s.core.spilled.any fun c => c.2.slot.strand == strand then
      { s with core := { s.core with spilled := s.core.spilled.map fun (n, c) =>
        if c.slot.strand = strand then
          (n, { c with slot := { c.slot with deferred := c.slot.deferred ++ [d], wait := none, before := .ready } })
        else (n, c) } }
    else s.afterClk 0 (.launchEnd ⟨.ofNat 64 s.standNo, some ⟨cCOLLECTIVE, 0, s.core.ltn, s.core.num, slot.val⟩⟩)

end State

/-! ## Heads -/

/-- Starts a collective, or attaches to one that the engine has accepted (18 R421, R424). -/
def execCollectiveStart (a : Reg) (s : State) : Result :=
  s.writes a false true fun s x r =>
    if 2 ^ 22 ≤ x.toNat then s.raise cADDRESS x
    else s.readLocal x 64 64 fun b t =>
      let w (i : Nat) : Nat := leNat ((b.drop (8 * i)).take 8)
      let op := bits (w 0) 63 60
      let nel := w 2
      let pod := s.ofStand fun t => w64 t.pod.length
      if bits (w 0) 55 0 ≠ 0 ∨ bits (w 2) 63 32 ≠ 0 ∨ w 5 ≠ 0 ∨ w 6 ≠ 0 ∨ w 7 ≠ 0 ∨ 2 < op ∨ pod = 0 ∨ nel = 0
          ∨ nel % (32 * pod.toNat) ≠ 0 then s.raise cRANGE
      else if 4 ≤ s.core.collOut then s.sleep .collective
      else
        let known := s.rim.collectives.any fun c =>
          c.ltn == s.core.ltn && c.core == s.core.num && c.ord == s.core.collOrd && c.stand == s.standNo
        let c : Collective := ⟨s.core.ltn, s.core.num, s.issue.slot.val, s.me.strand, s.core.collOrd, s.standNo, op,
          .ofNat 4 (bits (w 0) 59 56), w 1, nel, w64 (w 3), w 4, 0, 0, 0, 0, [], false, some s.core.nextEntry⟩
        let t : State := { t with core := { t.core with
          mq := r.core.mq, collOrd := s.core.collOrd + 1, collOut := s.core.collOut + 1 } }
        .next (if known then t
          else ({ t with rim := { t.rim with collectives := t.rim.collectives ++ [c] } } : State).afterClk 1
            (.collectiveStepTimeout c.tag 0))

/-! ## Events: the host link -/

/-- A host access to HBM (18 R414): refused ones are counted for the aperture's stand, or for stand 0. -/
def execHostMemAccess (w : Bool) (addr : Nat) (line : OutsideLine) (s : State) : Result :=
  let dpa := addr / 64 * 64
  let entry := s.apertureOf dpa
  if !s.rim.hostUp then .next s
  else if s.hostRefused w dpa entry then
    let n := match entry with
      | some (w0, _) => bits w0.toNat 59 54
      | none => 0
    .next (s.modStandAt n fun t => { t with hostref := t.hostref + 1 })
  else if !w then .next s
  else
    let key : Option (BitVec 512) := match entry with
      | some (w0, _) =>
        if w0.getLsbD 60 && (s.frameOf (s.route dpa)).2.isSome then
          s.keyOfSlot (bits (s.standOr (bits w0.toNat 59 54)).b.toNat 53 48)
        else none
      | none => none
    let n := match entry with
      | some (w0, _) => bits w0.toNat 59 54
      | none => 0
    .next (s.writeOutside dpa (leBytes 64 line.data.toNat) key line.poison n)

/-- The host link is lost (18 R412, 17 R396). -/
def execHostLinkDown (s : State) : Result := .next { s with rim := { s.rim with hostUp := false } }

/-- The host link trains again, at 16, 8 or 4 lanes (18 R412). -/
def execHostLinkUp (width : Nat) (s : State) : Result :=
  .next (if width = 16 ∨ width = 8 ∨ width = 4 then
    { s with rim := { s.rim with hostUp := true, hostWidth := width } } else s)

/-- A snoop is answered invalid, since no host line is held (18 R412, 08 R215). -/
def execCxlSnoop (_ : Nat) (s : State) : Result := .next s

/-! ## Events: ports and peers -/

/-- An access of another module through an export (18 R418, R419). -/
def execPeerAccess (w : Bool) (src offset : Nat) (line : OutsideLine) (s : State) : Result :=
  let e := offset / 2 ^ 22 % 64
  let (w0, w1) := SMap.getD s.rim.exports e (0, 0)
  let n := bits w1.toNat 63 58
  let refuse : Result := .next (s.modStandAt n fun t => { t with peerref := t.peerref + 1 })
  let va := bits w0.toNat 56 0 + offset % 2 ^ 22 / 64 * 64
  if !w0.getLsbD 63 || !(if w then w0.getLsbD 61 else w0.getLsbD 62) || src != bits w1.toNat 21 0 then refuse
  else match s.standAt n with
  | none => refuse
  | some t =>
    match s.translateIn t t.ranges false va with
    | .error _ => refuse
    | .ok x =>
      if (s.checkXlate t x w true).isSome then refuse
      else if !w then .next s
      else
        let slot := bits t.b.toNat 53 48
        let key := if x.attrs.getLsbD 55 then (s.keyOfSlot slot).map fun k => (slot, k) else none
        let s := s.writeDevice x.dpa (leBytes 64 line.data.toNat) key line.poison
        .next (if line.poison then s.countMade n else s)

/-- A packet of a scale-out port (18 R416): what its tag does not authenticate is discarded, and counted on the first core
of the stand. What an authentic packet asks for is an event of its own. A port takes new keys before 2^32 packets. -/
def execScaleoutPacketReceive (port : Fin 32) (stand : Fin 64) (_ : Nat) (body : List Byte) (s : State) : Result :=
  let p := s.portAt port.val
  if !p.up then .next s
  else if Config.gcmVerify (s.standOr stand.val).secret port.val p.epoch p.counter body then
    .next (s.setPort port.val (if p.counter + 1 < 2 ^ 32 then { p with counter := p.counter + 1 }
      else { p with epoch := p.epoch + 1, counter := 0 }))
  else if stand.val = s.standNo ∧ s.tileIndex = 0 ∧ s.core.num = 0 then .next (s.bump 22)
  else .next s

/-- A lane that fails again and again is retired; the port runs at four rails (18 R415). -/
def execLaneRetire (port : Fin 32) (s : State) : Result :=
  .next (s.setPort port.val { s.portAt port.val with lanes := 4 })

/-- A packet that fails its CRC is sent again by the link: nothing of the machine's state changes (18 R415). -/
def execLinkRetry (_ : Fin 32) (s : State) : Result := .next s

/-- A port takes new keys, and its counter starts again (18 R416). -/
def execPortRekey (port : Fin 32) (s : State) : Result :=
  let p := s.portAt port.val
  .next (s.setPort port.val { p with epoch := p.epoch + 1, counter := 0 })

def execScaleoutPortDown (port : Fin 32) (s : State) : Result :=
  .next (s.setPort port.val { s.portAt port.val with up := false })

def execScaleoutPortUp (port : Fin 32) (s : State) : Result :=
  .next (s.setPort port.val { s.portAt port.val with up := true })

/-! ## Events: the management service -/

/-- A stand's grant, of at most eight far-tier ranges, and its link secret are written (17 R395, 18 R416). -/
def execStandGrantWrite (stand : Fin 64) (hbm far : List (Nat × Nat)) (secret : BitVec 128) (s : State) : Result :=
  .next (s.modStandAt stand.val fun t => { t with hbm := hbm, far := far.take 8, secret := secret })

/-- An entry of the host aperture table (18 R414). -/
def execHostApertureWrite (n : Fin 64) (w0 w1 : Word) (s : State) : Result :=
  .next { s with rim := { s.rim with
    apertures := SMap.put n.val (w0 &&& 0xFFC003FFFFFFFFFF, w1 &&& 0x000003FFFFFFFFFF) s.rim.apertures } }

/-- An entry of the peer export table (18 R419). -/
def execPeerExportWrite (n : Fin 64) (w0 w1 : Word) (s : State) : Result :=
  .next { s with rim := { s.rim with
    exports := SMap.put n.val (w0 &&& 0xE1FFFFFFFFFFFFFF, w1 &&& 0xFC000000003FFFFF) s.rim.exports } }

/-- A stand's pod: its members in rank order and this module's rank (18 R420). -/
def execPodConfigure (stand : Fin 64) (members : List Nat) (rank : Nat) (s : State) : Result :=
  .next (s.modStandAt stand.val fun t => { t with pod := members.take 64, rank := rank })

/-- A stand's delegation masks; its own bit is never set (16 R373). -/
def execStandDelegationWrite (stand : Fin 64) (stands keys : Word) (s : State) : Result :=
  .next (s.modStandAt stand.val fun t => { t with standdel := stands &&& ~~~((1 : Word) <<< stand.val), keydel := keys })

/-! ## Events: collectives -/

/-- A step arrives from the rank before: it is applied once, in order, and acknowledged (18 R422, R423). -/
def execCollectiveStepReceive (tag : Word) (step chunk : Nat) (data : List (BitVec 16)) (s : State) : Result :=
  match s.collOf tag with
  | none => .next s
  | some c =>
    let (n, rank) := s.podOf c
    let size := c.nel / n
    if c.queued.isSome || step != c.applied || s.collSteps c ≤ step
        || chunk != State.chunkSent n c.op ((rank + n - 1) % n) step || data.length != size then .next s
    else
      let old := (c.data.drop (size * chunk)).take size
      let new := if State.reduces n c.op step then old.zipWith State.sumB16 data else data
      let c := { c with applied := c.applied + 1, data := c.data.take (size * chunk) ++ new ++ c.data.drop (size * chunk + size) }
      .next ((s.modColl c fun _ => c).advanceColl c)

/-- The acknowledgement of the step last sent (18 R422). -/
def execCollectiveStepAck (tag : Word) (step : Nat) (s : State) : Result :=
  match s.collOf tag with
  | none => .next s
  | some c =>
    if c.queued.isSome || c.sentStep != step + 1 || c.ackedStep != step then .next s
    else
      let c := { c with ackedStep := step + 1 }
      .next ((s.modColl c fun _ => c).advanceColl c)

/-- A step that has not been acknowledged in time is sent again, until its resends are used up (18 R423). The same timer
begins a collective once the entries before it have completed. -/
def execCollectiveStepTimeout (tag : Word) (step : Nat) (s : State) : Result :=
  let queued := s.rim.collectives.find? fun c => c.tag == tag && c.queued.isSome && step == 0 && c.stand == s.standNo
  match queued.or (s.collOf tag) with
  | none => .next s
  | some c =>
    match c.queued with
    | some n =>
      if s.core.pg.any fun e => e.strand == c.strand && decide (e.id < n) then .next (s.afterClk 8 (.collectiveStepTimeout tag 0))
      else .next (s.beginColl c)
    | none =>
      if c.sentStep != step + 1 || c.ackedStep != step then .next s
      else if (s.standOr c.stand).cretry.toNat ≤ c.resends then .next (s.endColl c (some step))
      else .next ((s.modColl c fun x => { x with resends := x.resends + 1 }).afterClk (s.stepTime c)
        (.collectiveStepTimeout tag step))

end Sys2Proof.Machine
end

