-- ==== Sys2Proof/Machine/Integer.lean ====
section
/-! DEFINITION. Scalar integer and compare instructions (04 R94 to R103). -/

namespace Sys2Proof.Machine

open State

/-! ## Shapes -/

namespace State

/-- d := f(a, b), no flag written (04 R98). -/
def alu2 (s : State) (d a b : Reg) (f : Word → Word → Word) : Result :=
  s.issueHead [.dst d, .src a, .src b] [] false fun s =>
    let (x, s) := s.readW a
    let (y, s) := s.readW b
    .next (s.writeW d (f x y))

/-- d := f(a, b) with N, Z, C and V written (04 R94). -/
def alu2f (s : State) (d a b : Reg) (f : Word → Word → Word × NZCV) : Result :=
  s.issueHead [.dst d, .src a, .src b] [] false fun s =>
    let (x, s) := s.readW a
    let (y, s) := s.readW b
    let r := f x y
    .next ((s.writeW d r.1).setFlags r.2)

/-- d := f(a), no flag written (04 R100). -/
def alu1 (s : State) (d a : Reg) (f : Word → Word) : Result :=
  s.issueHead [.dst d, .src a] [] false fun s =>
    let (x, s) := s.readW a
    .next (s.writeW d (f x))

/-- A division: long, its result and V written at the end of the window, 36 cc after issue at the latest (04 R99,
R116). -/
def divide (s : State) (d a b : Reg) (la : BitVec 4) (f : Word → Word → Word × Bool) : Result :=
  s.issueHead [.dst d, .src a, .src b] [] false fun s₁ =>
    if s₁.windowsFull then s.raise cWINDOW
    else
      let (x, s₂) := s₁.readW a
      let (y, s₂) := s₂.readW b
      let r := f x y
      .next (s₂.longResult la 36 [.reg d r.1, .swSet 1 (if r.2 then 1 else 0)])

end State

/-! ## Values -/

/-- Signed quotient, remainder and V (04 R99). -/
def divSigned (a b : Word) : Word × Word × Bool :=
  if b = 0 then (BitVec.allOnes 64, a, true)
  else if a = BitVec.intMin 64 ∧ b = BitVec.allOnes 64 then (a, 0, true)
  else (.ofInt 64 (a.toInt.tdiv b.toInt), .ofInt 64 (a.toInt.tmod b.toInt), false)

/-- Natural quotient, remainder and V (04 R99). -/
def divNatural (a b : Word) : Word × Word × Bool :=
  if b = 0 then (BitVec.allOnes 64, a, true) else (a / b, a % b, false)

/-- The high half of a product (04 R98). -/
def mulHigh (signed : Bool) (a b : Word) : Word :=
  if signed then .ofInt 64 (a.toInt * b.toInt / 2 ^ 64) else .ofNat 64 (a.toNat * b.toNat / 2 ^ 64)

/-- Leading and trailing zero bits, one bits (04 R100). -/
def countLeading (a : Word) : Nat := ((List.range 64).find? fun i => a.getMsbD i).getD 64
def countTrailing (a : Word) : Nat := ((List.range 64).find? fun i => a.getLsbD i).getD 64
def countOnes (a : Word) : Nat := ((List.range 64).filter fun i => a.getLsbD i).length

/-- The bytes in reverse order (04 R100). -/
def byteSwap (a : Word) : Word := w64 (leNat (leBytes 8 a.toNat).reverse)

/-- A field of the low n bits, sign-extended. -/
def sextLow (n : Nat) (a : Word) : Word := (a.setWidth n).signExtend 64

/-- A field of the low n bits, zero-extended. -/
def zextLow (n : Nat) (a : Word) : Word := (a.setWidth n).setWidth 64

/-- `BFX` (04 R102). -/
def fieldOut (a : Word) (s : Bool) (pos len : Nat) : Word :=
  let v := (a >>> pos).setWidth len
  if s then v.signExtend 64 else v.setWidth 64

/-- `BFI` (04 R102). -/
def fieldIn (d a : Word) (pos len : Nat) : Word :=
  let mask : Word := ((BitVec.allOnes len).setWidth 64) <<< pos
  ((a <<< pos) &&& mask) ||| (d &&& ~~~mask)

/-- Greatest and least, by an order. -/
def pick (le : Word → Word → Bool) (a b : Word) : Word := if le a b then a else b

/-! ## Two sources (04 R98) -/

def execAdd (d a b : Reg) (s : State) : Result := s.alu2f d a b fun x y => addFlags x y false
def execSub (d a b : Reg) (s : State) : Result := s.alu2f d a b subFlags
def execMul (d a b : Reg) (s : State) : Result := s.alu2 d a b fun x y => x * y
def execMulh (d a b : Reg) (s : State) : Result := s.alu2 d a b (mulHigh true)
def execMulhn (d a b : Reg) (s : State) : Result := s.alu2 d a b (mulHigh false)
def execDiv (d a b : Reg) (la : BitVec 4) (s : State) : Result :=
  s.divide d a b la fun x y => ((divSigned x y).1, (divSigned x y).2.2)
def execDivn (d a b : Reg) (la : BitVec 4) (s : State) : Result :=
  s.divide d a b la fun x y => ((divNatural x y).1, (divNatural x y).2.2)
def execRem (d a b : Reg) (la : BitVec 4) (s : State) : Result :=
  s.divide d a b la fun x y => ((divSigned x y).2.1, (divSigned x y).2.2)
def execRemn (d a b : Reg) (la : BitVec 4) (s : State) : Result :=
  s.divide d a b la fun x y => ((divNatural x y).2.1, (divNatural x y).2.2)
def execMin (d a b : Reg) (s : State) : Result := s.alu2 d a b (pick fun x y => x.sle y)
def execMax (d a b : Reg) (s : State) : Result := s.alu2 d a b (pick fun x y => y.sle x)
def execMinn (d a b : Reg) (s : State) : Result := s.alu2 d a b (pick fun x y => x.ule y)
def execMaxn (d a b : Reg) (s : State) : Result := s.alu2 d a b (pick fun x y => y.ule x)
def execAnd (d a b : Reg) (s : State) : Result := s.alu2 d a b fun x y => x &&& y
def execOr (d a b : Reg) (s : State) : Result := s.alu2 d a b fun x y => x ||| y
def execXor (d a b : Reg) (s : State) : Result := s.alu2 d a b fun x y => x ^^^ y
def execAndn (d a b : Reg) (s : State) : Result := s.alu2 d a b fun x y => x &&& ~~~y
def execShl (d a b : Reg) (s : State) : Result := s.alu2 d a b fun x y => x <<< (y.toNat % 64)
def execShr (d a b : Reg) (s : State) : Result := s.alu2 d a b fun x y => x >>> (y.toNat % 64)
def execSar (d a b : Reg) (s : State) : Result := s.alu2 d a b fun x y => x.sshiftRight (y.toNat % 64)
def execRol (d a b : Reg) (s : State) : Result := s.alu2 d a b fun x y => x.rotateLeft (y.toNat % 64)
/-- Reads C as it stands when the head issues (04 R97, R98). -/
def execAddx (d a b : Reg) (s : State) : Result := s.alu2f d a b fun x y => addFlags x y (flagsOf s.rdSw).c
def execSel (d a b : Reg) (s : State) : Result := s.alu2 d a b fun x y => if (flagsOf s.rdSw).z then x else y

/-! ## One source (04 R100) -/

def execMov (d a : Reg) (s : State) : Result := s.alu1 d a id
/-- Writes N, Z, C and V as `SUB` does for 0 − a. -/
def execNeg (d a : Reg) (s : State) : Result :=
  s.issueHead [.dst d, .src a] [] false fun s =>
    let (x, s) := s.readW a
    let r := subFlags 0 x
    .next ((s.writeW d r.1).setFlags r.2)
def execAbs (d a : Reg) (s : State) : Result := s.alu1 d a fun x => if x.msb then -x else x
def execClz (d a : Reg) (s : State) : Result := s.alu1 d a fun x => w64 (countLeading x)
def execCtz (d a : Reg) (s : State) : Result := s.alu1 d a fun x => w64 (countTrailing x)
def execPopc (d a : Reg) (s : State) : Result := s.alu1 d a fun x => w64 (countOnes x)
def execBswap (d a : Reg) (s : State) : Result := s.alu1 d a byteSwap
def execSextI8 (d a : Reg) (s : State) : Result := s.alu1 d a (sextLow 8)
def execSextI16 (d a : Reg) (s : State) : Result := s.alu1 d a (sextLow 16)
def execSextI32 (d a : Reg) (s : State) : Result := s.alu1 d a (sextLow 32)
def execZextN8 (d a : Reg) (s : State) : Result := s.alu1 d a (zextLow 8)
def execZextN16 (d a : Reg) (s : State) : Result := s.alu1 d a (zextLow 16)
def execZextN32 (d a : Reg) (s : State) : Result := s.alu1 d a (zextLow 32)

/-! ## Immediates (04 R101, R102) -/

def execAddi (d a : Reg) (imm : BitVec 22) (s : State) : Result := s.alu1 d a fun x => x + imm.signExtend 64
def execLi (d : Reg) (imm : BitVec 22) (s : State) : Result :=
  s.issueHead [.dst d] [] false fun s => .next (s.writeW d (imm.signExtend 64))
def execLiG (d : Reg) (imm : BitVec 32) (s : State) : Result :=
  s.issueHead [.dst d] [] false fun s => .next (s.writeW d (imm.signExtend 64))
def execLih (d a : Reg) (imm : BitVec 32) (s : State) : Result := s.alu1 d a fun x => imm ++ x.setWidth 32
/-- A field that reaches past bit 63 is an illegal encoding (04 R102). -/
def execBfx (d a : Reg) (sx : Bool) (pos len1 : BitVec 6) (s : State) : Result :=
  s.issueHead [.dst d, .src a] [] false (extra := decide (pos.toNat + len1.toNat ≤ 63)) fun s =>
    let (x, s) := s.readW a
    .next (s.writeW d (fieldOut x sx pos.toNat (len1.toNat + 1)))
/-- Reads d through the third port (04 R102). -/
def execBfi (d a : Reg) (pos len1 : BitVec 6) (s : State) : Result :=
  s.issueHead [(Opd.acc d).noPort, .src a] [] false (extra := decide (pos.toNat + len1.toNat ≤ 63)) fun s =>
    let (x, s) := s.readW a
    .next (s.writeW d (fieldIn (s.regW d.toNat) x pos.toNat (len1.toNat + 1)))

/-! ## Compares (04 R103) -/

def execCmp (k : BitVec 2) (cc : BitVec 3) (a b : Reg) (s : State) : Result :=
  s.issueHead [.src a, .src b] [] false fun s =>
    let (x, s) := s.readW a
    let (y, s) := s.readW b
    .next (s.compare (subFlags x y).2 k cc)
def execCmpi (k : BitVec 2) (cc : BitVec 3) (a : Reg) (imm : BitVec 22) (s : State) : Result :=
  s.issueHead [.src a] [] false fun s =>
    let (x, s) := s.readW a
    .next (s.compare (subFlags x (imm.signExtend 64)).2 k cc)
/-- Any condition but `.EQ` and `.NE` is an illegal encoding. -/
def execTst (k : BitVec 2) (cc : BitVec 3) (a b : Reg) (s : State) : Result :=
  s.issueHead [.src a, .src b] [] false (extra := decide (cc.toNat ≤ 1)) fun s =>
    let (x, s) := s.readW a
    let (y, s) := s.readW b
    .next (s.compare (tstFlags x y) k cc)

end Sys2Proof.Machine
end

