-- ==== Sys2Proof/Machine/Special.lean ====
section
/-! DEFINITION. The special functions of R126 and R127 on exact values. Each is computed in fixed point to some hundreds of
bits; an inexact value carries a one below its lowest bit, so that the single rounding sees on which side of every
rounding boundary it lies (log entry 19). -/

namespace Sys2Proof.Machine

namespace Special

/-- Σ (−1)^k / ((2k+1) n^(2k+1)) in fixed point; `pw` is the power of the next term. -/
def atanSeries (n : Nat) : Nat → Nat → Nat → Int
  | 0, _, _ => 0
  | fuel + 1, k, pw =>
    if pw = 0 then 0
    else (if k % 2 = 0 then ((pw / (2 * k + 1) : Nat) : Int) else -((pw / (2 * k + 1) : Nat) : Int))
      + atanSeries n fuel (k + 1) (pw / (n * n))

/-- Half of π with p fraction bits. -/
def halfPi (p : Nat) : Int :=
  let q := p + 32
  (8 * atanSeries 5 q 0 (2 ^ q / 5) - 2 * atanSeries 239 q 0 (2 ^ q / 239)) / 2 ^ 32

/-- Σ z^(2k+1) / (2k+1) in fixed point: the inverse hyperbolic tangent. -/
def atanhSeries (p : Nat) (zz : Int) : Nat → Nat → Int → Int
  | 0, _, _ => 0
  | fuel + 1, k, t => if t = 0 then 0 else t / (2 * k + 1) + atanhSeries p zz fuel (k + 1) ((t * zz).tdiv (2 ^ p))

/-- 2 atanh z for z with p fraction bits. -/
def twoAtanh (p : Nat) (z : Int) : Int := 2 * atanhSeries p (z * z / 2 ^ p) p 0 z

/-- ln 2 with p fraction bits. -/
def ln2 (p : Nat) : Int := twoAtanh (p + 32) (2 ^ (p + 32) / 3) / 2 ^ 32

/-- Σ x^k / k! from a term on. -/
def expSeries (p : Nat) (x : Int) : Nat → Nat → Int → Int
  | 0, _, _ => 0
  | fuel + 1, k, t => if t = 0 then 0 else t + expSeries p x fuel (k + 1) (t * x / 2 ^ p / (k + 1))

/-- Σ of the alternating series of sine (from k = 1) and cosine (from k = 0). -/
def trigSeries (p : Nat) (xx : Int) : Nat → Nat → Int → Int
  | 0, _, _ => 0
  | fuel + 1, k, t => if t = 0 then 0 else t + trigSeries p xx fuel (k + 2) ((-((t * xx).tdiv (2 ^ p))).tdiv ((k + 1) * (k + 2)))

/-- A finite non-zero value with p fraction bits. -/
def toFixed (p : Nat) (m : Nat) (e : Int) : Nat := shiftBy m (e + p)

/-- An inexact value with p fraction bits. -/
def inexactFixed (p : Nat) (v : Int) : Val := .fin (decide (v < 0)) (2 * v.natAbs + 1) (-(p : Int) - 1)

/-- A value just below or just above m × 2^e in magnitude. -/
def near (neg : Bool) (m : Nat) (e : Int) (above : Bool) : Val :=
  .fin neg (if above then m <<< 200 + 1 else m <<< 200 - 1) (e - 200)

/-- A positive result beyond every format: overflow or tiny. -/
def beyond (neg large : Bool) : Val := .fin neg 1 (if large then 20000 else -20000)

/-- e^y for y with p fraction bits. -/
def expFixed (p : Nat) (y : Int) : Val :=
  if y.natAbs / 2 ^ (p + 13) ≠ 0 then beyond false (decide (0 < y))
  else
    let k := y / ln2 p
    let t := expSeries p (y - k * ln2 p) p 0 (2 ^ p)
    .fin false (2 * t.natAbs + 1) (k - p - 1)

/-- e^x for finite x. -/
def exp (neg : Bool) (m : Nat) (e : Int) : Val :=
  let top := e + bitLen m
  if m = 0 then .fin false 1 0
  else if 13 < top then beyond false !neg
  else if top < -100 then near false 1 0 !neg
  else
    let x : Int := toFixed 400 m e
    expFixed 400 (if neg then -x else x)

/-- ln of a positive value, with p fraction bits. -/
def lnFixed (p : Nat) (m : Nat) (e : Int) : Int :=
  let n := bitLen m
  let y : Int := m <<< (p - n)
  let (y, k) := if 4 * m < 3 * 2 ^ n then (2 * y, e + n - 1) else (y, e + (n : Int))
  let one : Int := 2 ^ p
  k * ln2 p + twoAtanh p (((y - one) * one).tdiv (y + one))

/-- ln of a positive value. -/
def ln (m : Nat) (e : Int) : Val :=
  if 0 ≤ e + (bitLen m : Int) - 1 ∧ m = 2 ^ (bitLen m - 1) ∧ e + (bitLen m : Int) - 1 = 0 then .fin false 0 0
  else inexactFixed 600 (lnFixed 600 m e)

/-- The quadrant of a positive value and the sine and cosine of what is left of it, with their fraction bits. -/
def sinCos (m : Nat) (e : Int) : Int × Int × Int × Nat :=
  let p := 400 + (e + bitLen m).toNat
  let h := halfPi p
  let x : Int := toFixed p m e
  let r := x % h
  (x / h, trigSeries p (r * r / 2 ^ p) p 1 r, trigSeries p (r * r / 2 ^ p) p 0 (2 ^ p), p)

/-- sin x for finite x. -/
def sin (neg : Bool) (m : Nat) (e : Int) : Val :=
  if m = 0 then .fin neg 0 0
  else if e + bitLen m < -100 then near neg m e false
  else
    let (q, sn, co, p) := sinCos m e
    let v := match (q % 4).toNat with | 0 => sn | 1 => co | 2 => -sn | _ => -co
    inexactFixed p (if neg then -v else v)

/-- cos x for finite x. -/
def cos (m : Nat) (e : Int) : Val :=
  if m = 0 then .fin false 1 0
  else if e + bitLen m < -100 then near false 1 0 false
  else
    let (q, sn, co, p) := sinCos m e
    inexactFixed p (match (q % 4).toNat with | 0 => co | 1 => -sn | 2 => -co | _ => sn)

/-- tanh x for finite x. -/
def tanh (neg : Bool) (m : Nat) (e : Int) : Val :=
  if m = 0 then .fin neg 0 0
  else if e + bitLen m < -100 then near neg m e false
  else if 9 < e + (bitLen m : Int) then near neg 1 0 false
  else
    let one : Nat := 2 ^ 400
    let t := match expFixed 400 (-((2 * toFixed 400 m e : Nat) : Int)) with
      | .fin _ a b => shiftBy a (b + 400)
      | _ => 0
    let v := ((one - t) * one) / (one + t)
    inexactFixed 400 (if neg then -((if v < one then v else one - 1 : Nat) : Int) else ((if v < one then v else one - 1 : Nat) : Int))

/-- 1/√x for a positive value. -/
def rsqrt (m : Nat) (e : Int) : Val :=
  let (m, e) := if e % 2 = 0 then (m, e) else (2 * m, e - 1)
  let s := bitLen m + 200
  let r := Val.isqrt (2 ^ (2 * s) / m) (s + 1) 0
  .fin false (2 * r + (if r * r * m = 2 ^ (2 * s) then 0 else 1)) (-s - e / 2 - 1)

/-- An odd number and the exponent that goes with it. -/
def oddPart : Nat → Nat → Int → Nat × Int
  | 0, m, e => (m, e)
  | fuel + 1, m, e => if m % 2 = 0 ∧ m ≠ 0 then oddPart fuel (m / 2) (e + 1) else (m, e)

/-- The 2^k-th root of m × 2^e, m odd, when it is exact. -/
def exactRoot : Nat → Nat → Int → Option (Nat × Int)
  | 0, m, e => some (m, e)
  | k + 1, m, e =>
    let r := Val.isqrt m ((bitLen m + 1) / 2) 0
    if r * r = m ∧ e % 2 = 0 then exactRoot k r (e / 2) else none

/-- a^b for a positive a = m × 2^e and b = (−1)^neg × n × 2^f, both with odd m and n. -/
def power (m : Nat) (e : Int) (neg : Bool) (n : Nat) (f : Int) : Val :=
  let sn : Int := if neg then -(n : Int) else n
  let approx : Val :=
    let p := 500 + (-(f + bitLen n)).toNat
    let y := lnFixed p m e * sn
    expFixed p (if 0 ≤ f then y * 2 ^ f.toNat else y / 2 ^ (-f).toNat)
  let root := if 0 ≤ f then some (m, e) else if 8 < -f then (if m = 1 then none else none) else exactRoot (-f).toNat m e
  match root with
  | none => approx
  | some (m, e) =>
    let b : Int := if 0 ≤ f then sn * 2 ^ f.toNat else sn
    if m = 1 then
      let x := e * b
      if 20000 < x then beyond false true else if x < -20000 then beyond false false else .fin false 1 x
    else if 0 ≤ b ∧ b ≤ 64 then .fin false (m ^ b.toNat) (e * b)
    else approx

end Special

namespace Val

def exp : Val → Val × FFlags
  | .nan => (.nan, 0)
  | .inf n => (if n then .fin false 0 0 else .inf false, 0)
  | .fin n m e => (Special.exp n m e, 0)

def ln : Val → Val × FFlags
  | .nan => (.nan, 0)
  | .inf n => if n then (.nan, fI) else (.inf false, 0)
  | .fin n m e => if m = 0 then (.inf true, fZ) else if n then (.nan, fI) else (Special.ln m e, 0)

def sin : Val → Val × FFlags
  | .nan => (.nan, 0)
  | .inf _ => (.nan, fI)
  | .fin n m e => (Special.sin n m e, 0)

def cos : Val → Val × FFlags
  | .nan => (.nan, 0)
  | .inf _ => (.nan, fI)
  | .fin _ m e => (Special.cos m e, 0)

def tanh : Val → Val × FFlags
  | .nan => (.nan, 0)
  | .inf n => (.fin n 1 0, 0)
  | .fin n m e => (Special.tanh n m e, 0)

def rsqrt : Val → Val × FFlags
  | .nan => (.nan, 0)
  | .inf n => if n then (.nan, fI) else (.fin false 0 0, 0)
  | .fin n m e => if m = 0 then (.inf n, fZ) else if n then (.nan, fI) else (Special.rsqrt m e, 0)

/-- Is a value 1 or −1? -/
def isUnit : Val → Bool
  | .fin _ m e => m != 0 && cmp (.fin false m e) (.fin false 1 0) == some .eq
  | _ => false

/-- a^b with the special operands of IEEE 754 and of R127. -/
def pow (a b : Val) : Val × FFlags :=
  let one : Val := .fin false 1 0
  if b.isZero || (a.isUnit && !a.isNeg) then (one, 0)
  else match a, b with
  | .nan, _ => (.nan, 0)
  | _, .nan => (.nan, 0)
  | a, .inf up =>
    if a.isZero then (if up then .inf false else .fin false 0 0, if up then fZ else 0)
    else if a.isUnit then (one, 0)
    else
      let large := match a with
        | .fin _ m e => cmp (.fin false m e) one == some .gt
        | _ => true
      (if large == !up then .inf false else .fin false 0 0, 0)
  | a, .fin nb m e =>
    let (n, f) := Special.oddPart (bitLen m) m e
    let odd := f == 0
    let neg := a.isNeg && odd
    match a with
    | .inf _ => (if nb then .fin neg 0 0 else .inf neg, 0)
    | .fin na ma ea =>
      if ma = 0 then (if nb then .inf neg else .fin neg 0 0, if nb then fZ else 0)
      else if na && decide (f < 0) then (.nan, fI)
      else
        let (x, y) := Special.oddPart (bitLen ma) ma ea
        match Special.power x y nb n f with
        | .fin _ m e => (.fin neg m e, 0)
        | v => (v, 0)
    | .nan => (.nan, 0)

end Val

end Sys2Proof.Machine
end

