-- ==== Sys2Proof/Machine/Series.lean ====
section
/-! DEFINITION. Elements of vector registers (05 R124), jet groups (06 R147 to R149), and how a floating vector operation
computes one group: its value as R126 and R127 give it and its higher coefficients by the series rules (06 R150 to
R162). At JO = 0 a group is one element. -/

namespace Sys2Proof.Machine

/-! ## Elements -/

/-- Element i of width w (05 R124). -/
def elemAt (w v i : Nat) : Nat := (v >>> (w * i)) % 2 ^ w

/-- Is the element at position i of width w enabled (05 R124)? Positions go on through the registers of a group. -/
def laneOn (vm : Byte) (w i : Nat) : Bool :=
  if w = 64 then vm.getLsbD (2 * i % 8) && vm.getLsbD ((2 * i + 1) % 8) else vm.getLsbD (w * i / 32 % 8)

/-- Elements laid out in order, and the mask of those that are written. -/
def layElems (w : Nat) : List (Option Nat) → Nat × Nat
  | [] => (0, 0)
  | x :: xs =>
    let (v, m) := layElems w xs
    match x with
    | none => (v <<< w, m <<< w)
    | some c => (v <<< w + c % 2 ^ w, m <<< w + (2 ^ w - 1))

/-- Run a function over positions, collecting flags; none as soon as one raises SUBNORMAL_OPERAND. -/
def overElems (f : Nat → Option (Option Nat × FFlags)) : List Nat → Option (List (Option Nat) × FFlags)
  | [] => some ([], 0)
  | i :: is =>
    match f i with
    | none => none
    | some (x, fx) =>
      match overElems f is with
      | none => none
      | some (xs, fs) => some (x :: xs, fx ||| fs)

/-! ## Groups -/

/-- Elements of a format in one register (05 R124). -/
def perReg (c : Nat) : Nat := 256 / fmtWidth c

/-- G: the smallest power of two not below JO + 1 (06 R147). -/
def groupSize (jo : Nat) : Nat := 2 ^ bitLen jo

/-- r: registers of a span (06 R147). -/
def spanOf (c jo : Nat) : Nat := if groupSize jo ≤ perReg c then 1 else groupSize jo / perReg c

/-- ng: groups in one operand (06 R147). -/
def groupsOf (c jo : Nat) : Nat := if groupSize jo ≤ perReg c then perReg c / groupSize jo else 1

/-- May a span of r registers start at a register (06 R148)? -/
def spanFits (r : Reg) (n : Nat) : Bool := n == 1 || (r.toNat % n == 0 && decide (r.toNat + n ≤ 16))

/-- The flags of coefficient k in `jf` (01 R36, 06 R152). -/
def jfFlags (k : Nat) (f : FFlags) : BitVec 128 :=
  (BitVec.ofNat 128 (8 * (f.getLsbD 4).toNat + f.toNat % 8)) <<< (4 * k)

/-- The flags of successive coefficients in `jf`. -/
def jfOf : Nat → List FFlags → BitVec 128
  | _, [] => 0
  | k, f :: fs => jfFlags k f ||| jfOf (k + 1) fs

/-- All flags of a list. -/
def anyFlags (fs : List FFlags) : FFlags := fs.foldl (· ||| ·) 0

/-- Flags coefficient by coefficient. -/
def joinFlags : List FFlags → List FFlags → List FFlags
  | [], gs => gs
  | fs, [] => fs
  | f :: fs, g :: gs => (f ||| g) :: joinFlags fs gs

/-- The operands of one group, each coefficient under R57 (06 R149). -/
def groupOperand (c : Nat) (sub : Bool) : List Nat → Option (List Val × List FFlags)
  | [] => some ([], [])
  | v :: vs =>
    match operandF c sub v, groupOperand c sub vs with
    | some (x, f), some (xs, fs) => some (x :: xs, f :: fs)
    | _, _ => none

/-! ## Steps (06 R150, R151) -/

namespace Series

/-- One step: exact, rounded once to FP32, its flags gathered. -/
def rm (r : Rnd) (x : Val × FFlags) : StateM FFlags Val := fun f =>
  let (c, g) := roundF cFP32 r x.1
  (unpackF cFP32 c, f ||| x.2 ||| g)

def mul (r : Rnd) (a b : Val) : StateM FFlags Val := rm r (Val.mul a b)
def div (r : Rnd) (a b : Val) : StateM FFlags Val := rm r (Val.div a b)
/-- rmode(a × b + s), fused. -/
def fma (r : Rnd) (a b s : Val) : StateM FFlags Val := rm r (Val.fma r.mode a b s)
/-- rmode(s − a × b), fused. -/
def fms (r : Rnd) (s a b : Val) : StateM FFlags Val := rm r (Val.fma r.mode a.neg b s)

def zero : Val := .fin false 0 0
def int (i : Nat) : Val := .fin false i 0

/-- Coefficient k of a series. -/
def at_ (l : List Val) (k : Nat) : Val := l.getD k zero

/-- lo, …, hi − 1. -/
def upTo (lo hi : Nat) : List Nat := (List.range (hi - lo)).map (lo + ·)

/-- Coefficients k, …, k + n − 1 of a series, each computed from the state so far; the flags of each. -/
def loop {σ : Type} (f : Nat → σ → StateM FFlags σ) : Nat → Nat → σ → σ × List FFlags
  | 0, _, z => (z, [])
  | n + 1, k, z =>
    let (z, g) := f k z 0
    let (z, gs) := loop f n (k + 1) z
    (z, g :: gs)

/-- A series grown by one coefficient at a time. -/
def grow (f : Nat → List Val → StateM FFlags Val) (k : Nat) (z : List Val) : StateM FFlags (List Val) := do
  return z ++ [← f k z]

/-- The Cauchy sums of `VMUL`, `VFMA` and `VFMS` (06 R154). -/
def cauchy (r : Nat → Rnd) (a b : List Val) (d : Option (List Val)) (minus : Bool) (k : Nat) : StateM FFlags Val := do
  let s ← match d with
    | none => mul (r k) (at_ a 0) (at_ b k)
    | some d => pure (at_ d k)
  (upTo (if d.isNone then 1 else 0) (k + 1)).foldlM (fun s i =>
    if minus then fms (r k) s (at_ a i) (at_ b (k - i)) else fma (r k) (at_ a i) (at_ b (k - i)) s) s

/-- `VDIV` (06 R155). -/
def quotient (r : Nat → Rnd) (a b : List Val) (k : Nat) (z : List Val) : StateM FFlags Val := do
  let s ← (upTo 0 k).foldlM (fun s i => fms (r k) s (at_ z i) (at_ b (k - i))) (at_ a k)
  div (r k) s (at_ b 0)

/-- `VSQRT` (06 R156). -/
def root (r : Nat → Rnd) (a : List Val) (t : Val) (k : Nat) (z : List Val) : StateM FFlags Val := do
  let s ← (upTo 1 k).foldlM (fun s i => fms (r k) s (at_ z i) (at_ z (k - i))) (at_ a k)
  div (r k) s t

/-- The power rule (06 R156). -/
def power (r : Nat → Rnd) (a : List Val) (p : Val) (k : Nat) (z : List Val) : StateM FFlags Val := do
  let s ← (upTo 0 k).foldlM (fun s i => do
    let q ← fma (r k) p (int (k - i)) (.fin true i 0)
    let t ← mul (r k) q (at_ a (k - i))
    fma (r k) t (at_ z i) s) zero
  let u ← mul (r k) (int k) (at_ a 0)
  div (r k) s u

/-- The exp recurrence E(m) (06 R157). -/
def expStep (r : Nat → Rnd) (m : List Val) (k : Nat) (z : List Val) : StateM FFlags Val := do
  let s ← (upTo 1 (k + 1)).foldlM (fun s i => do
    let t ← mul (r k) (int i) (at_ m i)
    fma (r k) t (at_ z (k - i)) s) zero
  div (r k) s (int k)

/-- `VLOG` (06 R157). -/
def logStep (r : Nat → Rnd) (a : List Val) (k : Nat) (z : List Val) : StateM FFlags Val := do
  let s ← (upTo 1 k).foldlM (fun s i => do
    let t ← mul (r k) (int i) (at_ z i)
    fma (r k) t (at_ a (k - i)) s) zero
  let v ← div (r k) s (int k)
  let u ← rm (r k) (Val.add (r k).mode (at_ a k) v.neg)
  div (r k) u (at_ a 0)

/-- The pair of sine and cosine (06 R158). -/
def sinCosStep (r : Nat → Rnd) (a : List Val) (k : Nat) (z : List Val × List Val) :
    StateM FFlags (List Val × List Val) := do
  let (s, c) ← (upTo 1 (k + 1)).foldlM (fun (s, c) i => do
    let t ← mul (r k) (int i) (at_ a i)
    let s ← fma (r k) t (at_ z.2 (k - i)) s
    let c ← fma (r k) t (at_ z.1 (k - i)) c
    return (s, c)) (zero, zero)
  let sn ← div (r k) s (int k)
  let co ← div (r k) c.neg (int k)
  return (z.1 ++ [sn], z.2 ++ [co])

/-- `VTANH` with its auxiliary series u (06 R159). -/
def tanhStep (r : Nat → Rnd) (n : Nat) (a : List Val) (k : Nat) (z : List Val × List Val) :
    StateM FFlags (List Val × List Val) := do
  let s ← (upTo 1 (k + 1)).foldlM (fun s i => do
    let t ← mul (r k) (int i) (at_ a i)
    fma (r k) t (at_ z.2 (k - i)) s) zero
  let zk ← div (r k) s (int k)
  let zs := z.1 ++ [zk]
  if k < n then
    let s ← (upTo 0 (k + 1)).foldlM (fun s i => fma (r k) (at_ zs i) (at_ zs (k - i)) s) zero
    return (zs, z.2 ++ [s.neg])
  else return (zs, z.2)

end Series

/-! ## Operations -/

/-- The floating operations of majors 0x30 to 0x32 and 0x38. -/
inductive VecOp where
  | add | sub | mul | div | min | max | pow | fma | fms | sqrt | rsq | exp | log | sin | cos | tanh | abs | neg
deriving DecidableEq, Repr

namespace VecOp

/-- Does an operation round its result (02 R50)? -/
def rounds : VecOp → Bool
  | .min | .max | .abs | .neg => false
  | _ => true

/-- The exact value at JO = 0 with the flags of an invalid operation or a division by zero (05 R126, R127). -/
def value (op : VecOp) (mode : Nat) (a b d : Val) : Val × FFlags :=
  match op with
  | .add => Val.add mode a b
  | .sub => Val.add mode a b.neg
  | .mul => Val.mul a b
  | .div => Val.div a b
  | .min => (Val.pickMin false a b, 0)
  | .max => (Val.pickMin true a b, 0)
  | .pow => Val.pow a b
  | .fma => Val.fma mode a b d
  | .fms => Val.fma mode a.neg b d
  | .sqrt => Val.sqrt a
  | .rsq => Val.rsqrt a
  | .exp => Val.exp a
  | .log => Val.ln a
  | .sin => Val.sin a
  | .cos => Val.cos a
  | .tanh => Val.tanh a
  | .abs => (a.abs, 0)
  | .neg => (a.neg, 0)

/-- Does it read b? -/
def twoSources (op : VecOp) : Bool :=
  match op with
  | .add | .sub | .mul | .div | .min | .max | .pow | .fma | .fms => true
  | _ => false

/-- Does it read d? -/
def accumulates (op : VecOp) : Bool := op == .fma || op == .fms

/-- Its latency at JO 8 to 15 and at JO 16 to 31 (06 R166). -/
def latency (op : VecOp) : Nat × Nat :=
  match op with
  | .mul | .fma | .fms => (18, 34)
  | .div | .sqrt | .rsq => (26, 50)
  | .exp | .log | .sin | .cos | .tanh => (30, 58)
  | .pow => (48, 92)
  | _ => (10, 14)

end VecOp

namespace Series

/-- `VABS` of a group (06 R161). -/
def absGroup (a : List Val) : List Val :=
  match a.find? fun x => !x.isZero with
  | some x => if x.isNan then a.map Val.abs else if x.isNeg then a.map Val.neg else a
  | none => a.map Val.abs

/-- At the first index at which two groups differ, is a's coefficient the one that `VMIN` (or `VMAX`) delivers; a NaN
loses to a number (06 R162)? -/
def firstWins (max : Bool) : List Val → List Val → Bool
  | x :: xs, y :: ys =>
    if x.isNan && y.isNan then firstWins max xs ys
    else if x.isNan then false
    else if y.isNan then true
    else match Val.cmp x y with
      | some .lt => !max
      | some .gt => max
      | _ => if x.isNeg == y.isNeg then firstWins max xs ys else x.isNeg == !max
  | _, _ => true

/-- `VMIN` and `VMAX` of groups (06 R162). -/
def pickGroup (max : Bool) (a b : List Val) : List Val :=
  match (at_ a 0).isNan, (at_ b 0).isNan with
  | true, true => a.map fun _ => .nan
  | true, false => b
  | false, true => a
  | false, false => if firstWins max a b then a else b

/-- zf_0, …, zf_n of an operation that rounds, with the flags of each coefficient; n > 0. `zf0` makes the rounding of
the value to FP32. -/
def coefficients (op : VecOp) (n : Nat) (r : Nat → Rnd) (a b d : List Val) : List Val × List FFlags :=
  let first (op : VecOp) (x y : Val) : Val × FFlags := rm (r 0) (op.value (r 0).mode x y zero) 0
  let withFirst (z : Val × FFlags) (f : Nat → List Val → StateM FFlags Val) : List Val × List FFlags :=
    let (zs, fs) := loop (grow f) n 1 [z.1]
    (zs, z.2 :: fs)
  let plain (f : Nat → StateM FFlags Val) : List Val × List FFlags := withFirst (zero, 0) fun k _ => f k
  let z0 := first op (at_ a 0) (at_ b 0)
  match op with
  | .add => plain fun k => rm (r k) (Val.add (r k).mode (at_ a k) (at_ b k))
  | .sub => plain fun k => rm (r k) (Val.add (r k).mode (at_ a k) (at_ b k).neg)
  | .mul => plain (cauchy r a b none false)
  | .fma => plain (cauchy r a b (some d) false)
  | .fms => plain (cauchy r a b (some d) true)
  | .div => withFirst z0 (quotient r a b)
  | .sqrt =>
    let (t, ft) := mul (r 1) (int 2) z0.1 0
    let (zs, fs) := withFirst z0 (root r a t)
    (zs, joinFlags [0, ft] fs)
  | .rsq => withFirst z0 (power r a (.fin true 1 (-1)))
  | .exp => withFirst z0 (expStep r a)
  | .log => withFirst (zero, 0) (logStep r a)
  | .sin | .cos =>
    let sn := first .sin (at_ a 0) zero
    let co := first .cos (at_ a 0) zero
    let ((ss, cs), fs) := loop (sinCosStep r a) n 1 ([sn.1], [co.1])
    (if op == .sin then ss else cs, (sn.2 ||| co.2) :: fs)
  | .tanh =>
    let (u, fu) := fms (r 1) (int 1) z0.1 z0.1 0
    let ((zs, _), fs) := loop (tanhStep r n a) n 1 ([z0.1], [u])
    (zs, joinFlags [z0.2, fu] (0 :: fs))
  | .pow =>
    if (b.drop 1).all Val.isZero && !(at_ a 0).isZero then withFirst z0 (power r a (at_ b 0))
    else
      let (ls, fl) := withFirst (first .log (at_ a 0) zero) (logStep r a)
      let (ms, fm) := withFirst (zero, 0) fun k _ => cauchy r b ls none false k
      let (zs, fz) := withFirst z0 (expStep r ms)
      (zs, joinFlags fl (joinFlags fm fz))
  | .min | .max | .abs | .neg => (a, [])

/-- One group of a floating operation: the codes of its coefficients 0 to n in the format, and the flags of each
(06 R150 to R162). -/
def group (op : VecOp) (c n : Nat) (r : Nat → Rnd) (a b d : List Val) : List Nat × List FFlags :=
  match op with
  | .abs => ((absGroup a).map (exactly c), [])
  | .neg => ((a.map Val.neg).map (exactly c), [])
  | .min => ((pickGroup false a b).map (exactly c), [])
  | .max => ((pickGroup true a b).map (exactly c), [])
  | op =>
    let (v, fv) := op.value (r 0).mode (at_ a 0) (at_ b 0) (at_ d 0)
    let (z0, f0) := roundF c (r 0) v
    if n = 0 then ([z0], [fv ||| f0])
    else
      let (zf, fs) := coefficients op n r a b d
      let fin := (upTo 1 (n + 1)).map fun k => if c = cFP32 then (exactly c (at_ zf k), 0) else roundF c (r k) (at_ zf k)
      (z0 :: fin.map (·.1), joinFlags ((fv ||| f0) :: fin.map (·.2)) fs)

end Series

end Sys2Proof.Machine
end

