-- ==== Sys2Proof/Machine/Vector.lean ====
section
/-! DEFINITION. Vector instructions (05 R124 to R135), at every jet order (06 R145 to R166). -/

namespace Sys2Proof.Machine

/-- An operand that an instruction treats as a jet: r registers, of which more than one take no port and are exempt from
parity (06 R148). -/
def Opd.jet (o : Opd) (r : Nat) : Opd :=
  if r = 1 then o else { o with n := r, port := false, use := if o.use == .src then .third else o.use }

/-- Writes of a value and mask that go through r registers. -/
def vecWrites (d : Reg) (r v m : Nat) : List WinWrite :=
  ((List.range r).map fun i => (i, v >>> (256 * i) % 2 ^ 256, m >>> (256 * i) % 2 ^ 256)).filterMap fun (i, v, m) =>
    if m = 0 ∧ d ≠ 31 then none else some (.vec (d.toNat + i) (.ofNat 256 v) (.ofNat 256 m))

/-- What the groups of an operand yield: value, mask, flags of `sw` and of `jf`. -/
structure GroupsOut where
  value : Nat
  mask : Nat
  flags : FFlags
  jf : BitVec 128
deriving DecidableEq, Repr

/-- Compute every enabled group: `f` is given the position of its c_0 and answers its coefficients and their flags; the
elements above them are written as zero (06 R147, R149). -/
def overGroups (c jo : Nat) (vm : Byte) (f : Nat → Option (List Nat × List FFlags)) : List Nat → Option GroupsOut
  | [] => some ⟨0, 0, 0, 0⟩
  | g :: gs =>
    let size := groupSize jo
    let w := fmtWidth c
    match overGroups c jo vm f gs with
    | none => none
    | some rest =>
      let up : Nat × Nat := (rest.value <<< (w * size), rest.mask <<< (w * size))
      if laneOn vm w (g * size % perReg c) then
        match f (g * size) with
        | none => none
        | some (codes, fs) =>
          let (v, m) := layElems w ((List.range size).map fun k => some (codes.getD k 0))
          some ⟨up.1 + v, up.2 + m, anyFlags fs ||| rest.flags, jfOf 0 fs ||| rest.jf⟩
      else some { rest with value := up.1, mask := up.2 }

namespace State

/-- Read r registers as one number (06 R147); a port stands for one. -/
def readSpan (s : State) (a : Reg) (r : Nat) : Nat × State :=
  if r = 1 then
    let (v, s) := s.readV a
    (v.toNat, s)
  else ((List.range r).foldr (fun i n => n * 2 ^ 256 + (s.regV (a.toNat + i)).toNat) 0, s)

/-- Make the writes of an instruction that runs long at JO ≥ 8 (06 R166); `s₀` is the state to trap in. -/
def deliver (s₀ s : State) (jo : Nat) (la : BitVec 4) (lat : Nat × Nat) (ws : List WinWrite) : Result :=
  if jo < 8 then .next (ws.foldl applyWrite s)
  else if s₀.windowsFull then s₀.raise cWINDOW
  else .next (s.longResult la (if jo < 16 then lat.1 else lat.2) ws)

/-- A floating operation of majors 0x30 to 0x32 on every enabled group (05 R126, 06 R150). -/
def floatVec (s : State) (op : VecOp) (fmt : BitVec 3) (d a b : Reg) (la : BitVec 4) : Result :=
  let c := fmt3 fmt
  let ok := decide (c ≤ 10)
  let jo := swJO s.rdSw
  let r := if ok || s.me.emulate.isSome then spanOf c jo else 1
  let os := (if op.accumulates then Opd.vacc d else Opd.vdst d) :: Opd.vsrc a ::
    (if op.twoSources then [Opd.vsrc b] else [])
  s.issueHead ((os.map fun o => o.jet r) ++ if op.rounds then drawOpd s.rdSw else []) [(.ofNat 5 c, ok)] false
      (extra := os.all fun o => spanFits o.r r) fun s₁ =>
    let (x, s₂) := s₁.readSpan a r
    let (y, s₂) := if op.twoSources then s₂.readSpan b r else (0, s₂)
    let z := if op.accumulates then (s₁.readSpan d r).1 else 0
    let sw := s₁.rdSw
    let coefs (v base : Nat) : List Nat := (List.range (jo + 1)).map fun k => elemAt (fmtWidth c) v (base + k)
    let one (base : Nat) : Option (List Nat × List FFlags) :=
      match groupOperand c (swSUB sw) (coefs x base),
          (if op.twoSources then groupOperand c (swSUB sw) (coefs y base) else some ([], [])),
          (if op.accumulates then groupOperand c (swSUB sw) (coefs z base) else some ([], [])) with
      | some (a, fa), some (b, fb), some (d, fd) =>
        let (codes, fs) := Series.group op c jo (fun k => s₁.rnd (base + k)) a b d
        some (codes, joinFlags (joinFlags fa fb) (joinFlags fd fs))
      | _, _, _ => none
    match overGroups c jo (swVM sw) one (List.range (groupsOf c jo)) with
    | none => s.raise cSUBNORMAL
    | some o => s.deliver s₂ jo la op.latency (vecWrites d r o.value o.mask ++ [.swOr (swFlags o.flags), .jfOr o.jf])

/-- An integer or bitwise operation on the enabled elements of width w (05 R129). -/
def intVec (s : State) (w : Nat) (d a b : Reg) (f : Nat → Nat → Nat) : Result :=
  s.issueHead [.vdst d, .vsrc a, .vsrc b] [] false fun s =>
    let (x, s) := s.readV a
    let (y, s) := s.readV b
    let (v, m) := layElems w ((List.range (256 / w)).map fun i =>
      if laneOn (swVM s.rdSw) w i then some (f (elemAt w x.toNat i) (elemAt w y.toNat i)) else none)
    .next (s.writeV d (.ofNat 256 v) (.ofNat 256 m))

end State

/-- Bits of an integer element size (03 R74). -/
def sizeBits (size : BitVec 2) : Nat := 8 * 2 ^ size.toNat

/-! ## Majors 0x30 to 0x32 (05 R126, R127) -/

def execVadd (fmt : BitVec 3) (d a b : Reg) (s : State) : Result := s.floatVec .add fmt d a b 0
def execVaddL (fmt : BitVec 3) (d a b : Reg) (la : BitVec 4) (s : State) : Result := s.floatVec .add fmt d a b la
def execVsub (fmt : BitVec 3) (d a b : Reg) (s : State) : Result := s.floatVec .sub fmt d a b 0
def execVsubL (fmt : BitVec 3) (d a b : Reg) (la : BitVec 4) (s : State) : Result := s.floatVec .sub fmt d a b la
def execVmul (fmt : BitVec 3) (d a b : Reg) (s : State) : Result := s.floatVec .mul fmt d a b 0
def execVmulL (fmt : BitVec 3) (d a b : Reg) (la : BitVec 4) (s : State) : Result := s.floatVec .mul fmt d a b la
def execVdiv (fmt : BitVec 3) (d a b : Reg) (s : State) : Result := s.floatVec .div fmt d a b 0
def execVdivL (fmt : BitVec 3) (d a b : Reg) (la : BitVec 4) (s : State) : Result := s.floatVec .div fmt d a b la
def execVmin (fmt : BitVec 3) (d a b : Reg) (s : State) : Result := s.floatVec .min fmt d a b 0
def execVminL (fmt : BitVec 3) (d a b : Reg) (la : BitVec 4) (s : State) : Result := s.floatVec .min fmt d a b la
def execVmax (fmt : BitVec 3) (d a b : Reg) (s : State) : Result := s.floatVec .max fmt d a b 0
def execVmaxL (fmt : BitVec 3) (d a b : Reg) (la : BitVec 4) (s : State) : Result := s.floatVec .max fmt d a b la
def execVpow (fmt : BitVec 3) (d a b : Reg) (s : State) : Result := s.floatVec .pow fmt d a b 0
def execVpowL (fmt : BitVec 3) (d a b : Reg) (la : BitVec 4) (s : State) : Result := s.floatVec .pow fmt d a b la
def execVfma (fmt : BitVec 3) (d a b : Reg) (s : State) : Result := s.floatVec .fma fmt d a b 0
def execVfmaL (fmt : BitVec 3) (d a b : Reg) (la : BitVec 4) (s : State) : Result := s.floatVec .fma fmt d a b la
def execVfms (fmt : BitVec 3) (d a b : Reg) (s : State) : Result := s.floatVec .fms fmt d a b 0
def execVfmsL (fmt : BitVec 3) (d a b : Reg) (la : BitVec 4) (s : State) : Result := s.floatVec .fms fmt d a b la
def execVsqrt (fmt : BitVec 3) (d a : Reg) (s : State) : Result := s.floatVec .sqrt fmt d a 0 0
def execVsqrtL (fmt : BitVec 3) (d a : Reg) (la : BitVec 4) (s : State) : Result := s.floatVec .sqrt fmt d a 0 la
def execVrsq (fmt : BitVec 3) (d a : Reg) (s : State) : Result := s.floatVec .rsq fmt d a 0 0
def execVrsqL (fmt : BitVec 3) (d a : Reg) (la : BitVec 4) (s : State) : Result := s.floatVec .rsq fmt d a 0 la
def execVexp (fmt : BitVec 3) (d a : Reg) (s : State) : Result := s.floatVec .exp fmt d a 0 0
def execVexpL (fmt : BitVec 3) (d a : Reg) (la : BitVec 4) (s : State) : Result := s.floatVec .exp fmt d a 0 la
def execVlog (fmt : BitVec 3) (d a : Reg) (s : State) : Result := s.floatVec .log fmt d a 0 0
def execVlogL (fmt : BitVec 3) (d a : Reg) (la : BitVec 4) (s : State) : Result := s.floatVec .log fmt d a 0 la
def execVsin (fmt : BitVec 3) (d a : Reg) (s : State) : Result := s.floatVec .sin fmt d a 0 0
def execVsinL (fmt : BitVec 3) (d a : Reg) (la : BitVec 4) (s : State) : Result := s.floatVec .sin fmt d a 0 la
def execVcos (fmt : BitVec 3) (d a : Reg) (s : State) : Result := s.floatVec .cos fmt d a 0 0
def execVcosL (fmt : BitVec 3) (d a : Reg) (la : BitVec 4) (s : State) : Result := s.floatVec .cos fmt d a 0 la
def execVtanh (fmt : BitVec 3) (d a : Reg) (s : State) : Result := s.floatVec .tanh fmt d a 0 0
def execVtanhL (fmt : BitVec 3) (d a : Reg) (la : BitVec 4) (s : State) : Result := s.floatVec .tanh fmt d a 0 la
def execVabs (fmt : BitVec 3) (d a : Reg) (s : State) : Result := s.floatVec .abs fmt d a 0 0
def execVabsL (fmt : BitVec 3) (d a : Reg) (la : BitVec 4) (s : State) : Result := s.floatVec .abs fmt d a 0 la
def execVneg (fmt : BitVec 3) (d a : Reg) (s : State) : Result := s.floatVec .neg fmt d a 0 0
def execVnegL (fmt : BitVec 3) (d a : Reg) (la : BitVec 4) (s : State) : Result := s.floatVec .neg fmt d a 0 la

/-! ## Compare (05 R128, 06 R163) -/

/-- All ones or all zeros in every element of a group; Z and C over the enabled groups; the skip count when all hold. -/
def execVcmp (k : BitVec 2) (cc : BitVec 3) (fmt : BitVec 2) (d a b : Reg) (s : State) : Result :=
  let c := fmt2 fmt
  let ok := decide (c ≤ 10)
  let jo := swJO s.rdSw
  let r := if ok || s.me.emulate.isSome then spanOf c jo else 1
  let os := [Opd.vdst d, Opd.vsrc a, Opd.vsrc b]
  s.issueHead (os.map fun o => o.jet r) [(.ofNat 5 c, ok)] false (extra := os.all fun o => spanFits o.r r) fun s₁ =>
    let (x, s₂) := s₁.readSpan a r
    let (y, s₂) := s₂.readSpan b r
    let sw := s₁.rdSw
    let w := fmtWidth c
    let coefs (v base : Nat) : List Nat := (List.range (jo + 1)).map fun k => elemAt w v (base + k)
    let one (base : Nat) : Option (List Nat × List FFlags) :=
      match groupOperand c (swSUB sw) (coefs x base), groupOperand c (swSUB sw) (coefs y base) with
      | some (a, fa), some (b, fb) =>
        let holds := (relFlags (Val.cmp (Series.at_ a 0) (Series.at_ b 0))).holds cc
        some (List.replicate (groupSize jo) (if holds then 2 ^ w - 1 else 0), joinFlags fa fb)
      | _, _ => none
    match overGroups c jo (swVM sw) one (List.range (groupsOf c jo)) with
    | none => s.raise cSUBNORMAL
    | some o =>
      let nzcv : Word := (if o.value = 0 then 4 else 0) ||| (if o.value = o.mask then 2 else 0)
      let skip : List WinWrite :=
        if k != 0 && o.value == o.mask then [.swSet 0x0000030000000000 (w64 (k.toNat * 2 ^ 40))] else []
      s.deliver s₂ jo 0 (10, 14)
        (vecWrites d r o.value o.mask ++ [.swOr (swFlags o.flags), .jfOr o.jf, .swSet 0xF nzcv] ++ skip)

/-! ## Integer and bitwise lanes (05 R129) -/

def execVand (d a b : Reg) (s : State) : Result := s.intVec 32 d a b fun x y => x &&& y
def execVor (d a b : Reg) (s : State) : Result := s.intVec 32 d a b fun x y => x ||| y
def execVxor (d a b : Reg) (s : State) : Result := s.intVec 32 d a b fun x y => x ^^^ y
def execVshl (size : BitVec 2) (_n : Bool) (d a b : Reg) (s : State) : Result :=
  s.intVec (sizeBits size) d a b fun x y => x <<< (y % sizeBits size)
def execVshr (size : BitVec 2) (n : Bool) (d a b : Reg) (s : State) : Result :=
  let w := sizeBits size
  s.intVec w d a b fun x y => if n then x >>> (y % w) else wrap w (signed w x / 2 ^ (y % w))
def execViadd (size : BitVec 2) (_n : Bool) (d a b : Reg) (s : State) : Result :=
  s.intVec (sizeBits size) d a b fun x y => x + y
def execVisub (size : BitVec 2) (_n : Bool) (d a b : Reg) (s : State) : Result :=
  s.intVec (sizeBits size) d a b fun x y => x + 2 ^ sizeBits size - y
def execVimul (size : BitVec 2) (_n : Bool) (d a b : Reg) (s : State) : Result :=
  s.intVec (sizeBits size) d a b fun x y => x * y

/-- Select by the mask in d, read through the third port. -/
def execVsel (d a b : Reg) (s : State) : Result :=
  s.issueHead [.vacc d, .vsrc a, .vsrc b] [] false fun s₁ =>
    let (x, s₂) := s₁.readV a
    let (y, s₂) := s₂.readV b
    let m := s₁.regV d.toNat
    .next (s₂.writeV d ((x &&& m) ||| (y &&& ~~~m)) (laneMask (swVM s₁.rdSw)))

/-! ## Dot products and reductions (05 R130 to R132) -/

/-- The exact sum of products and an addend: a NaN, or infinities of both signs, give NaN; the latter set FI whatever the
other terms hold (02 R42, 05 R130). -/
def exactSum (mode : Nat) (ps : List (Val × FFlags)) (d : Val) : Val × FFlags :=
  let vs := d :: ps.map (·.1)
  let f := anyFlags (ps.map (·.2))
  if vs.any Val.isNan then (.nan, if vs.contains (.inf true) && vs.contains (.inf false) then f ||| fI else f)
  else vs.tail.foldl (fun (a, f) x => let (v, g) := Val.add mode a x; (v, f ||| g)) (d, f)

/-- The operands of a list of elements; none for SUBNORMAL_OPERAND. -/
def operandsF (c : Nat) (sub : Bool) (vs : List Nat) : Option (List Val × FFlags) :=
  (groupOperand c sub vs).map fun (xs, fs) => (xs, anyFlags fs)

/-- Formats of `VDOT`: INT8, NAT8, FP16, BF16, E4M3, E5M2. -/
def vdotFormats : List Nat := [0, 4, 9, 10, 11, 12]

def execVdot (fmt : BitVec 5) (d a b : Reg) (s : State) : Result :=
  let c := fmt.toNat
  s.issueHead ([.vacc d, .vsrc a, .vsrc b] ++ if 8 ≤ c then drawOpd s.rdSw else []) [(fmt, vdotFormats.contains c)] false
      fun s₁ =>
    if decide (8 ≤ c) && swJO s₁.rdSw != 0 then s.raise cJET
    else
      let (x, s₂) := s₁.readV a
      let (y, s₂) := s₂.readV b
      let z := (s₁.regV d.toNat).toNat
      let sw := s₁.rdSw
      let w := fmtWidth c
      let n := 32 / w
      let elems (v : Vec) (i : Nat) : List Nat := (List.range n).map fun j => elemAt w v.toNat (n * i + j)
      let lane (i : Nat) : Option (Option Nat × FFlags) :=
        if !laneOn (swVM sw) 32 i then some (none, 0)
        else if c < 8 then
          let int (v : Nat) : Int := if c < 4 then signed w v else (v : Int)
          let sum := (List.zipWith (fun p q => int p * int q) (elems x i) (elems y i)).foldl (· + ·) (0 : Int)
          some (some (wrap 32 ((elemAt 32 z i : Nat) + sum)), 0)
        else match operandsF c (swSUB sw) (elems x i), operandsF c (swSUB sw) (elems y i),
            operandF cFP32 (swSUB sw) (elemAt 32 z i) with
          | some (xs, fx), some (ys, fy), some (zv, fz) =>
            let (v, fv) := exactSum (swRM sw) (List.zipWith Val.mul xs ys) zv
            let (r, fr) := roundF cFP32 (s₁.rnd i) v
            some (some r, fx ||| fy ||| fz ||| fv ||| fr)
          | _, _, _ => none
      match overElems lane (List.range 8) with
      | none => s.raise cSUBNORMAL
      | some (es, f) =>
        let (v, m) := layElems 32 es
        .next (((s₂.writeV d (.ofNat 256 v) (.ofNat 256 m)).orSw (swFlags f)).orJf (jfFlags 0 f))

/-- Combine adjacent results level by level (05 R131). -/
def treeLevel {α : Type} (f : α → α → α) : List α → List α
  | x :: y :: l => f x y :: treeLevel f l
  | l => l

/-- The fixed tree over a power of two of elements, at most 2^n. -/
def tree {α : Type} (f : α → α → α) : Nat → List α → List α
  | 0, l => l
  | n + 1, l => tree f n (treeLevel f l)

/-- The operations of `VRED`. -/
inductive RedOp where
  | add | min | max
deriving DecidableEq, Repr

/-- A node of the tree of integers, on values extended to 64 bits by N (05 R131). -/
def RedOp.int (op : RedOp) (x y : Int) : Int :=
  match op with
  | .add => wrap 64 (x + y)
  | .min => if x ≤ y then x else y
  | .max => if x ≤ y then y else x

/-- What stands for a disabled integer element. -/
def RedOp.intIdentity (op : RedOp) (c : Nat) : Int :=
  let n := fmtWidth c
  match op with
  | .add => 0
  | .min => if c < 4 then (2 ^ (n - 1) : Nat) - 1 else (2 ^ n : Nat) - 1
  | .max => if c < 4 then -(2 ^ (n - 1) : Nat) else 0

/-- What stands for a disabled floating element. -/
def RedOp.floatIdentity : RedOp → Val
  | .add => .fin true 0 0
  | .min => .inf false
  | .max => .inf true

/-- A node of the tree: a sum rounded to FP32, or a choice (05 R131). -/
def RedOp.node (op : RedOp) (r : Rnd) (x y : Val × FFlags) : Val × FFlags :=
  match op with
  | .add =>
    let (v, f) := Val.add r.mode x.1 y.1
    let (c, g) := roundF cFP32 r v
    (unpackF cFP32 c, x.2 ||| y.2 ||| f ||| g)
  | .min => (Val.pickMin false x.1 y.1, x.2 ||| y.2)
  | .max => (Val.pickMin true x.1 y.1, x.2 ||| y.2)

/-- `VRED` (05 R131, 06 R164). -/
def State.reduce (s : State) (op : RedOp) (fmt : BitVec 5) (d a : Reg) : Result :=
  let c := fmt.toNat
  s.issueHead ([.dst d, .vsrc a] ++ if 8 ≤ c ∧ op = .add then drawOpd s.rdSw else []) [(fmt, decide (c ≤ 10))] false fun s₁ =>
    if decide (8 ≤ c) && swJO s₁.rdSw != 0 then s.raise cJET
    else
      let (x, s₂) := s₁.readV a
      let sw := s₁.rdSw
      let w := fmtWidth c
      let on := laneOn (swVM sw) w
      if c < 8 then
        let vs := (List.range (256 / w)).map fun i =>
          if on i then (let v := elemAt w x.toNat i; if c < 4 then signed w v else (v : Int)) else op.intIdentity c
        .next (s₂.writeW d (.ofInt 64 ((tree op.int 5 vs).headD 0)))
      else
        let elem (i : Nat) : Option (Val × FFlags) :=
          if on i then operandF c (swSUB sw) (elemAt w x.toNat i) else some (op.floatIdentity, 0)
        let es := (List.range (256 / w)).map elem
        if es.any Option.isNone then s.raise cSUBNORMAL
        else
          let (v, f) := (tree (op.node (s₁.rnd 0)) 5 (es.filterMap id)).headD (.nan, 0)
          .next (((s₂.writeW d (w64 (exactly cFP32 v))).orSw (swFlags f)).orJf (jfFlags 0 f))

def execVredAdd (fmt : BitVec 5) (d a : Reg) (s : State) : Result := s.reduce .add fmt d a
def execVredMin (fmt : BitVec 5) (d a : Reg) (s : State) : Result := s.reduce .min fmt d a
def execVredMax (fmt : BitVec 5) (d a : Reg) (s : State) : Result := s.reduce .max fmt d a

/-- Formats of `VREDQ`. -/
def vredqFormats : List Nat := [8, 9, 10, 2, 6, 3, 7]

/-- Add one element of a queue word to the accumulator (05 R132). -/
def redqAdd (c : Nat) (sub : Bool) (r : Rnd) (acc : Word × FFlags) (v : Nat) : Word × FFlags :=
  if c < 8 then
    ((acc.1 + (if c < 4 then .ofInt 64 (signed (fmtWidth c) v) else w64 v)), acc.2)
  else match operandF c sub v with
    | some (x, fx) =>
      let (y, fy) := Val.add r.mode (unpackF cFP32 acc.1.toNat) x
      let (z, fz) := roundF cFP32 r y
      (w64 z, acc.2 ||| fx ||| fy ||| fz)
    | none => acc

/-- The accumulator that a step reads: all 64 bits, or an FP32 operand under R57; none raises SUBNORMAL_OPERAND. -/
def redqAcc (c : Nat) (sub : Bool) (acc : Word) : Option (Word × FFlags) :=
  if c < 8 then some (acc, 0)
  else (operandF cFP32 sub (acc.toNat % 2 ^ 32)).map fun (v, f) => (w64 (exactly cFP32 v), f)

/-- One step of the queue reduction (05 R132): the strand stays on the head until the count is reached. Its b field is
`qi`. It stands in no pair, not even behind a first head that a skip has annulled. -/
def execVredq (fmt : BitVec 5) (d a : Reg) (s : State) : Result :=
  let c := fmt.toNat
  s.issueHead ([(Opd.acc d).noPort, .src a] ++ if 8 ≤ c then drawOpd s.rdSw else []) [(fmt, vredqFormats.contains c)] false
      (extra := !s.issue.info.pair && !s.issue.info.second) fun s₁ =>
    match s₁.me.qi with
    | none => s.raise cUNBOUND
    | some q =>
      let (n, s₂) := s₁.readW a
      let rix := swRIX s₁.rdSw
      if 255 < n.toNat then s.raise cRANGE
      else if s.isSpeculative then s.sleep .lowestKey
      else if n.toNat ≤ rix then .next (s₂.setSw rixMask 0)
      else match popWords 1 s₂.core.mq[q] with
        | none => s.forfeit
        | some (ws, mq) =>
          let w := fmtWidth c
          let m := Nat.min (64 / w) (n.toNat - rix)
          let es := (List.range m).map fun j => elemAt w (ws.headD 0).toNat j
          let sw := s₁.rdSw
          match redqAcc c (swSUB sw) (s₁.regW d.toNat), !swSUB sw && es.any (isSubnormal c) with
          | none, _ => s.raise cSUBNORMAL
          | some _, true => s.raise cSUBNORMAL
          | some acc, false =>
            let s₃ : State := { s₂ with core := { s₂.core with mq := s₂.core.mq.set q mq } }
            let (v, f) := es.foldl (redqAdd c (swSUB sw) (s₁.rnd 0)) acc
            let done := decide (n.toNat ≤ rix + m)
            let t := (s₃.writeW d v).orSw (swFlags f)
            let t := t.setSw rixMask (if done then 0 else rixBits (rix + m))
            if done then .next t
            else
              let u := t.modMe fun x => { x with pc := s.issue.bpc, fold := s.issue.foldBefore, waitFrom := none }
              .next { u with issue := { u.issue with result := .partway } }

/-! ## Shuffle, splat, insert and extract (05 R134) -/

def execVshuf (size : BitVec 2) (d a b : Reg) (s : State) : Result :=
  let w := sizeBits size
  s.issueHead [.vdst d, .vsrc a, .vsrc b] [] false fun s =>
    let (x, s) := s.readV a
    let (y, s) := s.readV b
    let (v, m) := layElems w ((List.range (256 / w)).map fun i =>
      let k := elemAt w y.toNat i
      if laneOn (swVM s.rdSw) w i then some (if k < 256 / w then elemAt w x.toNat k else 0) else none)
    .next (s.writeV d (.ofNat 256 v) (.ofNat 256 m))

def execVsplat (size : BitVec 2) (d a : Reg) (s : State) : Result :=
  let w := sizeBits size
  s.issueHead [.vdst d, .src a] [] false fun s =>
    let (x, s) := s.readW a
    let (v, m) := layElems w ((List.range (256 / w)).map fun i =>
      if laneOn (swVM s.rdSw) w i then some x.toNat else none)
    .next (s.writeV d (.ofNat 256 v) (.ofNat 256 m))

def execVins (size : BitVec 2) (d a b : Reg) (s : State) : Result :=
  let w := sizeBits size
  s.issueHead [.vacc d, .src a, .src b] [] false fun s =>
    let (x, s) := s.readW a
    let (y, s) := s.readW b
    let (v, m) := layElems w ((List.range (256 / w)).map fun i =>
      if i = y.toNat % (256 / w) ∧ laneOn (swVM s.rdSw) w i then some x.toNat else none)
    .next (s.writeV d (.ofNat 256 v) (.ofNat 256 m))

/-- The mask is ignored. -/
def execVext (size : BitVec 2) (n : Bool) (d a b : Reg) (s : State) : Result :=
  let w := sizeBits size
  s.issueHead [.dst d, .vsrc a, .src b] [] false fun s =>
    let (x, s) := s.readV a
    let (y, s) := s.readW b
    let v := elemAt w x.toNat (y.toNat % (256 / w))
    .next (s.writeW d (if n then w64 v else .ofInt 64 (signed w v)))

/-! ## Conversions (05 R135) -/

/-- A per-tile scale, or none for SCALE_INVALID (02 R45). -/
def scaleOf (v : Word) : Option Val :=
  let c := v.toNat % 2 ^ 32
  if isSubnormal cFP32 c then none
  else match unpackF cFP32 c with
    | .fin n m e => if m = 0 then none else some (.fin n m e)
    | _ => none

/-- Convert one element, times a scale when there is one: the exact product is rounded once (05 R135), and from integer to
integer no flag is raised (02 R38, R59). -/
def cvtElem (src dst : Nat) (sub : Bool) (r : Rnd) (scale : Option Val) (v : Nat) : Option (Nat × FFlags) :=
  match scale with
  | none => convert src dst sub r v
  | some k =>
    match operandF src sub v with
    | none => none
    | some (x, fx) =>
      if src = dst ∧ 8 ≤ src ∧ x.isNan then some ((fmtOf src).nan, fx)
      else if src < 8 ∧ dst < 8 then
        match (Val.mul x k).1 with
        | .fin neg m e =>
          let q : Int := (roundAt neg m e 0 r).1
          some (intToInt src dst (if neg then -q else q), 0)
        | _ => some (0, 0)
      else
        let (o, f) := roundTo dst r (Val.mul x k).1
        some (o, fx ||| f)

/-- Conversion of n elements of a source of rs registers into a destination of rd registers; positions from n on are
written as zero. -/
def State.convertVec (s : State) (src dst : BitVec 5) (sc : Bool) (d a c : Reg) (rs rd n : Nat) (legal : Bool) : Result :=
  let ok := decide (src.toNat ≤ 14) && decide (dst.toNat ≤ 14)
  let group (o : Opd) (r : Nat) : Opd := if r = 1 then o else { o with n := r, port := false }
  s.issueHead ([group (.vdst d) rd, group (.vsrc a) rs] ++ (if sc then [.src c] else []) ++ drawOpd s.rdSw)
    [(src, decide (src.toNat ≤ 14)), (dst, decide (dst.toNat ≤ 14))] false
    (extra := (!ok && s.me.emulate.isNone) || (legal && spanFits d rd && spanFits a rs)) fun s₁ =>
    let (x, s₂) := s₁.readSpan a rs
    let (k, s₂) := if sc then s₂.readW c else (0, s₂)
    if sc && (scaleOf k).isNone then s.raise cSCALE
    else
      let sw := s₁.rdSw
      let wd := fmtWidth dst.toNat
      let scale := if sc then scaleOf k else none
      let elem (j : Nat) : Option (Option Nat × FFlags) :=
        if !laneOn (swVM sw) wd j then some (none, 0)
        else if n ≤ j then some (some 0, 0)
        else (cvtElem src.toNat dst.toNat (swSUB sw) (s₁.rnd j) scale (elemAt (fmtWidth src.toNat) x j)).map fun (v, f) =>
          (some v, f)
      match overElems elem (List.range (rd * 256 / wd)) with
      | none => s.raise cSUBNORMAL
      | some (es, f) =>
        let (v, m) := layElems wd es
        .next (((vecWrites d rd v m).foldl applyWrite s₂).orSw (swFlags f))

def execVcvt (src dst : BitVec 5) (sc : Bool) (d a c : Reg) (s : State) : Result :=
  s.convertVec src dst sc d a c 1 1 (256 / Nat.max (fmtWidth src.toNat) (fmtWidth dst.toNat)) true

/-- Is a ratio of widths one of the table's? -/
def groupRatio (wide narrow : Nat) : Bool :=
  wide == 2 * narrow || wide == 4 * narrow || wide == 8 * narrow

def execVpack (src dst : BitVec 5) (sc : Bool) (d a c : Reg) (s : State) : Result :=
  let ws := fmtWidth src.toNat
  let wd := fmtWidth dst.toNat
  s.convertVec src dst sc d a c (ws / wd) 1 (256 / wd) (groupRatio ws wd)

def execVunpack (src dst : BitVec 5) (sc : Bool) (d a c : Reg) (s : State) : Result :=
  let ws := fmtWidth src.toNat
  let wd := fmtWidth dst.toNat
  s.convertVec src dst sc d a c 1 (wd / ws) (256 / ws) (groupRatio wd ws)

/-- Round to an integral value; the rounding sets no flag. An emulated integer is integral already (02 R43). -/
def execVrnd (src _dst : BitVec 5) (d a : Reg) (s : State) : Result :=
  let c := src.toNat
  s.issueHead ([.vdst d, .vsrc a] ++ drawOpd s.rdSw) [(src, decide (8 ≤ c ∧ c ≤ 10))] false fun s₁ =>
    let (x, s₂) := s₁.readV a
    let sw := s₁.rdSw
    let w := fmtWidth c
    let elem (i : Nat) : Option (Option Nat × FFlags) :=
      if !laneOn (swVM sw) w i then some (none, 0)
      else (operandF c (swSUB sw) (elemAt w x.toNat i)).map fun (v, f) =>
        (some (roundTo c ⟨0, false, 0⟩ (match v with
          | .fin neg m e => .fin neg (roundAt neg m e 0 (s₁.rnd i)).1 0
          | v => v)).1, f)
    match overElems elem (List.range (256 / w)) with
    | none => s.raise cSUBNORMAL
    | some (es, f) =>
      let (v, m) := layElems w es
      .next ((s₂.writeV d (.ofNat 256 v) (.ofNat 256 m)).orSw (swFlags f))

end Sys2Proof.Machine
end

