-- ==== Sys2Proof/Machine/Jets.lean ====
section
/-! DEFINITION. The jet instructions of major 0x3A (06 R146, R167 to R171). -/

namespace Sys2Proof.Machine

namespace State

/-- Write the enabled groups of d with coefficients that `f` gives by the group's number; no flag (06 R168, R170). -/
def fillGroups (s₀ s : State) (c : Nat) (d : Reg) (la : BitVec 4) (f : Nat → List Nat) : Result :=
  let jo := swJO s₀.rdSw
  match overGroups c jo (swVM s₀.rdSw) (fun base => some (f (base / groupSize jo), [])) (List.range (groupsOf c jo)) with
  | none => .next s
  | some o => s₀.deliver s jo la (10, 14) (vecWrites d (spanOf c jo) o.value o.mask)

/-- c_0 := x, c_1 := dir where there is one (06 R168). -/
def seedOf (jo x dir : Nat) : List Nat := if jo = 0 then [x] else [x, dir]

/-- The issue of a jet instruction with operands that are spans and operands that are single registers; `k` is given JO
and r. -/
def issueJet (s : State) (c : Nat) (spans singles : List Opd) (k : State → Nat → Nat → Result) : Result :=
  let ok := decide (c ≤ 10)
  let jo := swJO s.rdSw
  let r := if ok || s.me.emulate.isSome then spanOf c jo else 1
  s.issueHead ((spans.map fun o => o.jet r) ++ singles) [(.ofNat 5 c, ok)] false
    (extra := spans.all fun o => spanFits o.r r) fun s => k s jo r

/-- `JEXT` and `JDER`: coefficient k of each enabled group, passed through `f` with its element number (06 R169);
`draws` is w28 where it rounds. -/
def extractCoef (s : State) (fmt : BitVec 2) (d a : Reg) (k : BitVec 5) (la : BitVec 4)
    (draws : List Opd) (f : State → Nat → Nat → Option (Nat × FFlags)) : Result :=
  let c := fmt2 fmt
  s.issueJet c [.vsrc a] (.vdst d :: draws) fun s₁ jo r =>
    if jo < k.toNat then s.raise cRANGE
    else
      let (x, s₂) := s₁.readSpan a r
      let w := fmtWidth c
      let vm := swVM s₁.rdSw
      let g := groupSize jo
      let ng := groupsOf c jo
      let elem (e : Nat) : Option (Option Nat × FFlags) :=
        if e < ng then
          if laneOn vm w (e * g % perReg c) then (f s₁ e (elemAt w x (e * g + k.toNat))).map fun (v, fl) => (some v, fl)
          else some (none, 0)
        else some (if laneOn vm w e then some 0 else none, 0)
      match overElems elem (List.range (perReg c)) with
      | none => s.raise cSUBNORMAL
      | some (es, fl) =>
        let (v, m) := layElems w es
        s.deliver s₂ jo la (10, 14) (vecWrites d 1 v m ++ [.swOr (swFlags fl), .jfOr (jfFlags k.toNat fl)])

end State

/-- k! -/
def factorial : Nat → Nat
  | 0 => 1
  | k + 1 => (k + 1) * factorial k

/-- Sets JO for the strand's next head. -/
def execJord (n : BitVec 5) (s : State) : Result :=
  s.issueHead [] [] false fun s => .next (s.setSw 0x1F0000 (n.setWidth 64 <<< 16))

def execJseed (fmt : BitVec 2) (d a b : Reg) (la : BitVec 4) (s : State) : Result :=
  s.issueJet (fmt2 fmt) [.vdst d] [.src a, .src b] fun s₁ jo _ =>
    let (x, s₂) := s₁.readW a
    let (y, s₂) := s₂.readW b
    s.fillGroups s₂ (fmt2 fmt) d la fun _ => State.seedOf jo x.toNat y.toNat

def execJseedv (fmt : BitVec 2) (d a b : Reg) (la : BitVec 4) (s : State) : Result :=
  let c := fmt2 fmt
  s.issueJet c [.vdst d] [.vsrc a, .vsrc b] fun s₁ jo _ =>
    let (x, s₂) := s₁.readV a
    let (y, s₂) := s₂.readV b
    s.fillGroups s₂ c d la fun g => State.seedOf jo (elemAt (fmtWidth c) x.toNat g) (elemAt (fmtWidth c) y.toNat g)

def execJconst (fmt : BitVec 2) (d a : Reg) (la : BitVec 4) (s : State) : Result :=
  s.issueJet (fmt2 fmt) [.vdst d] [.src a] fun s₁ _ _ =>
    let (x, s₂) := s₁.readW a
    s.fillGroups s₂ (fmt2 fmt) d la fun _ => [x.toNat]

def execJext (fmt : BitVec 2) (d a : Reg) (k : BitVec 5) (la : BitVec 4) (s : State) : Result :=
  s.extractCoef fmt d a k la [] fun _ _ v => some (v, 0)

/-- c_k × k!, exact and rounded once. -/
def execJder (fmt : BitVec 2) (d a : Reg) (k : BitVec 5) (la : BitVec 4) (s : State) : Result :=
  let c := fmt2 fmt
  s.extractCoef fmt d a k la (drawOpd s.rdSw) fun s g v =>
    (operandF c (swSUB s.rdSw) v).map fun (x, fx) =>
      let (o, f) := roundF c (s.rnd g) (Val.mul x (.fin false (factorial k.toNat) 0)).1
      (o, fx ||| f)

def execJtrunc (fmt : BitVec 2) (d a : Reg) (k : BitVec 5) (la : BitVec 4) (s : State) : Result :=
  let c := fmt2 fmt
  s.issueJet c [.vdst d, .vsrc a] [] fun s₁ jo r =>
    if jo < k.toNat then s.raise cRANGE
    else
      let (x, s₂) := s₁.readSpan a r
      s.fillGroups s₂ c d la fun g => (List.range (k.toNat + 1)).map fun i => elemAt (fmtWidth c) x (g * groupSize jo + i)

/-- `jf`, half h. -/
def execJfrd (d : Reg) (h : Bool) (s : State) : Result :=
  s.issueHead [.dst d] [] false fun s =>
    .next (s.writeW d (if h then s.rdJf.extractLsb' 64 64 else s.rdJf.extractLsb' 0 64))

def execJfclr (lo hi : BitVec 5) (s : State) : Result :=
  s.issueHead [] [] false fun s =>
    let mask : BitVec 128 := .ofNat 128 (2 ^ (4 * hi.toNat + 4) - 2 ^ (4 * lo.toNat))
    .next (s.modMe fun x => { x with jf := x.jf &&& ~~~mask })

end Sys2Proof.Machine
end

