-- ==== Sys2Proof/Machine/Streams.lean ====
section
/-! DEFINITION. Stream forms and the stream unit (05 R136 to R140, 06 R165); window operations and the window unit (05
R141 to R144; 02 R61, R62). -/

namespace Sys2Proof.Machine

/-! ## Streams -/

/-- The operation of a stream form. -/
def streamOp (n : Nat) : VecOp := match n with | 0 => .add | 1 => .mul | _ => .fma

/-- Cycles that a step takes beside its bank collisions, beyond the first (06 R165). -/
def streamExtra (op jo : Nat) : Nat :=
  if jo = 0 then 0 else if jo < 8 then (if op = 0 then 0 else 2) else if op = 0 then 2 else 10

/-- The bank of an offset. -/
def bankOf (off : Nat) : Fin 3 := .ofNat 3 (off / 2 ^ 20)

/-- The different members of a list of banks. -/
def distinctBanks : List (Fin 3) → List (Fin 3)
  | [] => []
  | b :: l => if l.contains b then distinctBanks l else b :: distinctBanks l

/-- The banks that a window operation writes: its window may lie in two (01 R33, 05 R143). -/
def WinOp.banks (o : WinOp) : List (Fin 3) := distinctBanks (o.writes.map fun w => bankOf (o.addr + w.1))

/-- How an element at index j of a stream is rounded, by what the head read at its issue (02 R54, R55). -/
def Stream.rnd (m : Stream) (j : Nat) : Rnd :=
  let mode := swRM m.sw
  ⟨mode, swSUB m.sw, if mode = 4 then (keyHash m.seed (m.index + .ofNat 64 j)).toNat % 2 ^ 24 else 0⟩

/-- The result of a step on the 32 bytes of a, b and d; none where it would read a subnormal operand (05 R137, R139). -/
def Stream.compute (m : Stream) (x y z : Nat) : Option GroupsOut :=
  let op := streamOp m.op
  let c := fmt3 m.fmt
  let jo := swJO m.sw
  let coefs (v base : Nat) : List Nat := (List.range (jo + 1)).map fun k => elemAt (fmtWidth c) v (base + k)
  let one (base : Nat) : Option (List Nat × List FFlags) :=
    match groupOperand c (swSUB m.sw) (coefs x base), groupOperand c (swSUB m.sw) (coefs y base),
        (if op.accumulates then groupOperand c (swSUB m.sw) (coefs z base) else some ([], [])) with
    | some (a, fa), some (b, fb), some (d, fd) =>
      let (codes, fs) := Series.group op c jo (fun k => m.rnd (perReg c * m.step + base + k)) a b d
      some (codes, joinFlags (joinFlags fa fb) (joinFlags fd fs))
    | _, _, _ => none
  overGroups c jo (swVM m.sw) one (List.range (groupsOf c jo))

namespace State

/-- Write through the slot of a strand while it lives; the write of a strand that has ended is the unit's own. -/
def storeFor (s : State) (i : Fin 16) (strand : Nat) (k : Nat) (data : List (Bool × Byte)) : State :=
  if (s.slot i).strand = strand then s.storeOf i k data else s.writeLanes none k data

/-- Read through the slot of a strand while it lives. -/
def loadFor (s : State) (i : Fin 16) (strand : Nat) (k n : Nat) : List Byte × State :=
  if (s.slot i).strand = strand then s.loadOf i k n else (bytesAt s.mem k n, s)

/-- Change the stream of a tag. -/
def modStream (s : State) (tag : Nat) (f : Stream → Stream) : State :=
  { s with core := { s.core with streams := s.core.streams.map fun m => if m.tag = tag then f m else m } }

/-- The step in progress performs in this cycle: its reads, then its write; or it stops the stream (05 R137, R139; 17
R407). -/
def performStep (s : State) (m : Stream) : State :=
  let o := 32 * m.step
  let (x, s) := s.loadFor m.slot m.strand (s.key (m.a + o)) 32
  let (y, s) := s.loadFor m.slot m.strand (s.key (m.b + o)) 32
  let (z, s) := if m.op = 2 then s.loadFor m.slot m.strand (s.key (m.d + o)) 32 else ([], s)
  let bad := ([m.a + o, m.b + o] ++ if m.op = 2 then [m.d + o] else []).find? fun p => s.poisoned (s.key p) 32
  let stop (c : Cause) : State := (s.modStream m.tag fun m => { m with ended := true, stopped := some c }).after 4 .streamComplete
  match bad, m.compute (leNat x) (leNat y) (leNat z) with
  | some p, _ => stop ⟨cPOISON, 0, w64 p⟩
  | none, none => stop ⟨cSUBNORMAL, 0, 0⟩
  | none, some r =>
    let bytes := (leBytes 32 r.mask).zipWith (fun (k v : Byte) => (k != 0, v)) (leBytes 32 r.value)
    let s := s.storeFor m.slot m.strand (s.key (m.d + o)) bytes
    let last := decide (m.n ≤ m.step + 1)
    let s := s.modStream m.tag fun m => { m with
      step := m.step + 1, left := 0, flags := m.flags ||| swFlags r.flags, jf := m.jf ||| r.jf, ended := last }
    if last then s.after 4 .streamComplete else s

/-- Slice reads that the governor counts (01 R25): a step reads a and b, and `VFMA.M` d. -/
def streamReads (m : Stream) : Nat := if m.op = 2 then 3 else 2

/-- One cycle of the stream unit, after every other agent of the cycle (05 R138): the accesses of the step in progress that
find their bank free are served, each that loses adds a cycle, and in the step's last cycle it performs. DESIGN CHOICE (log
entry 46): the waits of two accesses on two RETAIN banks add, like any two accesses that lose. -/
def streamCycle (s : State) (m : Stream) : State :=
  let o := 32 * m.step
  let all := [bankOf (m.a + o), bankOf (m.b + o), bankOf (m.d + o)]
  let (left, banks) := if m.left = 0 then
      (1 + (3 - (distinctBanks all).length) + streamExtra m.op (swJO m.sw), all) else (m.left, m.banks)
  -- RETAIN banks begin to wake; waking and served banks turn the access away
  let tried := distinctBanks banks
  let s := tried.foldl (fun s b => if s.bankState b.val == 1 then s.startWake b else s) s
  -- so do lines of a commit, lines that a lower key buffers, and a full buffer (09 R233, R234, R236)
  let line (p : Nat) : Nat := s.key p / 64
  let mine := (s.slot m.slot).strand == m.strand
  let held (b : Fin 3) : Bool := [m.a + o, m.b + o, m.d + o].any fun p => bankOf p == b && (s.committing (line p)
    || (mine && (p != m.d + o || m.op == 2) && s.lowerBuffersOf m.slot (line p))
    || (mine && p == m.d + o && s.bufferFullFor m.slot (line p)))
  let lost := tried.filter fun b => s.core.served.contains b || s.bankState b.val == 1 || held b
  let done := tried.filter fun b => !lost.contains b
  let s := done.foldl (fun s b => s.serve (b.val * 2 ^ 20)) s
  let m := { m with left := left + lost.length - 1, banks := done.foldl List.erase banks }
  let s := s.modStream m.tag fun _ => m
  if m.left = 0 then (s.countReads (streamReads m)).performStep m else s

/-- The issue of a stream form (05 R136, 06 R165). -/
def stream (s : State) (op : Nat) (fmt : BitVec 3) (d a b : Reg) (la : BitVec 4) (x : Byte) : Result :=
  let c := fmt3 fmt
  let ok := decide (c ≤ 10)
  s.issueHead ([(Opd.acc d).noPort, (Opd.src a).noPort, (Opd.src b).noPort] ++ drawOpd s.rdSw) [(.ofNat 5 c, ok)] false
    (extra := d != a && d != b && a != b) fun s =>
    let n := x.toNat + 1
    let ps := [s.regW d.toNat, s.regW a.toNat, s.regW b.toNat]
    let len := 32 * n
    if spanOf c (swJO s.rdSw) != 1 then s.raise cJET
    else match ps.find? fun p => decide (2 ^ 22 ≤ p.toNat) || decide (s.rim.visibleTop < p.toNat + len) with
    | some p => s.raise cADDRESS p
    | none =>
      match ps.find? fun p => p.toNat % 32 != 0 with
      | some p => s.raise cMISALIGNED p
      | none =>
        match ps.find? fun p => s.bankState (p.toNat / 2 ^ 20) == 2 || s.bankState ((p.toNat + len - 1) / 2 ^ 20) == 2 with
        | some p => s.raise cGATED p
        | none =>
          if s.windowsFull then s.raise cWINDOW
          else
            let m : Stream := {
              slot := s.issue.slot, strand := s.me.strand, tag := s.core.nextTag, op := op, fmt := fmt
              a := (s.regW a.toNat).toNat, b := (s.regW b.toNat).toNat, d := (s.regW d.toNat).toNat, n := n
              regs := (d, a, b), sw := s.rdSw, index := s.regW 28, seed := s.seed, step := 0, left := 0, banks := []
              flags := 0, jf := 0, ended := false, stopped := none }
            let t := s.openWindow la ⟨0, 0, false, [], .known, none, s.issue.info, none, false, none, none⟩
            .next { t with core := { t.core with streams := t.core.streams ++ [m] } }

/-! ## Window operations -/

/-- A window's value words as an integer and its status word (02 R61, R62). -/
def windowParts (b : List Byte) : Int × Nat := (signed 640 (leNat (b.take 80)), leNat ((b.drop 80).take 8))

/-- The bytes of a window from its integer and status word. -/
def windowBytes (n : Int) (status : Nat) : List Byte := leBytes 80 (wrap 640 n) ++ leBytes 8 status

/-- Add a value to a window (05 R142). -/
def addToWindow (b : List Byte) (v : Val) : List Byte :=
  let (n, st) := windowParts b
  match v with
  | .nan => windowBytes n (st ||| 8)
  | .inf neg => windowBytes n (st ||| (if neg then 2 else 4))
  | .fin neg m e =>
    let t := n + Val.scaled neg m e (-320)
    let beyond := decide (t < -(2 ^ 639)) || decide (2 ^ 639 ≤ t)
    windowBytes t (if beyond then st ||| 1 else st)

/-- What `RDWIN` delivers, with its flags (02 R62), in any format of R43. -/
def readWindow (c : Nat) (r : Rnd) (b : List Byte) : Nat × FFlags :=
  let (n, st) := windowParts b
  let nan := st.testBit 3 || (st.testBit 2 && st.testBit 1) || st.testBit 0
  if nan then let (v, f) := roundTo c r .nan; (v, f ||| fI)
  else if st.testBit 2 then roundTo c r (.inf false)
  else if st.testBit 1 then roundTo c r (.inf true)
  else roundTo c r (.fin (decide (n < 0)) n.natAbs (-320))

/-- The words by which two windows differ: their offsets and new values (05 R143). -/
def changedWords (old new : List Byte) : List (Nat × Word) :=
  (List.range 11).filterMap fun i =>
    let w := (new.drop (8 * i)).take 8
    if w = (old.drop (8 * i)).take 8 then none else some (8 * i, w64 (leNat w))

/-- The issue of a window operation on the window at an address (05 R141 to R144): `f` is given what every earlier
operation leaves in the window and answers what this one leaves, and the writes its strand receives. `s₂` is the state
with the operands read, `cost` the time from the count of changed value words. -/
def windowOp (s s₂ : State) (la : BitVec 4) (ea : Word) (clear store : Bool) (cost : Nat → Nat)
    (f : List Byte → List Byte × List WinWrite) : Result :=
  match s.checkLocal ea 128 64 with
  | .trap c => s.raise c ea
  | .waking b => (s.startWake b).forfeit
  | .remote .. => s.raise cADDRESS ea
  | .here off =>
    if s.payloadHeld off 128 then s.forfeit
    else if !clear && s.poisoned (s.key off) 88 then s.raise cPOISON ea
    else if !clear && s.lowerBuffers (s.key off / 64) then s.sleep (.line (s.key off / 64))
    else if store && (s.bufferFull (s.key off / 64) || s.bufferFull (s.key off / 64 + 1)) then s.sleep .lowestKey
    else if s.windowsFull then s.raise cWINDOW
    else
      let before := s.core.winOps.filter fun o => o.addr == off
      let (slice, s₃) := s₂.loadBytes (s.key off) 88
      let (old, s₃) := match before.getLast? with
        | some o => (o.after, s₂)
        | none => (slice, s₃)
      let (new, ws) := f old
      let writes := if clear then (List.range 16).map fun i => (8 * i, 0) else changedWords old new
      let count := (writes.filter fun w => decide (w.1 < 80)).length
      let ready := (before.map (·.due)).foldl Nat.max s.tile.cycle + cost count
      let tag := s₃.core.nextTag
      let t := s₃.openWindow la ⟨0, 0, false, ws, .known, none, s.issue.info, none, false, if store then some off else none, none⟩
      let o : WinOp := ⟨s.issue.slot, s.me.strand, tag, off, new, writes, ready⟩
      .next (({ t with core := { t.core with winOps := t.core.winOps ++ [o] } } : State).after (ready - s.tile.cycle)
        (.longResultArrival s.issue.slot tag))

/-- The operation of a window of a slot. -/
def winOpOf (s : State) (i : Fin 16) (tag : Nat) : Option WinOp := s.core.winOps.find? fun o => o.slot == i && o.tag == tag

/-- Has an earlier-issued operation on the same window its write still to make (05 R143)? -/
def windowBlocked (s : State) (o : WinOp) : Bool :=
  s.core.winOps.any fun p => p.addr == o.addr && decide (p.tag < o.tag) && !p.writes.isEmpty

end State

/-! ## Meanings -/

def execVaddM (fmt : BitVec 3) (d a b : Reg) (la : BitVec 4) (x : Byte) (s : State) : Result := s.stream 0 fmt d a b la x
def execVmulM (fmt : BitVec 3) (d a b : Reg) (la : BitVec 4) (x : Byte) (s : State) : Result := s.stream 1 fmt d a b la x
def execVfmaM (fmt : BitVec 3) (d a b : Reg) (la : BitVec 4) (x : Byte) (s : State) : Result := s.stream 2 fmt d a b la x

/-- One cycle of the stream unit for the first stream that has steps left (05 R138). -/
def execStreamStep (s : State) : Result :=
  match s.core.streams.find? fun m => !m.ended with
  | none => .next s
  | some m => .next (s.streamCycle m)

/-- The first stream whose steps are done is complete: its window has its result (05 R137 to R139). -/
def execStreamComplete (s : State) : Result :=
  match s.core.streams.find? (·.ended) with
  | none => .next s
  | some m =>
    let s : State := { s with core := { s.core with streams := s.core.streams.filter fun o => o.tag != m.tag } }
    let by_ : Word := w64 (32 * m.step)
    let (d, a, b) := m.regs
    let writes : List WinWrite := [.reg d (w64 m.d + by_), .reg a (w64 m.a + by_), .reg b (w64 m.b + by_), .swOr m.flags, .jfOr m.jf]
      ++ if m.stopped.isSome then [.swSet rixMask (rixBits m.step)] else []
    let s := s.modWindow m.slot m.tag fun w => { w with arrived := true, writes := writes, trap := m.stopped }
    .next (s.modSlot m.slot fun x =>
      if x.st == .window && x.windows.all (fun w => w.left != 0 || w.arrived) then { x with st := .ready } else x)

/-- Adds x, or the exact product of x and y, to a window; no flag of `sw` (05 R142). -/
def execAddwin (p : Bool) (d a b : Reg) (la : BitVec 4) (s : State) : Result :=
  s.issueHead ([(Opd.third d).noPort, .src a] ++ if p then [.src b] else []) [] false fun s =>
    let (x, s₂) := s.readW a
    let (y, s₂) := if p then s₂.readW b else (0, s₂)
    let v := if p then (Val.mul (unpackF cFP32 x.toNat) (unpackF cFP32 y.toNat)).1 else unpackF cFP32 x.toNat
    s.windowOp s₂ la (s.regW d.toNat) false true (fun c => 6 + c) fun old => (State.addToWindow old v, [])

def execRdwin (fmt : BitVec 5) (d a : Reg) (la : BitVec 4) (s : State) : Result :=
  let c := fmt.toNat
  s.issueHead ([.dst d, (Opd.src a).noPort] ++ drawOpd s.rdSw) [(fmt, c == 8 || c == 15)] false fun s =>
    s.windowOp s la (s.regW a.toNat) false false (fun _ => 14) fun old =>
      let (v, f) := State.readWindow c (s.rnd 0) old
      (old, [.reg d (resultWord c v), .swOr (swFlags f)])

/-- Writes zero to all 128 bytes. -/
def execClrwin (a : Reg) (la : BitVec 4) (s : State) : Result :=
  s.issueHead [(Opd.src a).noPort] [] false fun s =>
    s.windowOp s la (s.regW a.toNat) true true (fun _ => 2) fun _ => (List.replicate 88 0, [])

/-- The unit writes the slice for an operation whose window has ended, once every earlier operation on the window has been
written; the write of a strand that has ended is tried again while it loses its bank (05 R143). -/
def execWindowUnitWrite (slot : Fin 16) (tag : Nat) (s : State) : Result :=
  match s.winOpOf slot tag with
  | none => .next s
  | some o =>
    let gone := (s.slot slot).strand ≠ o.strand
    if gone ∧ (s.windowBlocked o || o.banks.any fun b => s.bankBusy (b.val * 2 ^ 20)) then
      .next (s.after 1 (.windowUnitWrite slot tag))
    else
      let s : State := { s with core := { s.core with winOps := s.core.winOps.filter fun p => p.tag != tag } }
      let s := o.banks.foldl (fun s b => s.serve (b.val * 2 ^ 20)) s
      -- all sixteen words: both lines are set whole
      .next (if o.writes.length = 16 then
          [0, 64].foldl (fun s at_ => s.storeFor slot o.strand (s.key (o.addr + at_)) (List.replicate 64 (true, 0))) s
        else o.writes.foldl (fun s (at_, w) =>
          s.storeFor slot o.strand (s.key (o.addr + at_)) ((leBytes 8 w.toNat).map fun b => (true, b))) s)

end Sys2Proof.Machine
end

