-- ==== Sys2Proof/Machine/Matrix.lean ====
section
/-! DEFINITION. The matrix engine: tiles (10 R241 to R246), the checks and the start of an operation (R247 to R250, R257 to
R260), the gather unit and the steps (R254, R255), a block's arithmetic and residue flag (R251 to R253), and how an
operation ends or stops (R255, R256). -/

namespace Sys2Proof.Machine

/-- The operand pairs that the engine accepts, with steps per K-block, K-blocks per line of A, and whether MX and a scale
are allowed (10 R243). -/
def matFormat (acc : Bool) (a b : Nat) : Option (Nat × Nat × Bool × Bool) :=
  let fp8 (c : Nat) : Bool := c == 11 || c == 12
  let int8 (c : Nat) : Bool := c == 0 || c == 4
  if !acc && fp8 a && fp8 b then some (32, 2, true, true)
  else if !acc && a == 13 && b == 13 then some (16, 4, true, true)
  else if !acc && a == b && (a == 9 || a == 10) then some (64, 1, false, true)
  else if acc && int8 a && int8 b then some (32, 2, false, false)
  else none

/-- The coefficient pairs of `MMJ` at an order, in their order (10 R257). -/
def jetPairs (jo : Nat) : List (Nat × Nat) :=
  (List.range (jo + 1)).flatMap fun k => (List.range (k + 1)).map fun i => (i, k - i)

/-- The coefficients of A and B and the K-block of a unit. -/
def MatOp.unit (o : MatOp) (u : Nat) : Nat × Nat × Nat :=
  if o.kind == .mmj then
    let ps := jetPairs o.jo
    let (i, j) := ps.getD (u % ps.length) (0, 0)
    (i, j, u / ps.length)
  else (0, 0, u)

/-- The unit of the next step. -/
def MatOp.unitNow (o : MatOp) : Nat := o.first + o.steps / o.perUnit

/-- All steps of an operation. -/
def MatOp.allSteps (o : MatOp) : Nat := (o.units - o.first) * o.perUnit

/-- Consecutive units that use the same line group of A, first unit first (10 R255). -/
def groupUnits (key : Nat → Nat × Nat) : List Nat → List (List Nat)
  | [] => []
  | u :: us =>
    match groupUnits key us with
    | [] => [[u]]
    | [] :: gs => [u] :: gs
    | (v :: g) :: gs => if key u = key v then (u :: v :: g) :: gs else [u] :: (v :: g) :: gs

/-- The lines of A of a unit, row by row (10 R248, R257). -/
def MatOp.linesA (o : MatOp) (per u : Nat) : List Nat :=
  let (i, _, kb) := o.unit u
  o.rowsA.map fun r => r + i * o.sa + 64 * (kb / per)

/-- The plane lines of a unit (10 R249). -/
def MatOp.linesP (o : MatOp) (u : Nat) : List Nat :=
  let (_, _, kb) := o.unit u
  if o.mx then [o.planeA + 64 * kb, o.planeB + 64 * kb] else []

/-- Every line to fetch of planes and A (10 R255): a group waits for the first step of the group before it. -/
def MatOp.gatherA (o : MatOp) (per : Nat) : List (Nat × Nat × Nat) :=
  let us := (List.range (o.units - o.first)).map (o.first + ·)
  let gs := groupUnits (fun u => let (i, _, kb) := o.unit u; (i, kb / per)) us
  let starts := gs.map fun g => g.headD 0
  let needs := 0 :: starts.map fun u => (u - o.first) * o.perUnit + 1
  (gs.zip needs).flatMap fun (g, n) =>
    (g.flatMap o.linesP ++ (g.head?.map (o.linesA per)).getD []).map fun l => (n, g.headD 0, l)

/-- Every line to fetch of B, in step order. -/
def MatOp.gatherB (o : MatOp) : List Nat :=
  ((List.range (o.units - o.first)).map (o.first + ·)).flatMap fun u =>
    let (_, j, kb) := o.unit u
    (List.range o.perUnit).map fun t => o.base + j * o.sb + 64 * (kb * o.perUnit + t)

/-- Bytes of a row of `MRD` or `MACC` in memory, and its 64-byte lines. -/
def rowBytes (cols : Nat) (fmt : BitVec 5) : Nat := (cols * fmtWidth fmt.toNat + 7) / 8
def rowLines (cols : Nat) (fmt : BitVec 5) : Nat := (rowBytes cols fmt + 63) / 64

/-! ## XPK blocks (02 R46 to R48) -/

/-- What decoding an XPK block finds. -/
inductive Xpk where
  /-- Its elements and its length. -/
  | ok (elems : List Byte) (len : Nat)
  | malformed
  /-- It goes on beyond the bytes given. -/
  | short
deriving DecidableEq, Repr

/-- Bits of bytes, most significant first. -/
def msbBits (bs : List Byte) : List Bool := bs.flatMap fun b => (List.range 8).map fun i => b.getLsbD (7 - i)

/-- The number that bits spell, most significant first. -/
def bitsNat (bs : List Bool) : Nat := bs.foldl (fun n b => 2 * n + b.toNat) 0

/-- One token: its delta, and the bits after it (02 R47). -/
def xpkToken (tbl : Nat) (bs : List Bool) : Option (Nat × List Bool) :=
  let escape (rest : List Bool) : Option (Nat × List Bool) :=
    if rest.length < 5 then none else some (bitsNat (rest.take 5), rest.drop 5)
  match tbl, bs with
  | 0, false :: r => some (0, r)
  | 0, true :: false :: r => some (1, r)
  | 0, true :: true :: false :: r => some (2, r)
  | 0, true :: true :: true :: false :: r => some (3, r)
  | 0, true :: true :: true :: true :: r => escape r
  | 1, false :: r => some (2, r)
  | 1, true :: false :: false :: r => some (0, r)
  | 1, true :: false :: true :: r => some (1, r)
  | 1, true :: true :: false :: r => some (3, r)
  | 1, true :: true :: true :: false :: r => some (4, r)
  | 1, true :: true :: true :: true :: r => escape r
  | 2, false :: false :: r => some (0, r)
  | 2, false :: true :: r => some (1, r)
  | 2, true :: false :: r => some (2, r)
  | 2, true :: true :: r => escape r
  | 3, true :: true :: true :: true :: r => escape r
  | 3, a :: b :: c :: d :: r => some (bitsNat [a, b, c, d], r)
  | _, _ => none

/-- n tokens. -/
def xpkTokens (tbl : Nat) : Nat → List Bool → Option (List Nat × List Bool)
  | 0, bs => some ([], bs)
  | n + 1, bs =>
    match xpkToken tbl bs with
    | none => none
    | some (d, r) => (xpkTokens tbl n r).map fun (ds, r) => (d :: ds, r)

/-- Decode the block at the head of bytes (02 R46 to R48; 10 R260). -/
def xpkDecode (bs : List Byte) : Xpk :=
  match bs with
  | [] => .short
  | h :: rest =>
    let e5m2 := h.getLsbD 0
    let base := bits h.toNat 5 1
    match xpkTokens (bits h.toNat 7 6) 32 (msbBits rest) with
    | none => .short
    | some (ds, left) =>
      let used := 8 * rest.length - left.length
      let fill := left.take ((8 - used % 8) % 8)
      let body := rest.drop ((used + 7) / 8)
      let man := if e5m2 then 8 else 12
      if body.length < 4 + man then .short
      else if fill.any id || ds.any (fun d => decide ((if e5m2 then 31 else 15) < base + d)) then .malformed
      else
        let signs := leNat (body.take 4)
        let mans := leNat ((body.drop 4).take man)
        let mb := if e5m2 then 2 else 3
        let elem (i : Nat) (d : Nat) : Byte :=
          .ofNat 8 ((signs.testBit i).toNat * 128 + (base + d) * 2 ^ mb + elemAt mb mans i)
        .ok ((List.range 32).zipWith elem ds) (1 + (used + 7) / 8 + 4 + man)

namespace State

/-! ## Tiles -/

def mtile (s : State) (t : Nat) : MTile := s.core.tiles.toList.getD t MTile.none

def setMtile (s : State) (t : Nat) (m : MTile) : State :=
  { s with core := { s.core with tiles := s.core.tiles.set (Fin.ofNat 4 t) m } }

/-- May the issuing strand act on a tile: configured and its own (10 R242)? -/
def ownTile (s : State) (t : Nat) : Bool := (s.mtile t).configured && (s.mtile t).owner == some s.issue.slot

/-- The operation of a slot. -/
def matOf (s : State) (i : Fin 16) : Option MatOp := s.core.mat.find? fun o => o.slot == i

def modMat (s : State) (i : Fin 16) (f : MatOp → MatOp) : State :=
  { s with core := { s.core with mat := s.core.mat.map fun o => if o.slot = i then f o else o } }

/-- Has an operation lines to fetch? -/
def gathers (o : MatOp) : Bool := !o.wantA.isEmpty || !o.wantB.isEmpty

/-! ## Checks and start -/

/-- Rows 5 to 7 of R250 on ranges (offset, length, alignment): the first address that fails, with its trap. -/
def rangesFail (s : State) (rs : List (Nat × Nat × Nat)) : Option (BitVec 9 × Word) :=
  match rs.find? fun r => decide (s.rim.visibleTop < r.1 + r.2.1) with
  | some r => some (cADDRESS, w64 r.1)
  | none =>
    match rs.find? fun r => r.1 % r.2.2 != 0 with
    | some r => some (cMISALIGNED, w64 r.1)
    | none =>
      match rs.find? fun r => s.bankState (r.1 / 2 ^ 20) == 2 || s.bankState ((r.1 + r.2.1 - 1) / 2 ^ 20) == 2 with
      | some r => some (cGATED, w64 r.1)
      | none => none

/-- The offset that a register names in the own slice (10 R250 row 5). -/
def localOffset (s : State) (a : Word) : Option Nat :=
  match s.addrForm a with
  | some (l, c, off) => if l == s.core.ltn && c == s.core.num then some off else none
  | none => none

/-- A new operation of the issuing strand. -/
def newOp (s : State) (kind : MatKind) (tiles : List Nat) (units perUnit : Nat) : MatOp :=
  { slot := s.issue.slot, kind := kind, tiles := tiles, rowsA := [], base := 0, pitch := 0, mx := false, scale := none
    planeA := 0, planeB := 0, sa := 0, sb := 0, jo := 0, fmt := 0, sw := s.rdSw, index := s.regW 28, seed := s.seed
    dst := 0, src := 0, regs := (0, 0), form := (0, 0), first := swRIX s.rdSw, units := units, perUnit := perUnit, steps := 0
    wantA := [], wantB := [], latchA := [], latchB := [], flags := 0, stop := none, halt := false
    info := s.issue.info, npc := s.issue.npc, fold := s.issue.foldBefore, loops := s.me.loops
    counts := s.me.windows.map fun w => (w.tag, w.left) }

/-- The operation starts and the strand enters MATRIX; the gather unit begins in the next cycle (10 R250, R255). One
whose units are all done completes at once. -/
def startOp (s : State) (o : MatOp) (per : Nat) : State :=
  if o.units ≤ o.first then s.setSw rixMask 0
  else
    let mm := o.kind == .mma || o.kind == .mmj
    let o := { o with wantA := if mm then o.gatherA per else [], wantB := if mm then o.gatherB else [] }
    let s := o.tiles.foldl (fun s t => s.setMtile t { s.mtile t with live := true }) s
    let s : State := { s with core := { s.core with mat := s.core.mat ++ [o] } }
    let s := if mm && !(s.agenda.any fun e => match e.2 with | .gatherFetch => true | _ => false) then
      s.after 1 .gatherFetch else s
    s.modMe fun x => { x with st := .matrix }

/-- Row offsets of A from the index quad (10 R248). -/
def indexRows (s : State) (a : Reg) (rows : Nat) : List Nat :=
  let q := (List.range 4).foldr (fun i n => n * 2 ^ 256 + (s.regV (a.toNat + i)).toNat) 0
  (List.range rows).map fun e => 64 * elemAt 16 q e

/-! ## The gather unit (10 R255) -/

/-- A line as a task's own buffered bytes leave it (09 R234). -/
def overBuffered (s : State) (i : Fin 16) (line : Nat) (data : List Byte) : List Byte :=
  match (s.speculative i).bind fun t => SMap.find line t.lines with
  | some l => (List.range 64).map fun n => if l.mask.getD n false then l.data.getD n 0 else data.getD n 0
  | none => data

/-- One access of the gather unit for a slot's operation: none when its bank is taken or wakes, or while a task of a lower key
buffers the line. A speculative task reads over its own buffer, and the line joins its read set (09 R233, R234). -/
def fetchLine (s : State) (i : Fin 16) (off : Nat) : Option Latched × State :=
  match s.bankCheck off 1 with
  | some (.trap c) => (some ⟨s.tile.cycle, some ⟨c, 0, w64 off⟩, []⟩, s)
  | some (.waking b) => (none, s.startWake b)
  | _ =>
    let line := s.key off / 64
    if s.bankBusy off || s.lowerBuffersOf i line then (none, s)
    else
      let s := ((s.serve off).countReads 1).readBy i line
      let (r, buf, s) := s.buffered s.core.bufM line (s.lineBytes line (bytesAt s.mem (line * 64) 64))
      let s : State := { s with core := { s.core with bufM := buf } }
      (some ⟨s.tile.cycle, if r.getD 66 0 == 1 then some ⟨cPOISON, 0, w64 off⟩ else none, s.overBuffered i line (r.take 64)⟩, s)

/-- Fetch lines of planes and A while their banks are free. -/
def fetchA (s : State) (o : MatOp) : Nat → MatOp × State
  | 0 => (o, s)
  | n + 1 =>
    match o.wantA with
    | (need, _, l) :: rest =>
      if o.steps < need then (o, s)
      else match s.fetchLine o.slot l with
        | (some x, s) => fetchA s { o with wantA := rest, latchA := SMap.put l x o.latchA } n
        | (none, s) => (o, s)
    | [] => (o, s)

/-- Fetch lines of B, at most 64 ahead of the current step's. -/
def fetchB (s : State) (o : MatOp) : Nat → MatOp × State
  | 0 => (o, s)
  | n + 1 =>
    match o.wantB with
    | l :: rest =>
      let i := o.allSteps - o.wantB.length
      if o.steps + 64 < i then (o, s)
      else match s.fetchLine o.slot l with
        | (some x, s) => fetchB s { o with wantB := rest, latchB := SMap.put i x o.latchB } n
        | (none, s) => (o, s)
    | [] => (o, s)

/-- Serve the operations in cyclic slot order; the next cycle begins after the slot served last. -/
def gatherRound (s : State) : List (Fin 16) → State
  | [] => s
  | i :: is =>
    match s.matOf i with
    | none => gatherRound s is
    | some o =>
      if o.stop.isSome || o.halt then gatherRound s is
      else
        let (o₁, s₁) := s.fetchA o 4
        let (o₂, s₂) := s₁.fetchB o₁ 4
        let got := o₂.wantA.length + o₂.wantB.length != o.wantA.length + o.wantB.length
        let s₃ := s₂.modMat i fun _ => o₂
        gatherRound (if got then { s₃ with core := { s₃.core with gatherRot := i } } else s₃) is

/-! ## Steps -/

/-- The tile of a unit's result. -/
def unitTile (o : MatOp) (u : Nat) : Nat :=
  if o.kind == .mmj then (let (i, j, _) := o.unit u; i + j) else o.tiles.headD 0

/-- The slice address that a line step of `MRD` or `MACC` touches. -/
def lineOf (s : State) (o : MatOp) (u : Nat) : Nat :=
  let n := rowLines (s.mtile (o.tiles.headD 0)).cols o.fmt
  o.base + u / n * o.pitch + 64 * (u % n)

/-- K-blocks per line of A of an operation. -/
def perLine (s : State) (o : MatOp) : Nat :=
  let m := s.mtile (o.tiles.headD 0)
  ((matFormat m.acc m.afmt.toNat m.bfmt.toNat).map (·.2.1)).getD 1

/-- Is the bank of a line that a step touches free, and awake or asleep, not waking? -/
def lineFree (s : State) (off : Nat) : Bool := !s.bankBusy off && !s.core.waking.any fun w => w.1 == bankOf off

/-- Are the operands of the next step of a slot's operation in the latch, fetched in an earlier cycle (10 R254, R255)? -/
def matrixReady (s : State) (i : Fin 16) : Bool :=
  match s.matOf i with
  | none => false
  | some o =>
    let u := o.unitNow
    let fetched (m : SMap Latched) (k : Nat) : Bool := match SMap.find k m with
      | some x => decide (x.at_ < s.tile.cycle)
      | none => false
    o.stop.isNone && !o.halt && decide (o.steps < o.allSteps) && (match o.kind with
      | .mma | .mmj =>
        fetched o.latchB o.steps && o.wantA.all (fun w => decide (u < w.2.1)) &&
          (o.linesA (s.perLine o) u ++ o.linesP u).all (fetched o.latchA)
      | .mrd => s.lineFree (s.lineOf o u) && !s.bufferFullFor i (s.key (s.lineOf o u) / 64)
      | .macc => s.lineFree (s.lineOf o u) && !s.lowerBuffersOf i (s.key (s.lineOf o u) / 64)
      | .xpkd => s.lineFree o.dst && !s.bufferFullFor i (s.key o.dst / 64)
          && [o.src, o.src + 52].all fun p => !s.lowerBuffersOf i (s.key p / 64) && !s.committing (s.key p / 64))

/-- The values of a K-block's row of A or B: n elements of a format from a bit position. -/
def matVals (c : Nat) (v pos n : Nat) : List Val := (List.range n).map fun k => unpackF c (elemAt (fmtWidth c) (v >>> pos) k)

/-- Is a value a NaN or an infinity? -/
def special : Val → Bool
  | .fin .. => false
  | _ => true

/-- Add a block's sum to an accumulator word (10 R251, R252): FP32 with one rounding to nearest, or modulo 2^32. -/
def accumulate (acc : Bool) (m : BitVec 32) (v : Val) : BitVec 32 :=
  if acc then
    match v with
    | .fin n k e => m + .ofInt 32 (Val.scaled n k e 0)
    | _ => m
  else .ofNat 32 (roundF cFP32 ⟨0, false, 0⟩ (Val.add 0 (unpackF cFP32 m.toNat) v).1).1

/-- Perform a block: unit u of `MMA` or `MMJ` (10 R251 to R253). -/
def performBlock (s : State) (o : MatOp) (u : Nat) : State :=
  let t := unitTile o u
  let m := s.mtile t
  let (_, _, kb) := o.unit u
  let ca := m.afmt.toNat
  let cb := m.bfmt.toNat
  let per := s.perLine o
  let line (l : SMap Latched) (k : Nat) : Nat := leNat (((SMap.find k l).map (·.bytes)).getD [])
  let a := (o.linesA per u).map fun l => matVals ca (line o.latchA l) (kb % per * 32 * fmtWidth ca) 32
  let b := (List.range o.perUnit).foldr (fun t n => n * 2 ^ 512 + line o.latchB ((u - o.first) * o.perUnit + t)) 0
  let pitch := 16 * o.perUnit
  let bRows := (List.range 32).map fun k => matVals cb b (k * pitch) m.cols
  let scales (p n : Nat) : List Nat := (List.range n).map fun i => elemAt 8 (line o.latchA (p + 64 * kb)) i
  let sa := if o.mx then scales o.planeA m.rows else []
  let sb := if o.mx then scales o.planeB m.cols else []
  let waived := a.any (·.any special) || bRows.any (·.any special) || sa.any (· == 255) || sb.any (· == 255)
  let sum (i j : Nat) : Val :=
    let row := a.getD i []
    let col := bRows.map fun r => r.getD j Series.zero
    let v := (exactSum 0 (List.zipWith Val.mul row col) Series.zero).1
    let v := if o.mx then (Val.mul (Val.mul v (unpackF cE8M0 (sa.getD i 127))).1 (unpackF cE8M0 (sb.getD j 127))).1 else v
    match o.scale with
    | some k => (Val.mul v (unpackF cFP32 k.toNat)).1
    | none => v
  let words := (List.range (m.rows * m.cols)).foldl (fun w e =>
    SMap.set 0 e (accumulate m.acc (SMap.getD m.words e 0) (sum (e / m.cols) (e % m.cols))) w) m.words
  let s := s.setMtile t { m with words := words }
  if waived then (s.modSlot o.slot fun x => { x with sw := x.sw ||| 0x80000000 }).bump 5 else s

/-- Write a line of a tile to the slice (10 R258); the flags. -/
def performMrd (s : State) (o : MatOp) (u : Nat) : State :=
  let m := s.mtile (o.tiles.headD 0)
  let c := o.fmt.toNat
  let w := fmtWidth c
  let n := rowLines m.cols o.fmt
  let perL := 512 / w
  let i := u / n
  let j0 := u % n * perL
  let cols := (List.range (Nat.min perL (m.cols - j0))).map (j0 + ·)
  let mode := swRM o.sw
  let elem (j : Nat) : Nat × FFlags :=
    let v := (SMap.getD m.words (i * m.cols + j) 0).toNat
    let draw := if mode = 4 then (keyHash o.seed (o.index + .ofNat 64 (i * m.cols + j))).toNat % 2 ^ 24 else 0
    let r : Rnd := ⟨mode, swSUB o.sw, draw⟩
    if m.acc then (convert 2 c false r v).getD (0, 0) else roundTo c r (unpackF cFP32 v)
  let es := cols.map elem
  let k := s.key (s.lineOf o u)
  let (v, mask) := layElems w (es.map fun e => some e.1)
  -- the half of a byte beyond the last element is left alone
  let bytes := (es.length * w + 7) / 8
  let old := leNat (s.seenBy o.slot s.mem k bytes)
  let v := v ||| (old - (old &&& mask))
  let s := s.storeFor o.slot (s.slot o.slot).strand k ((leBytes bytes v).map fun b => (true, b))
  let s : State := { s with core := { s.core with bufM := SMap.erase (k / 64) s.core.bufM } }
  s.modMat o.slot fun o => { o with flags := o.flags ||| swFlags (anyFlags (es.map (·.2))) }

/-- Add a line of the slice to a tile (10 R259). -/
def performMacc (s : State) (o : MatOp) (u : Nat) : State :=
  let t := o.tiles.headD 0
  let m := s.mtile t
  let c := o.fmt.toNat
  let w := fmtWidth c
  let n := rowLines m.cols o.fmt
  let perL := 512 / w
  let j0 := u % n * perL
  let (bytes, s) := s.loadFor o.slot (s.slot o.slot).strand (s.key (s.lineOf o u)) 64
  let v := leNat bytes
  -- an emulated floating source of an INT32 tile is converted first (02 R43)
  let x (v : Nat) : Val := if m.acc && 8 ≤ c then unpackF 2 (((convert c 2 false ⟨0, false, 0⟩ v).map (·.1)).getD 0) else unpackF c v
  let words := (List.range (Nat.min perL (m.cols - j0))).foldl (fun ws j =>
    let e := u / n * m.cols + j0 + j
    SMap.set 0 e (accumulate m.acc (SMap.getD m.words e 0) (x (elemAt w v j))) ws) m.words
  s.setMtile t { m with words := words }

/-- Stop an operation at its next unit (10 R256). -/
def stopOp (s : State) (o : MatOp) (c : Cause) : State :=
  (s.modMat o.slot fun o => { o with stop := some c }).after 2 (.matrixOpComplete o.slot)

/-- A unit is done: RIX names the next one; the last unit, or a park that waits, ends the operation 2 cc after its last
step (10 R255, R256). -/
def unitDone' (s : State) (o : MatOp) (u : Nat) : State :=
  let s := s.modSlot o.slot fun x => { x with sw := (x.sw &&& ~~~rixMask) ||| rixBits (u + 1) }
  if o.units ≤ u + 1 then s.after 3 (.matrixOpComplete o.slot)
  else if !(s.slot o.slot).parkAsked.isEmpty then
    (s.modMat o.slot fun o => { o with halt := true }).after 3 (.matrixOpComplete o.slot)
  else s

/-- One step of a slot's operation (10 R254). -/
def matrixStep (s : State) (o : MatOp) : State :=
  let i := o.slot
  let u := o.unitNow
  let step (s : State) : State := (s.modMat i fun o => { o with steps := o.steps + 1 }).bump 17
  match o.kind with
  | .mma | .mmj =>
    let t := o.steps % o.perUnit
    let lines := (if t = 0 then (o.linesP u ++ o.linesA (s.perLine o) u).filterMap fun l => SMap.find l o.latchA else [])
      ++ (SMap.find o.steps o.latchB).toList
    match lines.findSome? (·.bad) with
    | some c => s.stopOp o c
    | none =>
      let s := step s
      if t + 1 < o.perUnit then s
      else
        let s := s.performBlock o u
        -- the block's lines of B are used up
        let s := s.modMat i fun o => { o with latchB := o.latchB.filter fun x => decide (o.steps ≤ x.1) }
        s.unitDone' o u
  | .mrd | .macc =>
    let off := s.lineOf o u
    if s.bankState (off / 2 ^ 20) == 2 then s.stopOp o ⟨cGATED, 0, w64 off⟩
    else if s.bankState (off / 2 ^ 20) == 1 then s.startWake (bankOf off)
    else if o.kind == .macc && s.poisoned (s.key off) 64 then s.stopOp o ⟨cPOISON, 0, w64 off⟩
    else
      let s := step (s.serve off)
      if o.kind == .mrd then (s.performMrd o u).unitDone' o u else ((s.countReads 1).performMacc o u).unitDone' o u
  | .xpkd =>
    -- the bytes that the block may take: below the visible top, and before a GATED bank
    let top := s.rim.visibleTop
    let edge := (o.src / 2 ^ 20 + 1) * 2 ^ 20
    let shut := decide (edge < top) && s.bankState (edge / 2 ^ 20) == 2
    let n := Nat.min 53 ((if shut then edge else top) - o.src)
    let at_ (p : Nat) : Word := o.form.2 + w64 p
    let asleep (p : Nat) : Option (Fin 3) := if s.bankState (p / 2 ^ 20) == 1 then some (bankOf p) else none
    if top ≤ o.src then s.stopOp o ⟨cADDRESS, 0, at_ o.src⟩
    else if s.bankState (o.src / 2 ^ 20) == 2 then s.stopOp o ⟨cGATED, 0, at_ o.src⟩
    else if s.bankState (o.dst / 2 ^ 20) == 2 then s.stopOp o ⟨cGATED, 0, o.form.1 + w64 o.dst⟩
    else match [o.src, o.dst].findSome? asleep with
    | some b => s.startWake b
    | none =>
    let (bytes, s₁) := s.loadFor i (s.slot i).strand (s.key o.src) n
    match xpkDecode bytes with
    | .short => s.stopOp o (if shut then ⟨cGATED, 0, at_ edge⟩ else ⟨cADDRESS, 0, at_ top⟩)
    | .malformed => s.stopOp o ⟨cXPK, 0, at_ o.src⟩
    | .ok es len =>
      match asleep (o.src + len - 1) with
      | some b => s.startWake b
      | none =>
      if s.poisoned (s.key o.src) len then s.stopOp o ⟨cPOISON, 0, at_ o.src⟩
      else
        let s := step (s₁.serve o.dst)
        let s := s.storeFor i (s.slot i).strand (s.key o.dst) (es.map fun b => (true, b))
        let s := (s.setW i o.regs.1.toNat (o.form.1 + w64 (o.dst + 32))).setW i o.regs.2.toNat (at_ (o.src + len))
        let s := s.modMat i fun o => { o with dst := o.dst + 32, src := o.src + len }
        s.unitDone' o u

/-- The strand stands at the matrix head again, as before its issue (10 R256). -/
def rewindOp (s : State) (o : MatOp) : State :=
  let left (w : Window) : Nat := ((o.counts.find? fun c => c.1 == w.tag).map (·.2)).getD w.left
  s.modSlot o.slot fun x => { x with
    st := .ready, pc := o.info.fpc, fold := o.fold, loops := o.loops, windows := x.windows.map fun w => { w with left := left w } }

end State

/-! ## Tile instructions (10 R244 to R246) -/

def execMcfg (tile : BitVec 2) (keep acc : Bool) (afmt bfmt : BitVec 5) (rows1 cols1 : BitVec 6) (s : State) : Result :=
  let t := tile.toNat
  s.issueHead [] [(afmt, decide (afmt.toNat < 16)), (bfmt, decide (bfmt.toNat < 16)),
      (afmt, (matFormat acc afmt.toNat bfmt.toNat).isSome)] false fun s =>
    let m := s.mtile t
    if m.owner.isSome && m.owner != some s.issue.slot then s.raise cRANGE
    else .next (s.setMtile t { m with
      words := if keep then m.words else [], configured := true, acc := acc, afmt := afmt, bfmt := bfmt
      rows := rows1.toNat + 1, cols := cols1.toNat + 1, owner := some s.issue.slot, live := false })

def execMclr (mask : BitVec 4) (s : State) : Result :=
  s.issueHead [] [] false fun s =>
    let ts := [0, 1, 2, 3].filter mask.getLsbD
    if ts.any fun t => !s.ownTile t then s.raise cRANGE
    else .next (ts.foldl (fun s t => s.setMtile t { s.mtile t with words := [] }) s)

/-- A tile's status word; CONF is at its reset value 0 until the tile is configured (10 R246). -/
def tileStatus (t : Nat) (m : MTile) : Word :=
  let conf := if m.configured then
      t * 2 ^ 38 + m.acc.toNat * 2 ^ 36 + m.afmt.toNat * 2 ^ 31 + m.bfmt.toNat * 2 ^ 26 + (m.rows - 1) * 2 ^ 20 + (m.cols - 1) * 2 ^ 14
    else 0
  w64 (m.configured.toNat * 2 ^ 63 + m.owner.isSome.toNat * 2 ^ 62 + m.live.toNat * 2 ^ 61
    + (m.owner.map Fin.val).getD 0 * 2 ^ 56 + conf)

def execMres (d : Reg) (tile : BitVec 2) (s : State) : Result :=
  s.issueHead [.dst d] [] false fun s => .next (s.writeW d (tileStatus tile.toNat (s.mtile tile.toNat)))

def execMresRelease (d : Reg) (tile : BitVec 2) (s : State) : Result :=
  s.issueHead [.dst d] [] false fun s =>
    let t := tile.toNat
    if !s.ownTile t then s.raise cRANGE
    else .next ((s.writeW d (tileStatus t (s.mtile t))).setMtile t { s.mtile t with owner := none, live := false })

/-! ## Products (10 R247 to R253, R257) -/

/-- The index quad: four vector registers from a multiple of 4, no port (10 R247). -/
def indexQuad (a : Reg) : Opd := ((Opd.vsrc a).span 4).noPort

/-- The selected plane of an operand's descriptor words: whether it is present, and its offset (10 R249). -/
def planeOf (row col : Word) (rowFirst : Bool) : Bool × Nat :=
  let w := if row.getLsbD 62 == rowFirst then col else row
  (w.getLsbD 63, bits w.toNat 21 0)

def execMma (a b c : Reg) (tile : BitVec 2) (kb1 : BitVec 6) (mx sc : Bool) (desc : BitVec 22) (s : State) : Result :=
  s.issueHead ([indexQuad a, (Opd.src b).noPort] ++ if sc then [.third c] else []) [] false
    (extra := a.toNat % 4 == 0 && decide (a.toNat < 16) && !s.issue.info.pair) fun s₁ =>
    let t := tile.toNat
    let m := s₁.mtile t
    let (k, s₂) := if sc then s₁.readW c else (0, s₁)
    match matFormat m.acc m.afmt.toNat m.bfmt.toNat with
    | none => s.raise cRANGE
    | some (steps, per, mxOk, scOk) =>
      if !s₁.ownTile t then s.raise cRANGE
      else if (mx && !mxOk) || (sc && !scOk) then s.raise cRANGE
      else if sc && (scaleOf k).isNone then s.raise cSCALE
      else match s₁.localOffset (s₁.regW b.toNat) with
      | none => s.raise cADDRESS (s₁.regW b.toNat)
      | some base =>
        let blocks := kb1.toNat + 1
        let rows := s₁.indexRows a m.rows
        let d := desc.toNat
        let words := (List.range 4).map fun i => w64 (natAt s₁.rdMem (s₁.key (d + 8 * i)) 8)
        let (okA, pa) := planeOf (words.getD 0 0) (words.getD 1 0) true
        let (okB, pb) := planeOf (words.getD 2 0) (words.getD 3 0) false
        -- the planes are known from the descriptor, which a GATED bank does not give
        let planes := if (s₁.rangesFail [(d, 32, 1)]).isSome then [] else [(pa, 64 * blocks, 64), (pb, 64 * blocks, 64)]
        let ranges := (base, 64 * steps * blocks, 64) :: rows.map (fun r => (r, 4 * fmtWidth m.afmt.toNat * blocks, 64))
          ++ (if mx then (d, 32, 32) :: planes else [])
        match s₁.rangesFail ranges with
        | some (code, addr) => s.raise code addr
        | none =>
          let start (s₂ : State) : Result :=
            if mx && s₁.poisoned (s₁.key d) 32 then s.raise cPOISON (w64 d)
            else if mx && !(okA && okB) then s.raise cPLANE
            else
              let o := { s₁.newOp .mma [t] blocks steps with
                rowsA := rows, base := base, mx := mx, scale := if sc then some (k.setWidth 32) else none
                planeA := pa, planeB := pb }
              .next (s₂.startOp o per)
          if !mx then start s₂
          else if s₁.payloadHeld d 32 then s.forfeit
          else match s₁.bankCheck d 32 with
            | some (.waking w) => (s.startWake w).forfeit
            | _ => match s₂.grant d true with
              | .ok s₂ => start s₂
              | .forfeit => s.forfeit
              | .bubble => s.bubble

/-- Jet product C = A·B at the order JO read at issue, m0 to mJO as its coefficient planes. -/
def execMmj (a b c : Reg) (kb1 : BitVec 6) (s : State) : Result :=
  s.issueHead [indexQuad a, (Opd.src b).noPort, .third c] [] false
    (extra := a.toNat % 4 == 0 && decide (a.toNat < 16) && !s.issue.info.pair) fun s₁ =>
    let m := s₁.mtile 0
    let jo := swJO s₁.rdSw
    let (strides, s₂) := s₁.readW c
    let sa := bits strides.toNat 31 0
    let sb := bits strides.toNat 63 32
    let blocks := kb1.toNat + 1
    if !s₁.ownTile 0 then s.raise cRANGE
    else if 3 < jo then s.raise cJET
    else match (if m.acc && s.me.emulate.isNone then none else matFormat m.acc m.afmt.toNat m.bfmt.toNat) with
    | none => s.raise cFORMAT 0 (m.afmt.setWidth 32)
    | some (steps, per, _, _) =>
      let same (t : Nat) : Bool :=
        let n := s₁.mtile t
        s₁.ownTile t && n.rows == m.rows && n.cols == m.cols && n.acc == m.acc && n.afmt == m.afmt && n.bfmt == m.bfmt
      if 16 < blocks then s.raise cRANGE
      else if !((List.range (jo + 1)).all same) then s.raise cRANGE
      else match s₁.localOffset (s₁.regW b.toNat) with
      | none => s.raise cADDRESS (s₁.regW b.toNat)
      | some base =>
        let rows := s₁.indexRows a m.rows
        let ranges := (List.range (jo + 1)).flatMap fun i =>
          (base + i * sb, 64 * steps * blocks, 64) :: rows.map fun r => (r + i * sa, 4 * fmtWidth m.afmt.toNat * blocks, 64)
        let skew := sa % 64 != 0 || sb % 64 != 0
        match s₁.rangesFail ranges with
        | some (code, addr) => if code == cADDRESS || !skew then s.raise code addr else s.raise cMISALIGNED (s₁.regW b.toNat)
        | none =>
          if skew then s.raise cMISALIGNED (s₁.regW b.toNat)
          else
            let o := { s₁.newOp .mmj (List.range (jo + 1)) (blocks * (jetPairs jo).length) steps with
              rowsA := rows, base := base, sa := sa, sb := sb, jo := jo }
            .next (s₂.startOp o per)

/-! ## Reading, loading and expanding (10 R258 to R260) -/

/-- The checks and start of `MRD` and `MACC`, with the formats that each accumulator accepts. -/
def State.tileRows (s : State) (kind : MatKind) (a b : Reg) (tile : BitVec 2) (fmt : BitVec 5)
    (floats ints : List Nat) : Result :=
  s.issueHead ([(Opd.src a).noPort, (Opd.src b).noPort] ++ if kind == .mrd then drawOpd s.rdSw else [])
    [(fmt, decide (fmt.toNat < 16))] false (extra := !s.issue.info.pair) fun s =>
    let t := tile.toNat
    let m := s.mtile t
    let x := s.regW a.toNat
    let pitch := (s.regW b.toNat).toNat
    let bytes := rowBytes m.cols fmt
    if !s.ownTile t then s.raise cRANGE
    else if !(if m.acc then ints else floats).contains fmt.toNat && s.me.emulate.isNone then s.raise cFORMAT 0 (fmt.setWidth 32)
    else if pitch < bytes then s.raise cRANGE
    else match s.localOffset x with
    | none => s.raise cADDRESS x
    | some off =>
      let skew := off % 64 != 0 || pitch % 64 != 0
      let start :=
        let o := { s.newOp kind [t] (m.rows * rowLines m.cols fmt) 1 with base := off, pitch := pitch, fmt := fmt }
        Host.Outcome.next (s.startOp o 1)
      match s.rangesFail ((List.range m.rows).map fun i => (off + i * pitch, bytes, 1)) with
      | some (code, addr) => if code == cADDRESS || !skew then s.raise code addr else s.raise cMISALIGNED x
      | none => if skew then s.raise cMISALIGNED x else start

def execMrd (a b : Reg) (tile : BitVec 2) (fmt : BitVec 5) (s : State) : Result :=
  s.tileRows .mrd a b tile fmt [8, 9, 10, 11, 12, 13] [0, 1, 2, 3, 4, 5, 6, 7, 8]

def execMacc (a b : Reg) (tile : BitVec 2) (fmt : BitVec 5) (s : State) : Result :=
  s.tileRows .macc a b tile fmt [8, 9, 10] [2]

def execXpkd (d a : Reg) (x : Byte) (s : State) : Result :=
  s.issueHead [(Opd.acc d).noPort, (Opd.src a).noPort] [] false (extra := d != a && !s.issue.info.pair) fun s =>
    let n := x.toNat + 1
    let dst := s.regW d.toNat
    let src := s.regW a.toNat
    match s.localOffset dst with
    | none => s.raise cADDRESS dst
    | some off =>
      match s.rangesFail [(off, 32 * (n - swRIX s.rdSw), 32)] with
      | some (code, addr) => s.raise code addr
      | none =>
        let o := { s.newOp .xpkd [] n 1 with
          dst := off, src := (s.localOffset src).getD s.rim.visibleTop, regs := (d, a)
          form := (dst - w64 off, src - w64 ((s.localOffset src).getD s.rim.visibleTop)) }
        .next (s.startOp o 1)

/-! ## Events -/

/-- A step of a live operation, when the operands of its next step are in the latch (10 R254). -/
def execMatrixStep (slot : Fin 16) (s : State) : Result :=
  match s.matOf slot with
  | none => .next s
  | some o => if s.matrixReady slot then .next (s.matrixStep o) else .next s

/-- The gather unit's accesses of one cycle, again in the next while lines are wanted (10 R255). -/
def execGatherFetch (s : State) : Result :=
  let order := (List.range 16).map fun n => s.core.gatherRot + 1 + Fin.ofNat 16 n
  let s := s.gatherRound order
  .next (if s.core.mat.any State.gathers then s.after 1 .gatherFetch else s)

/-- The operation ends: it is complete and the strand is READY with RIX zero, or it has stopped and traps at its head, or a
park has ended it at its head (10 R255, R256). -/
def execMatrixOpComplete (slot : Fin 16) (s : State) : Result :=
  match s.matOf slot with
  | none => .next s
  | some o =>
    let s : State := { s with core := { s.core with mat := s.core.mat.filter fun p => p.slot != slot } }
    let s := s.modSlot slot fun x => { x with sw := x.sw ||| o.flags }
    match o.stop with
    | some c =>
      let s := s.rewindOp o
      .next (s.takeTrap slot c o.info o.info.fpc o.npc o.fold)
    | none =>
      if o.halt then
        let s := s.rewindOp o
        .next (if (s.slot slot).parkAsked.isEmpty then s
          else if (s.speculative slot).isSome then s.parkTask slot else s.parkNow slot)
      else
        let s := o.tiles.foldl (fun s t => s.setMtile t { s.mtile t with live := false }) s
        .next (s.modSlot slot fun x => { x with st := .ready, sw := x.sw &&& ~~~rixMask })

end Sys2Proof.Machine
end

