-- ==== Sys2Proof/Machine/Notch.lean ====
section
/-! DEFINITION. Notches, the hinge shadow, the checkpoint instructions and the watchdogs (19 R430 to R457). -/

namespace Sys2Proof.Machine

namespace State

def modNotch (s : State) (f : Notch → Notch) : State := { s with tile := { s.tile with notch := f s.tile.notch } }

/-! ## The schedule (19 R431, R433) -/

/-- The notch interval. -/
def niv (s : State) : Nat := 2 ^ s.tile.niv.toNat

/-- Tile cycles from cycle c to the next notch point after it (19 R431). -/
def toNotch (s : State) (c : Nat) : Nat :=
  let first := s.core.ltn * 1024 % s.niv
  s.niv - (c + s.niv - first) % s.niv

/-- Is tile cycle c a notch point? -/
def isNotchPoint (s : State) (c : Nat) : Bool :=
  decide (0 < c) && (c + s.niv - s.core.ltn * 1024 % s.niv) % s.niv == 0

/-- Does the tile take notches: it holds a launch of a stand with notches (19 R431)? -/
def takesNotches (s : State) : Bool := s.ckp != 2 && s.tileTaken

/-- Bytes of half a shadow (19 R437); a folded tile has half of every core's part (20 R479). -/
def halfBytes (s : State) : Nat :=
  let n := 3 * 2 ^ 20 - s.rim.visibleTop
  if s.rim.foldMate.isSome then 4 * n else 8 * n

/-- The fill of the current half (19 R437): log bytes, and 72 for each line of the dirty map. Of the state lines, whose
layout the manual does not give, none are counted (log entry 29). -/
def fill (s : State) : Nat :=
  (s.tile.notch.log.map fun r => 8 + 8 * r.words.length).sum + 72 * s.tile.notch.dirty.length

/-- Has the fill reached seven eighths? -/
def nearlyFull (s : State) : Bool := decide (7 * s.halfBytes ≤ 8 * s.fill)

/-! ## The notch machine (19 R439) -/

/-- The tile enters CAPTURE: it is frozen for 8 core-clock cycles and one for every 16 dirty state lines, whose number the
manual leaves to their layout (log entry 1). -/
def beginCapture (s : State) : State :=
  let lines := (Config.freeValue s.fresh).toNat % 65537
  let s : State := { s with fresh := s.fresh + 1, tile := { s.tile with frozen := true } }
  (s.modNotch fun n => { n with st := .capture, frozenFor := 0 }).afterClk (8 + (lines + 15) / 16) .notchCapture

/-- A notch is due: the tile waits for the fold, or for the copy of the notch before, or captures. -/
def notchDue (s : State) : State :=
  let wait (st : NotchState) : State :=
    ({ s with tile := { s.tile with frozen := true } } : State).modNotch fun n => { n with st := st, frozenFor := 0 }
  match s.tile.notch.st with
  | .run => if s.tile.notch.folding.isEmpty then s.beginCapture else wait .waitFold
  | .copy | .commit => wait .waitCopy
  | _ => s

/-- Zero a line with its metadata and poison (19 R435). -/
def zeroLine (s : State) (line : Nat) : State :=
  let s := (s.write none (line * 64) (List.replicate 64 0)).writeMeta line 0
  { s with poison := SMap.erase line s.poison }

/-- Zero the exclusion ranges; those that leave are then dropped (19 R435). -/
def zeroExclusions (s : State) : State :=
  let s := s.core.excl.foldl (fun s (_, x) =>
    (List.range x.lines).foldl (fun s i => s.zeroLine (s.key x.base / 64 + i)) s) s
  { s with core := { s.core with excl := s.core.excl.filter fun x => !x.2.removed } }

/-- The state lines of an image (19 R434). -/
def stateLines (s : State) : Image := { s.imageOf with mem := [], metas := [], poison := [] }

/-- The END record closes the interval (19 R446). -/
def endRecord (s : State) : LogRec :=
  let n := s.tile.notch
  ⟨w64 (10 * 2 ^ 58 + 2 ^ 40 + (s.tile.cycle - n.opened) % 2 ^ 32), [w64 n.n], none, s.tile.cycle⟩

/-- One delta entry goes into the base image (19 R442). -/
def foldEntry (b : Image) (e : Nat × BitVec 16 × Bool × List Byte) : Image :=
  let (line, m, p, data) := e
  { b with
    mem := putBytes b.mem (line * 64) data
    metas := SMap.set 0 line m b.metas
    poison := if p then SMap.put line () b.poison else SMap.erase line b.poison }

/-! ## Exclusion ranges (19 R455) -/

/-- Regions of the slice that an exclusion range may not meet. -/
def guarded (s : State) : List (Nat × Nat) :=
  s.rim.sections ++ [(s.rim.twb.toNat, 16384)]
    ++ (s.core.thv.toList.filter (·.getLsbD 63)).map (fun v => (bits v.toNat 53 32, 16384))
    ++ (s.core.dq.toList.filter (·.valid)).map (fun q => (q.base.toNat, 32 * 2 ^ q.log2cap))
    ++ [(s.core.deque.base.toNat, 64 * s.core.deque.ovfn), (s.core.bucker.base.toNat, 64 * s.core.bucker.lines)]

/-! ## Watchdogs (19 R450) -/

/-- The head that a slot waits at. -/
def waitHead (s : State) (i : Fin 16) : BitVec 22 :=
  let x := s.slot i
  match x.st, x.waitAt with
  | .sleep, some (pc, _, _) => pc
  | _, _ => x.pc

/-- Has a slot's wait count reached the limit? -/
def waitedOut (s : State) (i : Fin 16) : Bool :=
  let x := s.slot i
  !x.exempt && !x.bucker && x.st != .empty && x.st != .parked && x.st != .matrix && (match x.waitFrom with
    | some c => decide (c + 2 ^ s.tile.wdl.toNat ≤ s.tile.cycle)
    | none => false)

end State

/-! ## Heads -/

/-- Asks for an early notch (19 R453). -/
def execNotch (s : State) : Result :=
  s.issueHead [] [] false fun s =>
    .next (if s.ckp = 2 then s else (s.modNotch fun n => { n with asked := true }).after 1 .earlyNotch)

/-- Reads the notch machine (19 R454); what the wafer sets outside the tile is logged (R449). -/
def execNotchrd (d : Reg) (n : BitVec 5) (s : State) : Result :=
  s.issueHead [(Opd.dst d).noPort] [] false (extra := decide (n.toNat < 6)) fun s =>
    let m := s.tile.notch
    let status := m.cnum % 2 ^ 32 * 2 ^ 32 + (m.st == .copy || m.st == .waitCopy).toNat * 2 ^ 30 + m.half.toNat * 2 ^ 29
      + m.asked.toNat * 2 ^ 28 + min 255 (256 * s.fill / s.halfBytes)
    let (v, s) : Word × State := match n.toNat with
      | 0 => s.valueRead (w64 status)
      | 1 => (w64 (s.tile.cycle - m.opened), s)
      | 2 => (w64 (s.toNotch s.tile.cycle), s)
      | 3 => (w64 m.nnum, s)
      | 4 => s.valueRead (w64 m.cnum)
      | _ => s.valueRead (w64 m.recoveries)
    .next (s.setW s.issue.slot d.toNat v)

/-- Sets or removes an exclusion range, from the next notch on (19 R455). -/
def execCkexcl (a : Reg) (r : BitVec 2) (n : BitVec 16) (s : State) : Result :=
  s.issueHead [(Opd.src a).noPort] [] false fun s =>
    let ea := s.regW a.toNat
    let bytes := 64 * n.toNat
    if decide (n ≠ 0) && (s.addrFails ea bytes 1 true).isSome then s.raise cADDRESS ea
    else if ea.toNat % 64 ≠ 0 then s.raise cMISALIGNED ea
    else if n = 0 then
      .next { s with core := { s.core with excl := s.core.excl.map fun (k, x) =>
        if k = r.toNat then (k, { x with removed := true }) else (k, x) } }
    else
      let off := bits ea.toNat 21 0
      if s.guarded.any fun g => overlap g (off, bytes) then s.raise cRANGE
      else .next { s with core := { s.core with excl := SMap.put r.toNat ⟨off, n.toNat, false⟩ s.core.excl } }

/-- Exempts the slot's next wait from the watchdog (19 R456). -/
def execWdpet (s : State) : Result := s.issueHead [] [] false fun s => .next (s.modMe fun x => { x with exempt := true })

/-! ## Events -/

/-- A notch point (19 R431). -/
def execNotchPoint (s : State) : Result := .next (if s.takesNotches then s.notchDue else s)

/-- An early notch (19 R433): asked for while a copy runs, it begins when that notch commits (R453). -/
def execEarlyNotch (s : State) : Result :=
  if !s.takesNotches then .next s
  else if s.nearlyFull then .next s.notchDue
  else if s.tile.notch.asked && s.tile.notch.st == .run then .next s.notchDue
  else .next s

/-- The capture ends (19 R439): exclusions are zeroed, the interval's record is written, the dirty map is frozen and a new
one begins, and the tile runs on in the other half. -/
def execNotchCapture (s : State) : Result :=
  if s.tile.notch.st != .capture then .next s
  else
    let s := s.zeroExclusions
    let e := s.endRecord
    let s : State := { s with tile := { s.tile with frozen := false } }
    let s := s.modNotch fun n => { n with
      st := .copy, half := !n.half, frozenMap := n.dirty.map (·.1), dirty := [], delta := []
      prevLog := n.prevLog ++ n.log ++ [e], log := [], total := n.total + 1, opened := s.tile.cycle, asked := false
      nnum := n.nnum + 1, frozenFor := 0 }
    let s := s.after 46 (.hingeAcknowledgement s.tile.notch.total)
    .next (({ s with captured := some s.stateLines } : State).afterClk 1 .notchCopyLine)

/-- One line of the frozen map is sent, with its contents as at the notch (19 R439, R440); after the last, the hinge has
acknowledged every entry one unloaded round trip later (log entry 7). -/
def execNotchCopyLine (s : State) : Result :=
  if s.tile.notch.st != .copy && s.tile.notch.st != .waitCopy then .next s
  else match s.tile.notch.frozenMap with
  | [] => .next (s.afterClk 46 .notchCommit)
  | l :: ls =>
    let e := s.lineImage l
    .next ((s.modNotch fun n => { n with delta := n.delta ++ [e], frozenMap := ls }).afterClk 1 .notchCopyLine)

/-- The notch becomes the recovery point, and its fold begins (19 R439, R441). -/
def execNotchCommit (s : State) : Result :=
  let n := s.tile.notch
  if (n.st != .copy && n.st != .waitCopy) || !n.frozenMap.isEmpty then .next s
  else
    let waiting := n.st == .waitCopy
    let s := s.modNotch fun n => { n with
      st := if waiting then .waitFold else .run, folding := n.delta, delta := [], prevLog := [], cnum := n.cnum + 1, n := n.n + 1 }
    let s : State := { s with recovery := s.captured, captured := none }
    let s := if n.asked && !waiting then s.after 0 .earlyNotch else s
    .next (s.afterClk 1 .shadowFold)

/-- One delta entry is folded into the base image, in entry order; a notch that waits for the end of the fold then captures
(19 R439, R442). -/
def execShadowFold (s : State) : Result :=
  match s.tile.notch.folding with
  | [] => .next (if s.tile.notch.st == .waitFold then s.beginCapture else s)
  | e :: es =>
    let s : State := { s with base := s.base.map fun b => State.foldEntry b e }
    .next ((s.modNotch fun n => { n with folding := es }).afterClk 1 .shadowFold)

/-- A rebase (19 R443): the whole image goes into the base image and becomes the recovery point; the log starts again in
half 0. -/
def execRebase (s : State) : Result :=
  if !s.takesNotches || s.rim.recovery.isSome then .next s
  else
    .next ({ s with tile := { s.tile with frozen := !s.rim.resident } } : State).rebased

/-- The launch ends with WAIT_EXPIRED, whose FPC names the head waited at (19 R450). -/
def execWaitExpired (slot : Fin 16) (s : State) : Result :=
  .next (if s.waitedOut slot then
    s.afterClk 0 (.launchEnd ⟨.ofNat 64 s.standNo, some ⟨0x140, s.waitHead slot, s.core.ltn, s.core.num, slot.val⟩⟩) else s)

/-- The tile has made no progress for WDL cycles: a tile fault (19 R451). -/
def execTileWatchdog (s : State) : Result :=
  .next (if 2 ^ s.tile.wdl.toNat ≤ s.tile.progress then s.afterClk 0 (.tileFault .watchdog s.core.num 0) else s)

end Sys2Proof.Machine
end

