-- ==== Sys2Proof/Machine/Recovery.lean ====
section
/-! DEFINITION. Tile faults and the recovery of the modelled tile: lockout, the choice of a site, restore, replay, binding,
release, folding, and the catch (20 R460 to R483). -/

namespace Sys2Proof.Machine

namespace State

/-! ## Sites (20 R466, R469, R478) -/

/-- Manhattan distance of two sites. -/
def siteDist (a b : Nat) : Nat := dist (a / 32) (b / 32) + dist (a % 32) (b % 32)

/-- Do two fields share an edge? -/
def adjacent (a b : Nat) : Bool := dist (a / 4) (b / 4) + dist (a % 4) (b % 4) == 1

/-- The order in which saplings are taken: the failed site's own field first, then by distance, then, beyond it, by field,
then by row and column (20 R469). -/
def saplingRank (failed site : Nat) : Nat :=
  let other := fieldOf site ≠ fieldOf failed
  ((if other then 1 else 0) * 2 ^ 20 + siteDist failed site * 2 ^ 14 + (if other then fieldOf site else 0) * 2 ^ 10) + site

/-- The least element of a list by a rank. -/
def least (rank : Nat → Nat) : List Nat → Option Nat
  | [] => none
  | a :: l => match least rank l with
    | none => some a
    | some b => some (if rank a ≤ rank b then a else b)

/-- The sapling that a recovery takes. -/
def sapling (s : State) (failed : Nat) : Option Nat :=
  least (saplingRank failed) (s.rim.saplings.filter fun x => !s.rim.retired.contains x)

/-- The host of a fold (20 R478): the nearest live tile of the stand, on a tie the lower LTN. -/
def foldHost (s : State) (failed : Nat) : Option Nat :=
  least (fun n => siteDist failed (s.siteOf n) * 1024 + n) ((List.range s.rim.held).filter fun n =>
    inRect s.standRect n && n != s.core.ltn && (s.keyOf n).st == .bound && !(s.keyOf n).fold)

/-! ## Records (20 R483) -/

def kindCode : FaultKind → Nat
  | .checker => 1 | .residue => 2 | .state => 3 | .ward => 4 | .watchdog => 5 | .link => 6 | .power => 7

/-- A site as a fault record holds it. -/
def siteField (site : Nat) : Nat := site / 32 % 32 * 32 + site % 32

/-- A fault record goes to the audit log and counts in the launch. -/
def faultRecord (s : State) (r : Recovery) (outcome : Nat) : State :=
  let withFpc := r.kind == FaultKind.ward || r.kind == FaultKind.checker
  let words := [w64 (kindCode r.kind * 2 ^ 56 + outcome * 2 ^ 48 + s.standNo % 64 * 2 ^ 42 + s.core.ltn % 4096 * 2 ^ 30
      + siteField r.oldSite * 2 ^ 20 + siteField r.newSite * 2 ^ 10), w64 r.notch, w64 r.fcyc, w64 (nanos (s.clk - r.since)),
    w64 ((if r.core < 16 then r.core else 2 ^ 32 - 1) * 2 ^ 32 + (if withFpc then r.fpc else 0)), 0, 0, 0]
  (s.audit words).modLaunch (fun l => l.st == .running && l.stand == s.standNo) fun l => { l with faults := l.faults + 1 }

/-! ## The recovery -/

def modRecovery (s : State) (f : Recovery → Recovery) : State :=
  { s with rim := { s.rim with recovery := s.rim.recovery.map f } }

/-- The tile port is gated (20 R466): no packet leaves the tile or reaches it. -/
def locked (s : State) : Bool := s.rim.recovery.isSome

/-- Is the restored tile replaying (20 R471)? -/
def replays (s : State) : Bool := match s.rim.recovery with
  | some r => r.stage == .replay
  | none => false

/-- The state of the recovery point, on the new site (20 R470): the base image with the delta entries not yet folded, and the
state lines of the notch. What the launch's own agents hold outside the tile stays. -/
def restoreImage (s : State) (b r : Image) : State :=
  let old := s.tile.notch
  let b := old.folding.foldl foldEntry b
  let s := s.clearSlices fun _ => true
  let n := { r.tile.notch with
    st := .run, n := r.tile.notch.nnum + 1, cnum := r.tile.notch.nnum, dirty := [], frozenMap := [], delta := [], folding := []
    log := [], prevLog := [], recoveries := old.recoveries, asked := false, frozenFor := 0 }
  let n : Notch := { n with folding := old.folding }
  { s with
    core := r.core
    tile := { r.tile with
      frozen := true, keyring := s.tile.keyring, notch := n, replay := old.prevLog ++ old.log, acked := r.tile.notch.total }
    agenda := r.agenda, fresh := r.fresh
    mem := b.mem.foldl (fun m c => SMap.set 0 c.1 c.2 m) s.mem
    metas := b.metas.foldl (fun m c => SMap.set 0 c.1 c.2 m) s.metas
    poison := b.poison.foldl (fun m c => SMap.put c.1 () m) s.poison }

/-- The tile is restored and begins its replay, or cannot be (20 R472). -/
def restoreOr (s : State) (folded : Bool) : State :=
  match s.base, s.recovery with
  | some b, some r =>
    ((s.restoreImage b r).modRecovery fun x => { x with stage := .restore, folded := folded }).afterClk 1 .replay
  | _, _ => s.afterClk 0 .recoveryFail

/-- The stand's launch ends for a fault: with WARD for a recurring ward fault, else with TILE_FAULT (20 R461). -/
def faultEnds (s : State) (r : Recovery) (ward : Bool) : State :=
  s.afterClk 0 (.launchEnd ⟨.ofNat 64 s.standNo,
    some ⟨if ward then cWARD else cTILEFAULT, if ward then .ofNat 22 r.fpc else 0, s.core.ltn, r.core, 0⟩⟩)

/-- A write from outside reaches a slice of this core. -/
def writeSlice (s : State) (core : Nat) (off : BitVec 22) (data : List Byte) (poison : Bool) : State :=
  if core = s.core.num then s.write none (s.key off.toNat) data poison else s

end State

/-! ## Events: detection -/

/-- A tile fault (20 R460, R461, R465, R466): the tile freezes, its site is locked out for good and its own events are
cancelled, and a recovery begins, unless the fault recurs or the stand has no notches. A fault of the new site during a
restore or a replay takes the recovery back to the choice of a site. -/
def execTileFault (kind : FaultKind) (core fpc : Nat) (s : State) : Result :=
  let site := s.siteOf s.core.ltn
  let retired := if s.rim.retired.contains site then s.rim.retired else s.rim.retired ++ [site]
  if !s.tileTaken && !s.locked then .next { s with rim := { s.rim with retired := retired } }
  else match s.rim.recovery with
  | some r =>
    let again := r.stage == .restore || r.stage == .replay
    let s := (s.modRecovery fun r => { r with stage := if again then .select else r.stage })
    let s : State := { s with rim := { s.rim with retired := s.rim.retired ++ [r.newSite] }, tile := { s.tile with frozen := true } }
    .next (if again then s.afterClk 1 .select else s)
  | none =>
    let f := s.tile.cycle
    let n := s.tile.notch.cnum
    let r : Recovery := ⟨.lockout, kind, core, fpc, f, site, site, false, [], n, s.clk⟩
    let recurs := match s.rim.lastFault with
      | some (k, m, c, x) => k == kind && m == s.tile.notch.nnum && c == f && x != site && kind != FaultKind.link && kind != FaultKind.power
      | none => false
    let s : State := { s with
      tile := { s.tile with frozen := true }
      rim := { s.rim with retired := retired, lastFault := some (kind, s.tile.notch.nnum, f, site) } }
    if recurs then .next ((s.faultRecord r 3).faultEnds r (kind == FaultKind.ward))
    else if s.ckp = 2 then .next ((s.faultRecord r 2).faultEnds r false)
    else
      let s := s.bindRect (State.tileRect s.core.ltn) fun _ k => { k with st := .held }
      let s : State := { s with agenda := [], captured := none, rim := { s.rim with recovery := some r } }
      .next ((s.modRecovery fun r => { r with stage := .hold }).afterClk 1 .select)

/-- A field's power is lost: a fault of each of its tiles (20 R460). -/
def execFieldPowerLoss (field : Nat) (s : State) : Result :=
  let s : State := { s with rim := { s.rim with saplings := s.rim.saplings.filter fun x => State.fieldOf x != field } }
  if State.fieldOf (s.siteOf s.core.ltn) = field then execTileFault .power 16 0 s else .next s

/-- A site that no link and no router reaches: a fault of its tile (20 R460). -/
def execSiteUnreachable (row col : Nat) (s : State) : Result :=
  let site := 32 * row + col
  let s : State := { s with rim := { s.rim with saplings := s.rim.saplings.filter (· != site) } }
  if s.siteOf s.core.ltn = site then execTileFault .link 16 0 s else .next s

/-- The hinge has acknowledged the first n records: packets that wait for them leave (20 R462). -/
def execHingeAcknowledgement (n : Nat) (s : State) : Result :=
  let acked := max s.tile.acked n
  let ready := s.tile.waitingAck.filter fun w => decide (w.1 ≤ acked)
  let s : State := { s with tile := { s.tile with
    acked := acked, waitingAck := s.tile.waitingAck.filter fun w => !decide (w.1 ≤ acked) } }
  .next (ready.foldl (fun s (_, d, i) => s.after d i) s)

/-! ## Events: the Sawyer -/

/-- A sapling, or else a host to fold on, is chosen (20 R469, R478). -/
def execSelect (s : State) : Result :=
  match s.rim.recovery with
  | none => .next s
  | some r =>
    if r.stage != .hold && r.stage != .select then .next s
    else match s.sapling r.oldSite with
    | some x =>
      let s := s.modRecovery fun r => { r with stage := .select, newSite := x }
      .next (({ s with rim := { s.rim with saplings := s.rim.saplings.filter (· != x) } } : State).afterClk 1 .restore)
    | none =>
      match s.foldHost r.oldSite with
      | none => .next (s.afterClk 0 .recoveryFail)
      | some h =>
        let s := s.modRecovery fun r => { r with stage := .fold, newSite := s.siteOf h }
        let s := s.bindRect (State.tileRect h) fun _ k => { k with fold := true }
        .next (({ s with rim := { s.rim with foldMate := some h } } : State).afterClk 1 .foldTile)

/-- The image of the recovery point is rebuilt on the sapling (20 R470). -/
def execRestore (s : State) : Result :=
  match s.rim.recovery with
  | none => .next s
  | some r => .next (if r.stage == .select then s.restoreOr false else s)

/-- The failed tile is restored on the fold host (20 R479). -/
def execFoldTile (s : State) : Result :=
  match s.rim.recovery with
  | none => .next s
  | some r => .next (if r.stage == .fold then s.restoreOr true else s)

/-- The restored tile runs from the recovery point with its log (20 R471): up to the cycle before the fault. -/
def execReplay (s : State) : Result :=
  match s.rim.recovery with
  | none => .next s
  | some r =>
    if r.stage != .restore then .next s
    else .next ({ s with tile := { s.tile with frozen := false } }.modRecovery fun r => { r with stage := .replay })

/-- The new site is written into the entry, which stays HELD (20 R465). -/
def execBind (s : State) : Result :=
  match s.rim.recovery with
  | none => .next s
  | some r =>
    if r.stage != .replay then .next s
    else
      let s : State := { s with tile := { s.tile with replay := [] } }
      let s := s.bindRect (State.tileRect s.core.ltn) fun _ k => { k with
        srow := r.newSite / 32, scol := r.newSite % 32, fold := k.fold || r.folded }
      let s : State := { s with rim := { s.rim with sites := SMap.put s.core.ltn r.newSite s.rim.sites } }
      .next ((s.modRecovery fun r => { r with stage := .bind }).afterClk 1 .release)

/-- The entry is BOUND again, the catch is delivered in its order, and the tile runs live (20 R467, R473, R476). -/
def execRelease (s : State) : Result :=
  match s.rim.recovery with
  | none => .next s
  | some r =>
    if r.stage != .bind then .next s
    else
      let s := s.faultRecord r r.folded.toNat
      let s := s.bindRect (State.tileRect s.core.ltn) fun _ k => { k with st := .bound }
      let s : State := { s with
        rim := { s.rim with recovery := none, foldQuantum := 0 }, tile := { s.tile with frozen := false, replay := [] } }
      let s := s.modNotch fun n => { n with recoveries := n.recoveries + 1 }
      let s := r.catch_.foldl (fun s c => s.after 0 (.catchStore c)) s
      let hinge := r.oldSite / 32 * 32 + (r.oldSite % 32 ^^^ 8)
      .next (if State.adjacent (State.fieldOf hinge) (State.fieldOf r.newSite) then s else s.afterClk 1 .rebase)

/-- Traffic for the tile (20 R467): kept while the tile is locked out, else consumed and logged. -/
def execCatchStore (c : CatchItem) (s : State) : Result :=
  if s.locked && !s.replays then
    .next (s.modRecovery fun r => { r with catch_ := r.catch_ ++ [c] })
  else if s.locked && s.tile.replay.isEmpty then
    .next (s.modRecovery fun r => { r with catch_ := r.catch_ ++ [c] })
  else if s.tile.frozen then .next (s.afterClk 1 (.catchStore c))
  else match c with
  | .reply r => execReplyArrival r s
  | .release b gen res => execBarrierReleaseWake b gen res s
  | .frontier t => execKnownFrontierUpdate t s
  | .unit core off data poison =>
    .next ((s.writeSlice core off data poison).logged 4 core 0 [w64 off.toNat] (.catchStore c))
  | .notify core off v =>
    .next ((s.writeSlice core off (leBytes 8 v.toNat) false).logged 4 core 0 [w64 off.toNat, v] (.catchStore c))
  | .count core k err faddr =>
    .next ((if core = s.core.num then s.raiseCounter k err faddr else s).logged 5 core 0
      [w64 (err.toNat * 2 ^ 56 + k.toNat), faddr] (.catchStore c))
  | .rim core off data =>
    .next ((s.writeSlice core off data false).logged 7 core 0 (State.padWords data) (.catchStore c))
  | .collective slot strand lk stw fault =>
    .next ((s.applyColl slot strand lk stw.toNat fault).logged 5 s.core.num slot.val [w64 lk.toNat, 0] (.catchStore c))

/-- The folded pair switches residency (20 R479): the image of the tile that leaves goes to its base image; a tile that is
not resident is frozen. -/
def execFoldResidencySwitch (s : State) : Result :=
  if s.rim.foldMate.isNone || s.locked then .next s
  else if s.rim.resident then
    andThenNext (execRebase { s with rim := { s.rim with resident := false, foldQuantum := 0 } }) fun s =>
      ({ s with tile := { s.tile with frozen := true } } : State).afterClk (2 ^ 17) .foldResidencySwitch
  else .next { s with rim := { s.rim with resident := true }, tile := { s.tile with frozen := false } }
where
  andThenNext (r : Result) (f : State → State) : Result := match r with
    | .next s => .next (f s)
    | r => r

/-- The recovery fails: the stand's launch ends with TILE_FAULT (20 R465). -/
def execRecoveryFail (s : State) : Result :=
  match s.rim.recovery with
  | none => .next s
  | some r => .next (((s.modRecovery fun r => { r with stage := .fail }).faultRecord r 2).faultEnds r false)

end Sys2Proof.Machine
end

