-- ==== Sys2Proof/Machine/Years.lean ====
section
/-! DEFINITION. Memory repair, job checkpoints, measurement, the audit log and boost (21 R486 to R501). -/

namespace Sys2Proof.Machine

/-! ## Stripes of the privileged region (21 R487, R488) -/

/-- Channel and line slot of line i of a stripe in STACK mode. -/
def stackPlace (stripe i : Nat) : Nat × Nat :=
  (32 * (stripe % 40) + (stripe / 40 % 32 + i) % 32, 9 * (stripe / 1280) + i)

/-- Channel and line slot of line i of a stripe in FLAT mode, over a list of active channels. -/
def flatPlace (active : List Nat) (stripe i : Nat) : Nat × Nat :=
  (active.getD ((9 * stripe + i) % active.length) 0, (9 * stripe + i) / active.length)

/-- Stripes that hold the 48 GiB of data. -/
def stripeCount : Nat := 48 * 2 ^ 30 / 512

/-! ## Boost (21 R499) -/

/-- The places that are free go to the claimants, by cords and then by number. -/
def grantPlaces : Nat → List (Nat × BoostField) → List (Nat × BoostField)
  | 0, l => l
  | n + 1, l =>
    let wants := l.filter fun (_, f) => !f.place && decide (0 < f.claim) && decide (0 < f.cords)
    match wants.find? fun x => wants.all fun y => decide (y.2.cords < x.2.cords) || (y.2.cords == x.2.cords && decide (x.1 ≤ y.1)) with
    | none => l
    | some x => grantPlaces n (l.map fun y => if y.1 = x.1 then (y.1, { y.2 with place := true, step := y.2.claim }) else y)

/-- Refills, in field order, while the wafer holds fewer than 64 cords. -/
def refill : Nat → List (Nat × BoostField) → List (Nat × BoostField)
  | _, [] => []
  | total, (n, f) :: l =>
    if 4 ≤ f.idle ∧ f.cords < 8 ∧ total < 64 then (n, { f with cords := f.cords + 1, idle := 0 }) :: refill (total + 1) l
    else (n, f) :: refill total l

/-- One field at a boundary, before places are given: spending, gliding, and the release of its place. -/
def boostField (f : BoostField) : BoostField :=
  let spends := decide (0 < f.step) && !f.gliding
  let cords := if spends then f.cords - 1 else f.cords
  let gliding := f.gliding || (spends && cords == 0)
  let step := if gliding then f.step - 1 else if f.place then f.claim else f.step
  let leaves := step == 0 || f.claim == 0
  { f with
    cords := cords, idle := if f.step = 0 then min 4 (f.idle + 1) else 0
    gliding := gliding && !leaves, step := if leaves then 0 else step, place := f.place && !leaves }

/-- A boundary of the boost interval. -/
def boostRound (bmax : Nat) (l : List (Nat × BoostField)) : List (Nat × BoostField) :=
  let l := l.map fun (n, f) => (n, boostField f)
  let l := grantPlaces (bmax - (l.filter fun x => x.2.place).length) l
  refill (l.map fun x => x.2.cords).sum l

namespace State

/-! ## Job checkpoints (21 R491 to R494) -/

/-- An entry of the shard table: address, lines, group, index (21 R492). -/
def shardEntry (b : List Byte) : Nat × Nat × Nat × Nat :=
  let w (i : Nat) : Nat := leNat ((b.drop (8 * i)).take 8)
  (w 0, bits (w 1) 31 0, bits (w 2) 63 32, bits (w 2) 31 0)

/-- Write to a stand's device-virtual memory, a line at a time. -/
def writeStand (s : State) (t : Stand) : Nat → Nat → List Byte → State
  | 0, _, _ => s
  | fuel + 1, va, data =>
    if data.isEmpty then s
    else
      let k := min 64 (64 - va % 64)
      let s := match s.translateIn t t.ranges false va with
        | .error _ => s
        | .ok x =>
          let slot := bits t.b.toNat 53 48
          s.writeDevice x.dpa (data.take k) (if x.attrs.getLsbD 55 then (s.keyOfSlot slot).map fun k => (slot, k) else none)
      writeStand s t fuel (va + k) (data.drop k)

/-- What the service reads of every shard: its entry, digest and data. -/
def readShards (s : State) (t : Stand) : List (Nat × Nat × Nat × Nat) → List ((Nat × Nat × Nat × Nat) × BitVec 384 × List Byte) × State
  | [] => ([], s)
  | e :: es =>
    let (d, s) := s.readVirtual t (e.2.1 + 1) e.1 (64 * e.2.1)
    let (l, s) := readShards s t es
    ((e, Config.sha384 d, d) :: l, s)

/-- The distinct objects of the shards, in table order (21 R492), each with its offset. -/
def objectsOf (at_ : Nat) (seen : List (Nat × Nat × BitVec 384)) :
    List ((Nat × Nat × Nat × Nat) × BitVec 384 × List Byte) → List ((Nat × Nat × BitVec 384) × Nat × Nat × List Byte)
  | [] => []
  | ((_, n, g, i), d, b) :: l =>
    if seen.contains (g, i, d) then objectsOf at_ seen l
    else ((g, i, d), at_, n, b) :: objectsOf (at_ + 64 + 64 * n) ((g, i, d) :: seen) l

/-- Set STATE and OBJ of `sys.jstat`. -/
def setJstat (s : State) (n : Nat) (state obj : Nat) : State :=
  s.modStandAt n fun t => { t with jstat := w64 (state * 2 ^ 62 + obj) }

/-- A checkpoint of a stand (21 R491, R493): the manifest's bytes, or none when the table is not mapped or the store too
small. -/
def checkpoint (s : State) (n : Nat) (step : Word) : Option (List Byte) × State :=
  let t := s.standOr n
  let tbl := bits t.jshard.toNat 40 0 * 65536
  let nsh := bits t.jshard.toNat 63 48
  let (h, s) := s.readVirtual t 2 tbl 64
  let store := leNat (h.take 8)
  let size := leNat ((h.drop 8).take 8)
  let (es, s) := s.readVirtual t (nsh + 2) (tbl + 64) (32 * nsh)
  let entries := (List.range nsh).map fun i => shardEntry ((es.drop (32 * i)).take 32)
  let (shards, s) := s.readShards t entries
  let objects := objectsOf t.jused [] shards
  let used := objects.foldl (fun u o => u + 64 + 64 * o.2.2.1) t.jused
  let find (e : (Nat × Nat × Nat × Nat) × BitVec 384 × List Byte) : Nat :=
    ((objects.find? fun o => o.1 == (e.1.2.2.1, e.1.2.2.2, e.2.1)).map (·.2.1)).getD 0
  let refs (e : (Nat × Nat × Nat × Nat) × BitVec 384 × List Byte) : Nat :=
    (shards.filter fun x => x.1.2.2 == e.1.2.2 && x.2.1 == e.2.1).length
  let body := Config.manifestBytes step n (shards.map fun e => (find e, e.2.1, refs e))
  let (sig, s') := s.sign body
  let bytes := body ++ sig
  let mapped := s.pinned { t with ranges := t.ranges } (size / 4096 + 2) store 0
  if !mapped || decide (size < used + bytes.length) then (none, s.setJstat n 3 0)
  else
    let s := s'
    let header (o : (Nat × Nat × BitVec 384) × Nat × Nat × List Byte) : List Byte :=
      (Config.objectHeader step o.1.1 o.1.2.1 o.2.2.1 o.1.2.2).toList
    let s := objects.foldl (fun s o => s.writeStand t (o.2.2.1 + 4) (store + o.2.1) (header o ++ o.2.2.2)) s
    let s := s.writeStand t (bytes.length / 64 + 4) (store + used) bytes
    let m : Manifest := ⟨step, store + used, bytes, shards.map fun e =>
      (e.1.1, e.1.2.1, store + find e, (Config.objectHeader step e.1.2.2.1 e.1.2.2.2 e.1.2.1 e.2.1).toList, e.2.1)⟩
    let s := s.modStandAt n fun t => { t with jused := used + bytes.length, manifests := t.manifests ++ [m] }
    (some bytes, s.setJstat n 2 objects.length)

/-- Does a manifest pass the checks of a restore (21 R494)? Signed bytes verify while they stand as they were written (log
entry 9). -/
def manifestHolds (s : State) (t : Stand) (m : Manifest) : Bool :=
  (s.readVirtual t (m.bytes.length / 64 + 2) m.va m.bytes.length).1 == m.bytes
    && m.shards.all fun (_, lines, at_, header, digest) =>
      (s.readVirtual t 2 at_ 64).1 == header && Config.sha384 (s.readVirtual t (lines + 1) (at_ + 64) (64 * lines)).1 == digest

end State

/-! ## Heads -/

/-- Sets the core's boost request (21 R500). -/
def execBoost (lvl : BitVec 2) (s : State) : Result :=
  s.issueHead [] [] false (extra := lvl != 3) fun s => s.settledOr fun _ => .next { s with core := { s.core with boost := lvl } }

/-- Sets the step and asks for a job checkpoint; a second request while one is written is refused (21 R491). -/
def execJckptWrite (a : Reg) (s : State) : Result :=
  s.writes a false true fun _ v r =>
    let busy := bits (r.ofStand (·.jstat)).toNat 63 62 == 1
    let r := r.modStand fun t => { t with jckpt := v }
    .next (if busy || r.stand.isNone then r
      else (({ r.setJstat r.standNo 1 0 with rim := { (r.setJstat r.standNo 1 0).rim with jobs := r.rim.jobs ++ [(v, none)] } } :
        State).afterClk 1 .jobCheckpointService))

/-! ## Events -/

/-- The checkpoint service (21 R491): every shard is read and stored, then the manifest; the counter JK rises for a request
of a strand, and the job record follows for one of a launch's end. -/
def execJobCheckpointService (s : State) : Result :=
  match s.rim.jobs with
  | [] => .next s
  | (step, launch) :: rest =>
    let s : State := { s with rim := { s.rim with jobs := rest } }
    let n := match launch with
      | some l => l.stand
      | none => s.standNo
    let (m, s) := s.checkpoint n step
    match launch with
    | some l => .next (s.jobRecord l (match m with
        | some b => Config.sha384 b
        | none => 0))
    | none => .next (if m.isSome then s.afterClk 1
        (.catchStore (.count s.core.num (.ofNat 4 (bits (s.standOr n).jshard.toNat 47 44)) 0 0)) else s)

/-- The newest step whose manifest passes is copied back, for a stand with nothing running or queued (21 R494). -/
def execJobRestore (stand : Fin 64) (s : State) : Result :=
  let t := s.standOr stand.val
  if s.rim.launches.any fun l => l.stand == stand.val && (l.st == .running || l.st == .queued || l.st == .swapped) then .next s
  else
    let good := t.manifests.filter fun m => s.manifestHolds t m
    match good.find? fun m => good.all fun o => decide (o.step.toNat ≤ m.step.toNat) with
    | none => .next s
    | some m => .next (m.shards.foldl (fun s (va, lines, at_, _, _) =>
        let (d, s) := s.readVirtual t (lines + 1) (at_ + 64) (64 * lines)
        s.writeStand t (lines + 1) va d) s)

/-- A channel is retired (21 R488): another waits until the rebuild is done, and none is below 864 channels. -/
def execChannelRetire (ch : Nat) (s : State) : Result :=
  if s.rim.retiring.isSome then .next (s.afterClk 64 (.channelRetire ch))
  else if !s.rim.active.contains ch || decide (s.rim.active.length ≤ 864) then .next s
  else .next (({ s with rim := { s.rim with
    active := s.rim.active.erase ch, flat := true, rebuild := 0, retiring := some ch } } : State).afterClk 1 .stripeMove)

/-- One stripe is rebuilt and moved as one operation; the pointer passes it (21 R488). -/
def execStripeMove (s : State) : Result :=
  if s.rim.retiring.isNone then .next s
  else
    let p := s.rim.rebuild + 1
    let s : State := { s with rim := { s.rim with
      rebuild := p, retiring := if stripeCount ≤ p then none else s.rim.retiring } }
    .next (if s.rim.retiring.isSome then s.afterClk 1 .stripeMove else s)

/-- A failing die is announced: PEND with the capacity to come (21 R490). -/
def execDieMapOut (s : State) : Result :=
  .next (if s.rim.pending.isSome then s else { s with rim := { s.rim with pending := some (s.rim.hbmcap - 2 ^ 32) } })

/-- The acknowledgement, which comes only when no grant and no aperture reaches the capacity to come: the die's frames have
moved and the capacity shrinks (21 R490). -/
def execMapOutAck (s : State) : Result :=
  match s.rim.pending with
  | none => .next s
  | some n =>
    let granted := s.rim.stands.any fun (_, t) => t.hbm.any fun (_, last) => decide (n / 2 ^ 21 ≤ last)
    let shown := s.rim.apertures.any fun (_, w0, w1) => w0.getLsbD 63 && decide (n ≤ bits w1.toNat 41 0)
    .next (if granted || shown then s
      else { s with rim := { s.rim with hbmcap := n, dies := s.rim.dies + 1, pending := none } })

/-- The boot ROM measures a firmware image (21 R495). -/
def execFirmwareMeasure (image : List Byte) (s : State) : Result :=
  .next { s with rim := { s.rim with measured := s.rim.measured ++ [Config.sha384 image] } }

/-- The host acknowledges an entry of the audit log, which frees it (21 R497). -/
def execAuditLogAck (n : Nat) (s : State) : Result := .next { s with rim := { s.rim with audit := SMap.erase n s.rim.audit } }

/-- Power comes on (16 R371, 21 R499): no stand is defined, the accounts hold 4 cords, and the module has its ID. What a module
keeps for life, the retired sites, the audit log and the signatures left, stays (20 R466, 21 R497). -/
def execModulePowerOn (modid : BitVec 22) (s : State) : Result :=
  let r := State.reset
  .next { r with
    inputs := s.inputs
    fresh := s.fresh
    core := { r.core with ltn := s.core.ltn, num := s.core.num }
    rim := { r.rim with
      modid := modid, retired := s.rim.retired, saplings := s.rim.saplings, sites := s.rim.sites, audit := s.rim.audit
      nextAudit := s.rim.nextAudit, lmsleft := s.rim.lmsleft, gradeB := s.rim.gradeB, held := s.rim.held } }

/-- A boundary of the boost interval (21 R499). Of the claims, the one of this core's request is known (log entry 6). -/
def execBoostInterval (s : State) : Result :=
  let mine := State.fieldOf (s.siteOf s.core.ltn)
  let claim := if s.ofStand (fun t => if t.boostok then 1 else 0) = 1 ∧ s.tileTaken then s.core.boost.toNat else 0
  let fields := s.rim.fields.map fun (n, f) => if n = mine then (n, { f with claim := claim }) else (n, f)
  .next (({ s with rim := { s.rim with fields := boostRound s.rim.bmax fields } } : State).afterClk (10 * ccPerUs) .boostInterval)

end Sys2Proof.Machine
end

