-- ==== Sys2Proof/Machine/Dispatch.lean ====
section
/-! DEFINITION. Which meaning each instruction has. -/

namespace Sys2Proof.Machine

def exec (i : Instr) (s : State) : Host.Outcome State Fault Refusal :=
  match i with
  | .seedUpdateArrival hi v => Sys2Proof.Machine.execSeedUpdateArrival hi v s
  | .handlerStarved slot => Sys2Proof.Machine.execHandlerStarved slot s
  | .supervisorRoute slot => Sys2Proof.Machine.execSupervisorRoute slot s
  | .atomicExecute q => Sys2Proof.Machine.execAtomicExecute q s
  | .raddUnitAdd q => Sys2Proof.Machine.execRaddUnitAdd q s
  | .remoteStorePerform q => Sys2Proof.Machine.execRemoteStorePerform q s
  | .remoteLoadServe q => Sys2Proof.Machine.execRemoteLoadServe q s
  | .replyArrival r => Sys2Proof.Machine.execReplyArrival r s
  | .longResultArrival slot tag => Sys2Proof.Machine.execLongResultArrival slot tag s
  | .bankWakeDone bank => Sys2Proof.Machine.execBankWakeDone bank s
  | .prefFill ea x => Sys2Proof.Machine.execPrefFill ea x s
  | .putgetUnit id unit => Sys2Proof.Machine.execPutgetUnit id unit s
  | .putgetEntryComplete id => Sys2Proof.Machine.execPutgetEntryComplete id s
  | .remoteCounterIncrement q => Sys2Proof.Machine.execRemoteCounterIncrement q s
  | .translationWalk va => Sys2Proof.Machine.execTranslationWalk va s
  | .rowSectorEviction base => Sys2Proof.Machine.execRowSectorEviction base s
  | .taskSettle slot => Sys2Proof.Machine.execTaskSettle slot s
  | .taskCommit slot => Sys2Proof.Machine.execTaskCommit slot s
  | .frontierChange => Sys2Proof.Machine.execFrontierChange s
  | .matrixStep slot => Sys2Proof.Machine.execMatrixStep slot s
  | .gatherFetch => Sys2Proof.Machine.execGatherFetch s
  | .matrixOpComplete slot => Sys2Proof.Machine.execMatrixOpComplete slot s
  | .streamStep => Sys2Proof.Machine.execStreamStep s
  | .streamComplete => Sys2Proof.Machine.execStreamComplete s
  | .windowUnitWrite slot tag => Sys2Proof.Machine.execWindowUnitWrite slot tag s
  | .arrivalReceive v => Sys2Proof.Machine.execArrivalReceive v s
  | .arrivalResend v => Sys2Proof.Machine.execArrivalResend v s
  | .slotFill => Sys2Proof.Machine.execSlotFill s
  | .stealProbe found => Sys2Proof.Machine.execStealProbe found s
  | .yieldExpiry slot => Sys2Proof.Machine.execYieldExpiry slot s
  | .remoteSetevArrival sltn seq q mask => Sys2Proof.Machine.execRemoteSetevArrival sltn seq q mask s
  | .eventUnitCycle => Sys2Proof.Machine.execEventUnitCycle s
  | .barcfgAnswer slot ok => Sys2Proof.Machine.execBarcfgAnswer slot ok s
  | .barrierCombine q => Sys2Proof.Machine.execBarrierCombine q s
  | .barrierReleaseWake b gen res => Sys2Proof.Machine.execBarrierReleaseWake b gen res s
  | .messageAccept m => Sys2Proof.Machine.execMessageAccept m s
  | .redirect m => Sys2Proof.Machine.execRedirect m s
  | .rtoResend id => Sys2Proof.Machine.execRtoResend id s
  | .refusalResend id => Sys2Proof.Machine.execRefusalResend id s
  | .deadLetterNotice sltn seq => Sys2Proof.Machine.execDeadLetterNotice sltn seq s
  | .mailboxWrite id => Sys2Proof.Machine.execMailboxWrite id s
  | .buckerBuck => Sys2Proof.Machine.execBuckerBuck s
  | .buckerReplay => Sys2Proof.Machine.execBuckerReplay s
  | .keyringChangeApply ltn e => Sys2Proof.Machine.execKeyringChangeApply ltn e s
  | .deltaPacketAccept m => Sys2Proof.Machine.execDeltaPacketAccept m s
  | .knownFrontierUpdate t => Sys2Proof.Machine.execKnownFrontierUpdate t s
  | .wpsetSwitchDone slot => Sys2Proof.Machine.execWpsetSwitchDone slot s
  | .parkRequestServe q => Sys2Proof.Machine.execParkRequestServe q s
  | .spill slot => Sys2Proof.Machine.execSpill slot s
  | .reload slot => Sys2Proof.Machine.execReload slot s
  | .rtsetApply n e => Sys2Proof.Machine.execRtsetApply n e s
  | .tlbinvApply all va => Sys2Proof.Machine.execTlbinvApply all va s
  | .pgattrComplete slot => Sys2Proof.Machine.execPgattrComplete slot s
  | .boostInterval => Sys2Proof.Machine.execBoostInterval s
  | .launchRecord slot => Sys2Proof.Machine.execLaunchRecord slot s
  | .launchSlotWrite slot off len data => Sys2Proof.Machine.execLaunchSlotWrite slot off len data s
  | .launchStart stand => Sys2Proof.Machine.execLaunchStart stand s
  | .launchEnd close => Sys2Proof.Machine.execLaunchEnd close s
  | .swapOut => Sys2Proof.Machine.execSwapOut s
  | .swapIn => Sys2Proof.Machine.execSwapIn s
  | .notchPoint => Sys2Proof.Machine.execNotchPoint s
  | .earlyNotch => Sys2Proof.Machine.execEarlyNotch s
  | .notchCapture => Sys2Proof.Machine.execNotchCapture s
  | .notchCopyLine => Sys2Proof.Machine.execNotchCopyLine s
  | .notchCommit => Sys2Proof.Machine.execNotchCommit s
  | .shadowFold => Sys2Proof.Machine.execShadowFold s
  | .rebase => Sys2Proof.Machine.execRebase s
  | .waitExpired slot => Sys2Proof.Machine.execWaitExpired slot s
  | .tileWatchdog => Sys2Proof.Machine.execTileWatchdog s
  | .tileFault kind core fpc => Sys2Proof.Machine.execTileFault kind core fpc s
  | .fieldPowerLoss field => Sys2Proof.Machine.execFieldPowerLoss field s
  | .siteUnreachable row col => Sys2Proof.Machine.execSiteUnreachable row col s
  | .select => Sys2Proof.Machine.execSelect s
  | .restore => Sys2Proof.Machine.execRestore s
  | .replay => Sys2Proof.Machine.execReplay s
  | .bind => Sys2Proof.Machine.execBind s
  | .release => Sys2Proof.Machine.execRelease s
  | .catchStore c => Sys2Proof.Machine.execCatchStore c s
  | .foldTile => Sys2Proof.Machine.execFoldTile s
  | .foldResidencySwitch => Sys2Proof.Machine.execFoldResidencySwitch s
  | .recoveryFail => Sys2Proof.Machine.execRecoveryFail s
  | .hostMemAccess w addr data => Sys2Proof.Machine.execHostMemAccess w addr data s
  | .peerAccess w src offset data => Sys2Proof.Machine.execPeerAccess w src offset data s
  | .scaleoutPacketReceive port stand src body => Sys2Proof.Machine.execScaleoutPacketReceive port stand src body s
  | .laneRetire port => Sys2Proof.Machine.execLaneRetire port s
  | .portRekey port => Sys2Proof.Machine.execPortRekey port s
  | .collectiveStepReceive tag step chunk data => Sys2Proof.Machine.execCollectiveStepReceive tag step chunk data s
  | .collectiveStepAck tag step => Sys2Proof.Machine.execCollectiveStepAck tag step s
  | .collectiveStepTimeout tag step => Sys2Proof.Machine.execCollectiveStepTimeout tag step s
  | .tierEpochEnd => Sys2Proof.Machine.execTierEpochEnd s
  | .tierCopyLine pair => Sys2Proof.Machine.execTierCopyLine pair s
  | .tierSwitch pair => Sys2Proof.Machine.execTierSwitch pair s
  | .jobCheckpointService => Sys2Proof.Machine.execJobCheckpointService s
  | .jobRestore stand => Sys2Proof.Machine.execJobRestore stand s
  | .channelRetire ch => Sys2Proof.Machine.execChannelRetire ch s
  | .stripeMove => Sys2Proof.Machine.execStripeMove s
  | .dieMapOut => Sys2Proof.Machine.execDieMapOut s
  | .mapOutAck => Sys2Proof.Machine.execMapOutAck s
  | .firmwareMeasure image => Sys2Proof.Machine.execFirmwareMeasure image s
  | .hingeAcknowledgement n => Sys2Proof.Machine.execHingeAcknowledgement n s
  | .scaleoutPortDown port => Sys2Proof.Machine.execScaleoutPortDown port s
  | .scaleoutPortUp port => Sys2Proof.Machine.execScaleoutPortUp port s
  | .hostLinkDown => Sys2Proof.Machine.execHostLinkDown s
  | .hostLinkUp width => Sys2Proof.Machine.execHostLinkUp width s
  | .cxlSnoop addr => Sys2Proof.Machine.execCxlSnoop addr s
  | .standGrantWrite stand hbm far secret => Sys2Proof.Machine.execStandGrantWrite stand hbm far secret s
  | .hostApertureWrite n w0 w1 => Sys2Proof.Machine.execHostApertureWrite n w0 w1 s
  | .peerExportWrite n w0 w1 => Sys2Proof.Machine.execPeerExportWrite n w0 w1 s
  | .podConfigure stand members rank => Sys2Proof.Machine.execPodConfigure stand members rank s
  | .standDelegationWrite stand stands keys => Sys2Proof.Machine.execStandDelegationWrite stand stands keys s
  | .auditLogAck n => Sys2Proof.Machine.execAuditLogAck n s
  | .modulePowerOn modid => Sys2Proof.Machine.execModulePowerOn modid s
  | .linkRetry port => Sys2Proof.Machine.execLinkRetry port s
  | .add d a b => Sys2Proof.Machine.execAdd d a b s
  | .sub d a b => Sys2Proof.Machine.execSub d a b s
  | .mul d a b => Sys2Proof.Machine.execMul d a b s
  | .mulh d a b => Sys2Proof.Machine.execMulh d a b s
  | .mulhn d a b => Sys2Proof.Machine.execMulhn d a b s
  | .div d a b la => Sys2Proof.Machine.execDiv d a b la s
  | .divn d a b la => Sys2Proof.Machine.execDivn d a b la s
  | .rem d a b la => Sys2Proof.Machine.execRem d a b la s
  | .remn d a b la => Sys2Proof.Machine.execRemn d a b la s
  | .min d a b => Sys2Proof.Machine.execMin d a b s
  | .max d a b => Sys2Proof.Machine.execMax d a b s
  | .minn d a b => Sys2Proof.Machine.execMinn d a b s
  | .maxn d a b => Sys2Proof.Machine.execMaxn d a b s
  | .and d a b => Sys2Proof.Machine.execAnd d a b s
  | .or d a b => Sys2Proof.Machine.execOr d a b s
  | .xor d a b => Sys2Proof.Machine.execXor d a b s
  | .andn d a b => Sys2Proof.Machine.execAndn d a b s
  | .shl d a b => Sys2Proof.Machine.execShl d a b s
  | .shr d a b => Sys2Proof.Machine.execShr d a b s
  | .sar d a b => Sys2Proof.Machine.execSar d a b s
  | .rol d a b => Sys2Proof.Machine.execRol d a b s
  | .addx d a b => Sys2Proof.Machine.execAddx d a b s
  | .sel d a b => Sys2Proof.Machine.execSel d a b s
  | .mov d a => Sys2Proof.Machine.execMov d a s
  | .neg d a => Sys2Proof.Machine.execNeg d a s
  | .abs d a => Sys2Proof.Machine.execAbs d a s
  | .clz d a => Sys2Proof.Machine.execClz d a s
  | .ctz d a => Sys2Proof.Machine.execCtz d a s
  | .popc d a => Sys2Proof.Machine.execPopc d a s
  | .bswap d a => Sys2Proof.Machine.execBswap d a s
  | .sextI8 d a => Sys2Proof.Machine.execSextI8 d a s
  | .sextI16 d a => Sys2Proof.Machine.execSextI16 d a s
  | .sextI32 d a => Sys2Proof.Machine.execSextI32 d a s
  | .zextN8 d a => Sys2Proof.Machine.execZextN8 d a s
  | .zextN16 d a => Sys2Proof.Machine.execZextN16 d a s
  | .zextN32 d a => Sys2Proof.Machine.execZextN32 d a s
  | .addi d a imm => Sys2Proof.Machine.execAddi d a imm s
  | .li d imm => Sys2Proof.Machine.execLi d imm s
  | .liG d imm => Sys2Proof.Machine.execLiG d imm s
  | .lih d a imm => Sys2Proof.Machine.execLih d a imm s
  | .bfx d a z pos len1 => Sys2Proof.Machine.execBfx d a z pos len1 s
  | .bfi d a pos len1 => Sys2Proof.Machine.execBfi d a pos len1 s
  | .cmp k cc a b => Sys2Proof.Machine.execCmp k cc a b s
  | .cmpi k cc a imm => Sys2Proof.Machine.execCmpi k cc a imm s
  | .tst k cc a b => Sys2Proof.Machine.execTst k cc a b s
  | .br sig tgt => Sys2Proof.Machine.execBr sig tgt s
  | .brc cc sig tgt => Sys2Proof.Machine.execBrc cc sig tgt s
  | .jmp sig tgt => Sys2Proof.Machine.execJmp sig tgt s
  | .call sig tgt => Sys2Proof.Machine.execCall sig tgt s
  | .callr sig a => Sys2Proof.Machine.execCallr sig a s
  | .ret sig a => Sys2Proof.Machine.execRet sig a s
  | .nop => Sys2Proof.Machine.execNop s
  | .loop sig sigb a len inc => Sys2Proof.Machine.execLoop sig sigb a len inc s
  | .loopi sig sigb len inc cnt => Sys2Proof.Machine.execLoopi sig sigb len inc cnt s
  | .fadd fmt d a b => Sys2Proof.Machine.execFadd fmt d a b s
  | .fsub fmt d a b => Sys2Proof.Machine.execFsub fmt d a b s
  | .fmul fmt d a b => Sys2Proof.Machine.execFmul fmt d a b s
  | .ffma fmt d a b => Sys2Proof.Machine.execFfma fmt d a b s
  | .fdiv fmt d a b la => Sys2Proof.Machine.execFdiv fmt d a b la s
  | .fsqrt fmt d a la => Sys2Proof.Machine.execFsqrt fmt d a la s
  | .fmin fmt d a b => Sys2Proof.Machine.execFmin fmt d a b s
  | .fmax fmt d a b => Sys2Proof.Machine.execFmax fmt d a b s
  | .fabs fmt d a => Sys2Proof.Machine.execFabs fmt d a s
  | .fneg fmt d a => Sys2Proof.Machine.execFneg fmt d a s
  | .fclass fmt d a => Sys2Proof.Machine.execFclass fmt d a s
  | .fcmp k cc fmt a b => Sys2Proof.Machine.execFcmp k cc fmt a b s
  | .fcvt src dst d a => Sys2Proof.Machine.execFcvt src dst d a s
  | .topo d n => Sys2Proof.Machine.execTopo d n s
  | .capr d n => Sys2Proof.Machine.execCapr d n s
  | .srd d n => Sys2Proof.Machine.execSrd d n s
  | .swr a n => Sys2Proof.Machine.execSwr a n s
  | .sysSwWrite a => Sys2Proof.Machine.execSysSwWrite a s
  | .sseedWrite hi a => Sys2Proof.Machine.execSseedWrite hi a s
  | .bankpmWrite a => Sys2Proof.Machine.execBankpmWrite a s
  | .nivWrite a => Sys2Proof.Machine.execNivWrite a s
  | .ptrootWrite a => Sys2Proof.Machine.execPtrootWrite a s
  | .collectiveStart a => Sys2Proof.Machine.execCollectiveStart a s
  | .jckptWrite a => Sys2Proof.Machine.execJckptWrite a s
  | .perfr d n => Sys2Proof.Machine.execPerfr d n s
  | .rndk d a b => Sys2Proof.Machine.execRndk d a b s
  | .trap code => Sys2Proof.Machine.execTrap code s
  | .rett sig a => Sys2Proof.Machine.execRett sig a s
  | .seth a g => Sys2Proof.Machine.execSeth a g s
  | .cause d a => Sys2Proof.Machine.execCause d a s
  | .smode m => Sys2Proof.Machine.execSmode m s
  | .smodeServed m => Sys2Proof.Machine.execSmodeServed m s
  | .ld size n pi d a la off => Sys2Proof.Machine.execLd size n pi d a la off s
  | .st size pi d a off => Sys2Proof.Machine.execSt size pi d a off s
  | .ldv pi d a la off => Sys2Proof.Machine.execLdv pi d a la off s
  | .stv pi d a off => Sys2Proof.Machine.execStv pi d a off s
  | .ldg size n pi d a b la z => Sys2Proof.Machine.execLdg size n pi d a b la z s
  | .stg size pi d a b z => Sys2Proof.Machine.execStg size pi d a b z s
  | .lda size n d a b la => Sys2Proof.Machine.execLda size n d a b la s
  | .stl size d a b => Sys2Proof.Machine.execStl size d a b s
  | .atomAdd w64 n d a b la => Sys2Proof.Machine.execAtomAdd w64 n d a b la s
  | .atomAnd w64 n d a b la => Sys2Proof.Machine.execAtomAnd w64 n d a b la s
  | .atomOr w64 n d a b la => Sys2Proof.Machine.execAtomOr w64 n d a b la s
  | .atomXor w64 n d a b la => Sys2Proof.Machine.execAtomXor w64 n d a b la s
  | .atomMin w64 n d a b la => Sys2Proof.Machine.execAtomMin w64 n d a b la s
  | .atomMax w64 n d a b la => Sys2Proof.Machine.execAtomMax w64 n d a b la s
  | .atomSwap w64 n d a b la => Sys2Proof.Machine.execAtomSwap w64 n d a b la s
  | .atomCas w64 n d a b c la => Sys2Proof.Machine.execAtomCas w64 n d a b c la s
  | .raddF32 a b k n => Sys2Proof.Machine.execRaddF32 a b k n s
  | .raddB16 a b k n => Sys2Proof.Machine.execRaddB16 a b k n s
  | .ldmeta pi d a off => Sys2Proof.Machine.execLdmeta pi d a off s
  | .stmeta pi d a off => Sys2Proof.Machine.execStmeta pi d a off s
  | .pref x a off => Sys2Proof.Machine.execPref x a off s
  | .put a b f len => Sys2Proof.Machine.execPut a b f len s
  | .get a b f len => Sys2Proof.Machine.execGet a b f len s
  | .getTransposed a b c f es len => Sys2Proof.Machine.execGetTransposed a b c f es len s
  | .putn d a b c f len => Sys2Proof.Machine.execPutn d a b c f len s
  | .getn d a b c f len => Sys2Proof.Machine.execGetn d a b c f len s
  | .waitk d a k => Sys2Proof.Machine.execWaitk d a k s
  | .waita d a b q => Sys2Proof.Machine.execWaita d a b q s
  | .fenceR a => Sys2Proof.Machine.execFenceR a s
  | .fenceO obs => Sys2Proof.Machine.execFenceO obs s
  | .fenceX src dst => Sys2Proof.Machine.execFenceX src dst s
  | .fenceL => Sys2Proof.Machine.execFenceL s
  | .spawn a b pc => Sys2Proof.Machine.execSpawn a b pc s
  | .spawnS a b c pc => Sys2Proof.Machine.execSpawnS a b c pc s
  | .quit sig => Sys2Proof.Machine.execQuit sig s
  | .fork tgt => Sys2Proof.Machine.execFork tgt s
  | .join a => Sys2Proof.Machine.execJoin a s
  | .yield => Sys2Proof.Machine.execYield s
  | .migrate a => Sys2Proof.Machine.execMigrate a s
  | .task a b c pc wq sq => Sys2Proof.Machine.execTask a b c pc wq sq s
  | .setev a q rt ltn => Sys2Proof.Machine.execSetev a q rt ltn s
  | .clrev a q => Sys2Proof.Machine.execClrev a q s
  | .waitev d a q any => Sys2Proof.Machine.execWaitev d a q any s
  | .barcfg scope a b => Sys2Proof.Machine.execBarcfg scope a b s
  | .bar scope b => Sys2Proof.Machine.execBar scope b s
  | .bara scope d a b => Sys2Proof.Machine.execBara scope d a b s
  | .barw scope d a b => Sys2Proof.Machine.execBarw scope d a b s
  | .barred scope d a b => Sys2Proof.Machine.execBarred scope d a b s
  | .send a b n => Sys2Proof.Machine.execSend a b n s
  | .sendv a b r => Sys2Proof.Machine.execSendv a b r s
  | .recv d a b q => Sys2Proof.Machine.execRecv d a b q s
  | .recvv d q => Sys2Proof.Machine.execRecvv d q s
  | .qbindQi q => Sys2Proof.Machine.execQbindQi q s
  | .qbindQo a l => Sys2Proof.Machine.execQbindQo a l s
  | .qbindQiOff => Sys2Proof.Machine.execQbindQiOff s
  | .qbindQoOff => Sys2Proof.Machine.execQbindQoOff s
  | .mqstat d q => Sys2Proof.Machine.execMqstat d q s
  | .peek d a q => Sys2Proof.Machine.execPeek d a q s
  | .dqpush a b n => Sys2Proof.Machine.execDqpush a b n s
  | .dqpop d a b la nb q => Sys2Proof.Machine.execDqpop d a b la nb q s
  | .dqcons d a b => Sys2Proof.Machine.execDqcons d a b s
  | .arupd a b n => Sys2Proof.Machine.execArupd a b n s
  | .arjoin d a b c vs => Sys2Proof.Machine.execArjoin d a b c vs s
  | .arscan d a b c k => Sys2Proof.Machine.execArscan d a b c k s
  | .arcompact a b => Sys2Proof.Machine.execArcompact a b s
  | .frontadv a p => Sys2Proof.Machine.execFrontadv a p s
  | .frontrd d z => Sys2Proof.Machine.execFrontrd d z s
  | .dqwaitf d a => Sys2Proof.Machine.execDqwaitf d a s
  | .wpset d a z => Sys2Proof.Machine.execWpset d a z s
  | .park d a z => Sys2Proof.Machine.execPark d a z s
  | .unpark d a z => Sys2Proof.Machine.execUnpark d a z s
  | .standcfg a b n => Sys2Proof.Machine.execStandcfg a b n s
  | .rtset a n => Sys2Proof.Machine.execRtset a n s
  | .tlbinvAddr a => Sys2Proof.Machine.execTlbinvAddr a s
  | .tlbinvAll a => Sys2Proof.Machine.execTlbinvAll a s
  | .pgattr d a b mask => Sys2Proof.Machine.execPgattr d a b mask s
  | .keyselLoad d a => Sys2Proof.Machine.execKeyselLoad d a s
  | .keyselErase d => Sys2Proof.Machine.execKeyselErase d s
  | .keyselStatus d => Sys2Proof.Machine.execKeyselStatus d s
  | .poisonqReadLocal d a => Sys2Proof.Machine.execPoisonqReadLocal d a s
  | .poisonqClearLocal d a => Sys2Proof.Machine.execPoisonqClearLocal d a s
  | .poisonqReadDevice d a => Sys2Proof.Machine.execPoisonqReadDevice d a s
  | .poisonqClearDevice d a => Sys2Proof.Machine.execPoisonqClearDevice d a s
  | .boost lvl => Sys2Proof.Machine.execBoost lvl s
  | .notch => Sys2Proof.Machine.execNotch s
  | .notchrd d n => Sys2Proof.Machine.execNotchrd d n s
  | .ckexcl a r n => Sys2Proof.Machine.execCkexcl a r n s
  | .wdpet => Sys2Proof.Machine.execWdpet s
  | .vadd fmt d a b => Sys2Proof.Machine.execVadd fmt d a b s
  | .vaddL fmt d a b la => Sys2Proof.Machine.execVaddL fmt d a b la s
  | .vsub fmt d a b => Sys2Proof.Machine.execVsub fmt d a b s
  | .vsubL fmt d a b la => Sys2Proof.Machine.execVsubL fmt d a b la s
  | .vmul fmt d a b => Sys2Proof.Machine.execVmul fmt d a b s
  | .vmulL fmt d a b la => Sys2Proof.Machine.execVmulL fmt d a b la s
  | .vdiv fmt d a b => Sys2Proof.Machine.execVdiv fmt d a b s
  | .vdivL fmt d a b la => Sys2Proof.Machine.execVdivL fmt d a b la s
  | .vmin fmt d a b => Sys2Proof.Machine.execVmin fmt d a b s
  | .vminL fmt d a b la => Sys2Proof.Machine.execVminL fmt d a b la s
  | .vmax fmt d a b => Sys2Proof.Machine.execVmax fmt d a b s
  | .vmaxL fmt d a b la => Sys2Proof.Machine.execVmaxL fmt d a b la s
  | .vpow fmt d a b => Sys2Proof.Machine.execVpow fmt d a b s
  | .vpowL fmt d a b la => Sys2Proof.Machine.execVpowL fmt d a b la s
  | .vfma fmt d a b => Sys2Proof.Machine.execVfma fmt d a b s
  | .vfmaL fmt d a b la => Sys2Proof.Machine.execVfmaL fmt d a b la s
  | .vfms fmt d a b => Sys2Proof.Machine.execVfms fmt d a b s
  | .vfmsL fmt d a b la => Sys2Proof.Machine.execVfmsL fmt d a b la s
  | .vsqrt fmt d a => Sys2Proof.Machine.execVsqrt fmt d a s
  | .vsqrtL fmt d a la => Sys2Proof.Machine.execVsqrtL fmt d a la s
  | .vrsq fmt d a => Sys2Proof.Machine.execVrsq fmt d a s
  | .vrsqL fmt d a la => Sys2Proof.Machine.execVrsqL fmt d a la s
  | .vexp fmt d a => Sys2Proof.Machine.execVexp fmt d a s
  | .vexpL fmt d a la => Sys2Proof.Machine.execVexpL fmt d a la s
  | .vlog fmt d a => Sys2Proof.Machine.execVlog fmt d a s
  | .vlogL fmt d a la => Sys2Proof.Machine.execVlogL fmt d a la s
  | .vsin fmt d a => Sys2Proof.Machine.execVsin fmt d a s
  | .vsinL fmt d a la => Sys2Proof.Machine.execVsinL fmt d a la s
  | .vcos fmt d a => Sys2Proof.Machine.execVcos fmt d a s
  | .vcosL fmt d a la => Sys2Proof.Machine.execVcosL fmt d a la s
  | .vtanh fmt d a => Sys2Proof.Machine.execVtanh fmt d a s
  | .vtanhL fmt d a la => Sys2Proof.Machine.execVtanhL fmt d a la s
  | .vabs fmt d a => Sys2Proof.Machine.execVabs fmt d a s
  | .vabsL fmt d a la => Sys2Proof.Machine.execVabsL fmt d a la s
  | .vneg fmt d a => Sys2Proof.Machine.execVneg fmt d a s
  | .vnegL fmt d a la => Sys2Proof.Machine.execVnegL fmt d a la s
  | .vcmp k cc fmt d a b => Sys2Proof.Machine.execVcmp k cc fmt d a b s
  | .vand d a b => Sys2Proof.Machine.execVand d a b s
  | .vor d a b => Sys2Proof.Machine.execVor d a b s
  | .vxor d a b => Sys2Proof.Machine.execVxor d a b s
  | .vshl size n d a b => Sys2Proof.Machine.execVshl size n d a b s
  | .vshr size n d a b => Sys2Proof.Machine.execVshr size n d a b s
  | .viadd size n d a b => Sys2Proof.Machine.execViadd size n d a b s
  | .visub size n d a b => Sys2Proof.Machine.execVisub size n d a b s
  | .vimul size n d a b => Sys2Proof.Machine.execVimul size n d a b s
  | .vsel d a b => Sys2Proof.Machine.execVsel d a b s
  | .vdot fmt d a b => Sys2Proof.Machine.execVdot fmt d a b s
  | .vredAdd fmt d a => Sys2Proof.Machine.execVredAdd fmt d a s
  | .vredMin fmt d a => Sys2Proof.Machine.execVredMin fmt d a s
  | .vredMax fmt d a => Sys2Proof.Machine.execVredMax fmt d a s
  | .vredq fmt d a => Sys2Proof.Machine.execVredq fmt d a s
  | .vshuf size d a b => Sys2Proof.Machine.execVshuf size d a b s
  | .vsplat size d a => Sys2Proof.Machine.execVsplat size d a s
  | .vins size d a b => Sys2Proof.Machine.execVins size d a b s
  | .vext size n d a b => Sys2Proof.Machine.execVext size n d a b s
  | .vcvt src dst sc d a c => Sys2Proof.Machine.execVcvt src dst sc d a c s
  | .vpack src dst sc d a c => Sys2Proof.Machine.execVpack src dst sc d a c s
  | .vunpack src dst sc d a c => Sys2Proof.Machine.execVunpack src dst sc d a c s
  | .vrnd src dst d a => Sys2Proof.Machine.execVrnd src dst d a s
  | .vaddM fmt d a b la x => Sys2Proof.Machine.execVaddM fmt d a b la x s
  | .vmulM fmt d a b la x => Sys2Proof.Machine.execVmulM fmt d a b la x s
  | .vfmaM fmt d a b la x => Sys2Proof.Machine.execVfmaM fmt d a b la x s
  | .addwin p d a b la => Sys2Proof.Machine.execAddwin p d a b la s
  | .rdwin fmt d a la => Sys2Proof.Machine.execRdwin fmt d a la s
  | .clrwin a la => Sys2Proof.Machine.execClrwin a la s
  | .jord n => Sys2Proof.Machine.execJord n s
  | .jseed fmt d a b la => Sys2Proof.Machine.execJseed fmt d a b la s
  | .jseedv fmt d a b la => Sys2Proof.Machine.execJseedv fmt d a b la s
  | .jconst fmt d a la => Sys2Proof.Machine.execJconst fmt d a la s
  | .jext fmt d a k la => Sys2Proof.Machine.execJext fmt d a k la s
  | .jder fmt d a k la => Sys2Proof.Machine.execJder fmt d a k la s
  | .jtrunc fmt d a k la => Sys2Proof.Machine.execJtrunc fmt d a k la s
  | .jfrd d h => Sys2Proof.Machine.execJfrd d h s
  | .jfclr lo hi => Sys2Proof.Machine.execJfclr lo hi s
  | .mcfg tile keep acc afmt bfmt rows1 cols1 => Sys2Proof.Machine.execMcfg tile keep acc afmt bfmt rows1 cols1 s
  | .mclr mask => Sys2Proof.Machine.execMclr mask s
  | .mres d tile => Sys2Proof.Machine.execMres d tile s
  | .mresRelease d tile => Sys2Proof.Machine.execMresRelease d tile s
  | .mma a b c tile kb1 mx sc desc => Sys2Proof.Machine.execMma a b c tile kb1 mx sc desc s
  | .mmj a b c kb1 => Sys2Proof.Machine.execMmj a b c kb1 s
  | .mrd a b tile fmt => Sys2Proof.Machine.execMrd a b tile fmt s
  | .macc a b tile fmt => Sys2Proof.Machine.execMacc a b tile fmt s
  | .xpkd d a x => Sys2Proof.Machine.execXpkd d a x s

end Sys2Proof.Machine
end

