-- ==== Sys2Proof/Machine/Waits.lean ====
section
/-! DEFINITION. What ends a wait (01 R12), the ends of windows that decide more than a register (05 R143, 11 R274), and what
each cycle of the core ends with. -/

namespace Sys2Proof.Machine

namespace State

/-! ## Waits (01 R12) -/

/-- The state as a slot's own head would see it. -/
def asSlot (s : State) (i : Fin 16) : State := { s with issue := { s.issue with slot := i } }

/-- The word at a slice offset as a slot's strand reads it. -/
def wordAt (s : State) (i : Fin 16) (off : BitVec 22) : Word := w64 (leNat (s.loadOf i (s.key off.toNat) 8).1)

/-- Is the condition of a slot's wait met, or, for `WAITA`, does its evaluation trap since the line has been poisoned (08 R213,
17 R407)? Of the waits that an event ends, none is met here. -/
def condition (s : State) (i : Fin 16) (w : Wait) : Bool :=
  let x := s.slot i
  match w with
  | .rect r => s.rectClear x.strand r
  | .acquire l => !(s.asSlot i).acquiring l
  | .strong => s.strongDone x.strand
  | .paths m => s.pathsDone x.strand m
  | .all => s.allDone x.strand
  | .entry => decide (s.core.pg.length < 16)
  | .hold n => decide (n ≤ s.holdFree)
  | .counter k t => s.core.k[k.toFin].err != 0 || decide (t ≤ s.core.k[k.toFin].count.toNat)
  | .word off v differs => (s.wordAt i off == v) != differs || s.poisoned (s.key off.toNat) 8
  | .message q => !s.core.mq[q].isEmpty
  | .words q => decide (4 ≤ queueWords s.core.mq[q])
  | .records q => !s.core.dq[q].untaken.isEmpty || !s.core.dq[q].valid
  | .lowestKey => (s.speculative i).isNone && (x.task.isNone || s.holdsLowest i)
  | .line a => !(s.asSlot i).lowerBuffers a
  | .windows => x.windows.all (·.arrived)
  | .collective => decide (s.core.collOut < 4)
  | .encrypted => !s.encOutstanding
  | .cycle c => decide (c ≤ s.tile.cycle)
  | .events .. | .frontier .. | .switch .. | .answer => false

/-- Does a slot wait, asleep or parked where it slept, or does it hold a wait that is over and has not yet issued? -/
def holdsWait (s : State) (i : Fin 16) : Bool :=
  let x := s.slot i
  x.st == .sleep || x.st == .ready || (x.st == .parked && x.before == .sleep)

/-- Strands that wait on one counter are served in slot order (08 R212): does a lower slot go first? -/
def servedBefore (s : State) (i : Fin 16) : Bool :=
  match (s.slot i).wait with
  | some (.counter k _) => allSlots.any fun j => decide (j < i) && s.holdsWait j && (match (s.slot j).wait with
      | some (.counter l t) => l == k && s.condition j (.counter l t)
      | _ => false)
  | _ => false

/-- Is a slot's wait over? -/
def met (s : State) (i : Fin 16) : Bool :=
  match (s.slot i).wait with
  | some w => s.condition i w && !s.servedBefore i
  | none => false

/-- A wait whose head delivers a result: a parked strand has it as it is met (16 R385). -/
def delivers : Wait → Bool
  | .counter .. | .word .. | .message _ | .words _ | .records _ => true
  | _ => false

/-- The window operation that a window of a slot ends with, while the write of an earlier operation on the same window holds
it back (05 R143). `ended` are the tags that end at the same turn. -/
def heldBack (s : State) (i : Fin 16) (ended : List Nat) (w : Window) : Bool :=
  match s.winOpOf i w.tag with
    | some o => s.core.winOps.any fun p => p.addr == o.addr && decide (p.tag < o.tag) && !p.writes.isEmpty
        && !(p.slot == i && ended.contains p.tag)
    | none => false

/-- Windows of a slot whose heads have all issued (01 R20). -/
def endedWindows (s : State) (i : Fin 16) : List Window := (s.slot i).windows.filter fun w => w.left = 0

/-- Do the ended windows of a slot still wait for a result or for an earlier write? -/
def windowsWait (s : State) (i : Fin 16) : Bool :=
  let ended := s.endedWindows i
  ended.any fun w => !w.arrived || s.heldBack i (ended.map (·.tag)) w

/-- Has the bucker work (12 R302)? -/
def buckerBusy (s : State) : Bool :=
  s.core.bucker.heap.any (fun m => m.toWrite != 0) || (s.replayable [] s.core.bucker.heap).isSome

/-- What the end of a cycle finds of one slot: a wait that is over makes it READY for its next turn, and marks a parked
strand's wait complete; a speculative task that has come to hold the lowest key settles (09 R235). -/
def wakeSlot (s : State) (i : Fin 16) : State :=
  let x := s.slot i
  if x.bucker then
    s.setSlot i { x with st := if x.st == .parked then x.st else if s.buckerBusy then .ready else .sleep }
  else match x.st with
  | .sleep =>
    if s.met i then s.setSlot i { x with st := .ready }
    else if x.wait == some .lowestKey && (s.speculative i).isSome && s.holdsLowest i then s.after 0 (.taskSettle i)
    else s
  | .parked =>
    match x.wait with
    | some w => if x.before == .sleep && !delivers w && s.met i then s.setSlot i { x with before := .ready } else s
    | none => s
  | .window => if s.windowsWait i then s else s.setSlot i { x with st := .ready }
  | _ => s

/-- A parked strand whose wait delivers a result and is met (16 R385). -/
def parkedMet (s : State) : Option (Fin 16) :=
  allSlots.find? fun i => (s.slot i).st == .parked && (s.slot i).before == .sleep && (match (s.slot i).wait with
    | some w => delivers w && s.met i
    | none => false)

/-! ## The waits of spilled strands (16 R390) -/

/-- A spilled strand as it would stand in the slot it was spilled from, with its workspace at its WP: so its wait and its
head see its context. -/
def borrow (s : State) (c : Spilled) : State :=
  { s.setSlot c.from_ c.slot with mem := putBytes s.mem (s.key c.slot.wp.toNat) c.regs }

/-- What stood in the slot and at the WP of a borrowed context is there again, and the context holds what its strand has
come to. -/
def giveBack (s t : State) (n : Nat) (c : Spilled) : State :=
  let k := s.key c.slot.wp.toNat
  let poison := (List.range 12).foldl (fun p j =>
    if (SMap.find (k / 64 + j) s.poison).isSome then SMap.put (k / 64 + j) () p else SMap.erase (k / 64 + j) p) t.poison
  let u := t.setSlot c.from_ (s.slot c.from_)
  { u with
    mem := putBytes t.mem k (bytesAt s.mem k 768), poison := poison
    core := { u.core with
      spilled := SMap.put n { c with slot := t.slot c.from_, regs := bytesAt t.mem k 768 } u.core.spilled } }

/-- Is the wait of a spilled strand over, as one that delivers a result or as another? -/
def spilledOver (s : State) (c : Spilled) (delivering : Bool) : Bool :=
  match c.slot.wait with
  | some w => c.slot.before == .sleep && delivers w == delivering && (s.borrow c).met c.from_
  | none => false

/-- A spilled strand whose wait delivers a result and is met. -/
def spilledMet (s : State) : Option (Nat × Spilled) := s.core.spilled.find? fun c => s.spilledOver c.2 true

/-- The other waits of spilled strands that are over are marked complete. -/
def wakeSpilled (s : State) : State :=
  { s with core := { s.core with spilled := s.core.spilled.map fun (n, c) =>
    (n, if s.spilledOver c false then { c with slot := { c.slot with before := .ready } } else c) } }

/-! ## The ends of windows -/

/-- The end of a `JOIN` (11 R274): the strand goes on when the old value was 1, and ends otherwise, once its assembly
buffer finds a hold entry. -/
def joinEnd (s : State) (i : Fin 16) (w : Window) : State :=
  let old : Word := match w.writes with
    | .reg _ v :: _ => v
    | _ => 0
  if old = 1 then s
  else if s.flushWaits i then
    s.modSlot i fun x => { x with
      windows := w :: x.windows, st := .sleep, wait := some (.hold 1), waitFrom := some (x.waitFrom.getD s.tile.cycle) }
  else s.endStrand i

/-! ## The end of a cycle -/

/-- Does the event unit have anything to do: sets, clears, or an entry of this core that is ready and has not been moved (11
R275, R278)? -/
def eventWork (s : State) : Bool :=
  !s.tile.sets.isEmpty || !s.tile.clears.isEmpty || s.tile.table.any fun t =>
    !t.ready && t.core == s.core.num && eventsMet s.tile.events[(Fin.ofNat 4 t.entry.wq.toNat)] t.entry.wait false

/-- Has a slot that may be filled a source (11 R265)? -/
def fillWork (s : State) : Bool :=
  s.emptySlot.isSome && (!s.core.handlerQ.isEmpty || s.core.arrivals.any (fun a => (s.arrivalSlot a).isSome)
    || !s.core.ready.isEmpty || !s.core.deque.hw.isEmpty || s.core.deque.inRegion != 0)
  || s.core.arrivals.any fun a => a.slot.isSome && (s.arrivalSlot a).isSome

/-- Does the engine work of a slot's speculative task stand before a store for which the buffer has no line (09 R235)? -/
def stallsFull (s : State) (i : Fin 16) : Bool :=
  (s.core.streams.any fun m => m.slot == i && !m.ended && s.bufferFullFor i (s.key (m.d + 32 * m.step) / 64))
  || s.core.mat.any fun o => o.slot == i && o.steps < o.allSteps && (match o.kind with
    | .mrd => s.bufferFullFor i (s.key (s.lineOf o o.unitNow) / 64)
    | .xpkd => s.bufferFullFor i (s.key o.dst / 64)
    | _ => false)

/-- What the units of the tile find to do at the end of a cycle. -/
def queueWork (s : State) : State :=
  let s := if s.eventWork then s.after 0 .eventUnitCycle else s
  let s := if s.fillWork then s.after 0 .slotFill else s
  let s := match s.spillChoice with
    | some i => s.after 0 (.spill i)
    | none => s
  let s := if s.frontierMoved then s.after 0 .frontierChange else s
  let s := allSlots.foldl (fun s i => if s.stallsFull i && s.holdsLowest i then s.after 0 (.taskSettle i) else s) s
  allSlots.foldl (fun s i => if s.waitedOut i then s.after 0 (.waitExpired i) else s) s

/-- The search of an idle core for work (11 R273): it begins at the next core, and each probe that finds nothing moves on. -/
def probe (s : State) : State :=
  let skip (n : Nat) : Nat := if n % 16 = s.core.num then (n + 1) % 16 else n % 16
  let next := if !s.idle then none
    else match s.core.stealAt with
      | none => some (skip (s.core.num + 1))
      | some v => some (skip (v + 1))
  { s with core := { s.core with stealAt := next } }

/-- Does an engine of the tile hold work (19 R451)? -/
def engineWork (s : State) : Bool := !s.core.pg.isEmpty || !s.core.streams.isEmpty || !s.core.mat.isEmpty || !s.core.winOps.isEmpty

/-- The progress count (19 R451). `moved` tells that a turn was taken or an engine made a step. -/
def countProgress (s : State) (moved : Bool) : State :=
  let busy := s.engineWork || allSlots.any fun i => (s.slot i).st == .ready || (s.slot i).st == .matrix
  let n := if moved || !busy then 0 else s.tile.progress + 1
  let s : State := { s with tile := { s.tile with progress := n } }
  if 2 ^ s.tile.wdl.toNat ≤ n then s.after 0 .tileWatchdog else s

/-- Notches that fall before the next cycle (19 R431, R433). A replay takes its notches from its log. -/
def scheduleNotch (s : State) : State :=
  if !s.takesNotches || s.replays then s
  else if s.isNotchPoint (s.tile.cycle + 1) then s.after 1 .notchPoint
  else if s.nearlyFull && s.tile.notch.st == .run then s.after 1 .earlyNotch
  else s

/-- A quantum of a folded tile (20 R479). -/
def countQuantum (s : State) : State :=
  if s.rim.foldMate.isSome && s.rim.resident then
    let n := s.rim.foldQuantum + 1
    let s : State := { s with rim := { s.rim with foldQuantum := n } }
    if n = 2 ^ 17 then s.afterClk 0 .foldResidencySwitch else s
  else s

/-- Both clocks and `PERF.CYC` advance, the banks and read counts of the cycle move back, and what workspace buffer traffic
has claimed is served (01 R17). -/
def tick (s : State) : State :=
  let s := s.bump 6
  { s with
    clk := s.clk + 1
    tile := { s.tile with cycle := s.tile.cycle + 1 }
    core := { s.core with served := s.core.claimed, claimed := [], servedBefore := s.core.served, reads := (0 :: s.core.reads).take 17 } }

/-- The cycle ends: what has reached the core lands, the tile's other cores steal, payload lines move, the units find their work, the clocks advance, and the waits that are over end, so
that a condition that changed in this cycle counts from the next one on (08 R212, R213). -/
def endCycle (s : State) (moved : Bool) : State :=
  let s := allSlots.foldl movePayload s.landAll.serveProbes.resetDomains.suffer
  let s := ((s.queueWork.probe.countProgress moved).scheduleNotch.countQuantum).tick
  (allSlots.foldl wakeSlot s.drainChanged).wakeSpilled.parkBoundaries

end State

end Sys2Proof.Machine
end

