-- ==== Sys2Proof/Machine/Turn.lean ====
section
/-! DEFINITION. One cycle of the core: waking, the rotation (01 R14), window ends (01 R20), annulment (01 R24), bundles
(01 R19) with their wards (03 R80, R81), spare cycles for the matrix engine (01 R22) and the end of the cycle. -/

namespace Sys2Proof.Machine

/-- Go on from a next state. -/
def andThen (r : Result) (k : State → Result) : Result :=
  match r with
  | .next s => k s
  | .fault e => .fault e
  | .refused e => .refused e

namespace State

/-! ## The rotation -/

/-- Slots in cyclic order from the one after i. -/
def slotsAfter (i : Fin 16) : List (Fin 16) := (List.range 16).map fun n => i + 1 + .ofNat 16 n

/-- May a slot take a turn: READY or MATRIX, its previous turn at least eight cycles ago (01 R14)? -/
def due (s : State) (i : Fin 16) : Bool :=
  let x := s.slot i
  (x.st == .ready || x.st == .matrix) && (match x.lastTurn with
    | none => true
    | some c => decide (c + 8 ≤ s.tile.cycle))

/-- The slot that takes the cycle's turn: the one that a bubble has delayed, else the next in rotation (01 R14, R25). -/
def picked (s : State) : Option (Fin 16) :=
  match s.core.owed.filter s.due with
  | some i => some i
  | none => (slotsAfter s.core.rot).find? s.due

/-- The slot has its turn: the rotation pointer moves to it. -/
def takeTurn (s : State) (i : Fin 16) : State :=
  { s with core := { s.core with rot := i, owed := none } }.modSlot i fun x => { x with lastTurn := some s.tile.cycle }

/-! ## Bundles -/

/-- The context in which a head issues; the slot already stands at the head that follows. -/
def prepare (s : State) (i : Fin 16) (bpc : BitVec 22) (h : LineHead) (pair : Bool) (npc pc : BitVec 22)
    (after fold : Byte) (snap : Option Snap) (step : Int) : State :=
  let x := s.slot i
  { s.setSlot i { x with pc := pc, fold := fold } with
    issue := {
      slot := i, bpc := bpc, info := ⟨h.pc, h.head, h.tail, pair, h.second, npc⟩, npc := npc, foldBefore := x.fold,
      foldAfter := after, result := .done, strand := x.strand, tag0 := s.core.nextTag, snap := snap, step := step } }

/-- The bundle has issued: the windows opened before it count its heads (01 R20), loops are updated (04 R109), and a
wait ends, and with it an exemption (19 R450, R456). `was` is the slot before the bundle. -/
def finish (s : State) (n : Nat) (last : LineHead) (was : Slot) : State :=
  let i := s.issue.slot
  let s : State := { s with issue := { s.issue with snap := none } }
  if (s.slot i).strand ≠ s.issue.strand then s
  else s.modSlot i fun x => { x with
    windows := x.windows.map fun w => if w.tag < s.issue.tag0 then { w with left := w.left - n } else w
    loops := (loopUpdate x.loops last.pc last.next).1
    waitFrom := if x.st == .sleep || x.st == .trapped then some s.tile.cycle else none
    wait := if x.st == .sleep then x.wait else none
    emulate := none
    ends := false
    exempt := x.exempt && !(was.exempt && was.waitFrom.isSome)
    retried := false }

/-- Issue a head: a pattern that is no instruction raises ILLEGAL_ENCODING (03 R77). -/
noncomputable def issueDecoded (s : State) (d : Decoded) : Result :=
  match d with
  | .ok i => exec i s
  | .illegal _ => s.raiseDecode cILLEGAL

def isDone (r : Result) : Bool :=
  match r with
  | .next s => match s.issue.result with
    | .done => true
    | _ => false
  | _ => true

def failsDecode (r : Result) : Bool :=
  match r with
  | .next s => match s.issue.result with
    | .trapped _ _ d => d
    | _ => false
  | _ => false

def isForfeit (r : Result) : Bool :=
  match r with
  | .next s => s.issue.result == .forfeited || s.issue.result == .bubble
  | _ => false

/-- A ward mismatch goes to the detection path: the bundle takes no effect (03 R80, 07 R185). -/
def wardFault (s : State) (fpc : BitVec 22) : Result := .next (s.after 0 (.tileFault .ward s.core.num fpc.toNat))

/-- Issue a bundle of one head: a second head whose first was annulled ends the block that the first would have ended
(03 R80). -/
noncomputable def runOne (s : State) (i : Fin 16) (h : LineHead) : Result :=
  let x := s.slot i
  let after := foldHead x.fold h.head
  let (d, step) := effective x.loops h
  let d := if h.second && h.head.getLsbD 15 then .illegal .reservedValue else d
  let endSig := bodyEndSig x.loops h.pc
  let sig := if blockEnding h.head then some (sigOf h.head h.tail) else endSig
  let (_, pc) := loopUpdate x.loops h.pc h.next
  let r := (s.prepare i h.pc h false h.next pc (if x.ends then 0x5A else after) (if sig.isSome || x.ends then 0x5A else after)
    x.emulate step).issueDecoded d
  if failsDecode r then r
  else if sig.isSome && sig != some after then s.wardFault h.pc
  else andThen r fun t => .next (if t.issue.result == .done then t.finish 1 h x else t)

/-- Issue a pair: both heads pass their decode checks first, the earlier one reported; a forfeit of either forfeits the
whole; then the earlier head's own trap or wait; otherwise both take effect, neither seeing the other's result (01 R16,
R19; 03 R77; 04 R96). Where the later head takes effect first, it still pops `qi` after the earlier one (01 R31). -/
noncomputable def runPair (s : State) (i : Fin 16) (h₁ h₂ : LineHead) : Result :=
  let x := s.slot i
  let after := foldHead (foldHead x.fold h₁.head) h₂.head
  let (d₁, step₁) := effective x.loops h₁
  let (d₂, step₂) := effective x.loops h₂
  let d₁ := if vectorClass h₁.head != vectorClass h₂.head then d₁ else .illegal .reservedValue
  let d₂ := if h₂.head.getLsbD 15 then .illegal .reservedValue else d₂
  let sig := if blockEnding h₁.head then some (sigOf h₁.head h₁.tail)
    else if blockEnding h₂.head then some (sigOf h₂.head h₂.tail) else bodyEndSig x.loops h₂.pc
  let (_, pc) := loopUpdate x.loops h₂.pc h₂.next
  let fold := if sig.isSome then 0x5A else after
  let run (h : LineHead) (d : Decoded) (step : Int) (snap : Option Snap) (t : State) : Result :=
    let p := t.prepare i h₁.pc h true h₂.next pc after fold snap step
    { p with issue := { p.issue with foldBefore := x.fold, tag0 := s.core.nextTag } }.issueDecoded d
  let r₁ := run h₁ d₁ step₁ x.emulate s
  let r₂ := run h₂ d₂ step₂ x.emulate s
  if failsDecode r₁ then r₁
  else if failsDecode r₂ then r₂
  else if sig.isSome && sig != some after then s.wardFault (if blockEnding h₁.head then h₁.pc else h₂.pc)
  else if isForfeit r₁ then r₁
  else if isForfeit r₂ then r₂
  else if !isDone r₁ then r₁
  else if !isDone r₂ then r₂
  else
    let swap := takesLast h₁.head || takesFirst h₂.head h₂.tail
    let snap := some (x.emulate.getD (s.sources i))
    let popped : State := match r₁ with
      | .next t => { s with core := { s.core with mq := t.core.mq } }
      | _ => s
    let first := if swap then run h₂ d₂ step₂ snap popped else run h₁ d₁ step₁ snap s
    let (h, d, step) := if swap then (h₁, d₁, step₁) else (h₂, d₂, step₂)
    -- the first head may have transferred
    let second (t : State) : Result :=
      let y := t.slot i
      let (pc, fold) := if y.strand = x.strand then (y.pc, y.fold) else (pc, fold)
      let p := t.prepare i h₁.pc h true h₂.next pc after fold snap step
      { p with issue := { p.issue with foldBefore := x.fold, tag0 := s.core.nextTag } }.issueDecoded d
    let both := andThen first fun t =>
      if t.issue.result == .done then
        andThen (second (if swap then { t with core := { t.core with mq := s.core.mq } } else t)) fun u =>
          .next (if u.issue.result == .done then
            (if swap then ({ u with core := { u.core with mq := t.core.mq } } : State) else u).finish 2 h₂ x else u)
      else .next t
    -- what only both together ask for: another queue item, hold entry or window
    match both with
    | .next u => match u.issue.result with
      | .done => both
      | .trapped c _ _ =>
        (s.prepare i h₁.pc (if swap then h₁ else h₂) true h₂.next pc after fold none 0).raise c.code c.addr c.detail
      | _ => (s.prepare i h₁.pc h₁ true h₂.next pc after fold none 0).forfeit
    | r => r

/-! ## A strand's turn -/

/-- Annul the heads that the pending skip count covers (01 R24): each is folded and counted, a block-ending head ends
its block without a comparison, and the head due afterwards is returned. A block-ending first head of a pair ends the block
with its partner (03 R80). DESIGN CHOICE (log entry 46): a fetch or line trap met on the address of a head that the count
covers is raised, though an annulled head raises no trap of its own. -/
def annul (s : State) (i : Fin 16) : Nat → (Fetch × State) ⊕ (LineHead × State)
  | 0 => .inl (.trap ⟨cILLEGAL, 0, 0⟩, s)
  | n + 1 =>
    match s.fetchHead i (s.slot i).pc with
    | .trap c => .inl (.trap c, s)
    | .waking b => .inl (.waking b, s)
    | .head h s =>
      let x := s.slot i
      if swSKIP x.sw = 0 then .inr (h, s)
      else
        let (loops, pc) := loopUpdate x.loops h.pc h.next
        let after := foldHead x.fold h.head
        let pairFirst := h.head.getLsbD 15 && !h.second
        let ended := x.ends || (blockEnding h.head && !pairFirst) || (bodyEndSig x.loops h.pc).isSome
        annul ((s.setSlot i { x with
          pc := pc, loops := loops, fold := if ended then 0x5A else after, ends := blockEnding h.head && pairFirst
          sw := x.sw - 0x0000010000000000 }).bump 3) i n

/-- The head due at a slot's turn, as a trap reports it with its bundle (07 R177). DESIGN CHOICE (log entry 46): of a head
that a fetch or line check refuses, HEAD and TAIL are 0, and NPC is its own address. -/
def headDue (s : State) (i : Fin 16) : HeadInfo :=
  let x := s.slot i
  match s.fetchHead i x.pc with
  | .head h t =>
    let pair := h.head.getLsbD 15 && !h.second
    let npc := match (if pair then t.fetchHead i h.next else .head h t) with
      | .head h₂ _ => h₂.next
      | _ => h.next
    ⟨x.pc, h.head, h.tail, pair, h.second, npc⟩
  | _ => ⟨x.pc, 0, 0, false, false, x.pc⟩

/-- Trap at the beginning of a turn, before the head due: it resumes there, and reports that head, or the one whose
long result, stream, store or packet has failed (03 R77 check 1; 07 R177). -/
def trapDue (s : State) (i : Fin 16) (c : Cause) (info : Option HeadInfo) : State :=
  let x := s.slot i
  let h := info.getD (s.headDue i)
  s.takeTrap i c h x.pc h.npc x.fold

def forfeitTurn (s : State) : State :=
  { s.bump 0 with issue := { s.issue with result := .forfeited } }

/-- Words that the ending windows push to `qo`. -/
def windowPush (ws : List Window) : Nat :=
  (ws.flatMap (·.writes)).foldl (fun n w => match w with
    | .reg r _ => if r == 31 then n + 1 else n
    | .vec r _ _ => if r = 31 then n + 4 else n
    | _ => n) 0

/-- The windows of a slot end together (01 R20, R21): every write is made, in issue order, and one that makes a dead letter traps
(12 R300); then the first trap that a window
holds is raised (08 R196), the other traps and the `JOIN`s staying for the next turn; then a `JOIN` decides (11 R274). -/
noncomputable def endWindows (s : State) (i : Fin 16) (ended : List Window) : Result :=
  let (s, ended) := ended.foldl (fun (s, l) w =>
    if w.join then (s, l ++ [w])
    else
      let t := w.writes.foldl applyWrite s
      (t, l ++ [match s.qoDead i with
        | some ltn => if t.core.perf[18] = s.core.perf[18] then w else { w with trap := w.trap.or (some (deadCause ltn)) }
        | none => w])) ((s, []) : State × List Window)
  let plain := ended.filter fun w => !w.join && w.trap.isNone
  let keep := ended.filter fun w => w.join || w.trap.isSome
  let first := ended.find? fun w => w.trap.isSome
  let kept := keep.filter fun w => some w != first
  let s := s.modSlot i fun x => { x with
    windows := kept.map (fun w => if w.join then w else { w with writes := [], store := none })
      ++ x.windows.filter fun w => !ended.any (·.tag == w.tag) }
  let reads := (plain.filter fun w => w.store.isNone).map (·.tag)
  let s : State := { s with core := { s.core with winOps := s.core.winOps.filter fun o => !(o.slot == i && reads.contains o.tag) } }
  let written := (ended.filter fun w => w.store.isSome).foldl (fun r w => andThen r fun s => exec (.windowUnitWrite i w.tag) s) (.next s)
  andThen written fun s =>
    match first with
    | some w =>
      let s := match w.back with
        | some (pc, fold, loops) => s.modSlot i fun x => { x with pc := pc, fold := fold, loops := loops }
        | none => s
      let c := w.trap.getD ⟨0, 0, 0⟩
      .next { s.trapDue i c (some w.info) with issue := { s.issue with result := .trapped c false false } }
    | none =>
      match kept with
      | w :: _ => .next ((s.modSlot i fun x => { x with windows := x.windows.filter fun v => v.tag != w.tag }).joinEnd i w)
      | [] => .next s

/-- What the banks of a store window say to its write, if it cannot be made in this turn. -/
def storePlace (s : State) (i : Fin 16) (w : Window) : Option Place :=
  ((s.winOpOf i w.tag).filter fun _ => w.store.isSome).bind fun o => o.banks.findSome? fun b =>
    match s.bankCheck (b.val * 2 ^ 20) 1 with
    | some p => some p
    | none => if s.bankBusy (b.val * 2 ^ 20) then some (.here (b.val * 2 ^ 20)) else none

/-- Does a store window end in a GATED bank (01 R33)? -/
def storeGated (s : State) (i : Fin 16) (w : Window) : Bool :=
  match s.storePlace i w with
  | some (.trap _) => true
  | _ => false

/-- Does the checker stage recompute a head's results (01 R27)? The residue unit checks the matrix heads. -/
def checkedHead (h : LineHead) : Bool := !decide (0x3B ≤ majorOf h.head ∧ majorOf h.head ≤ 0x3D)

/-- The checker stage (01 R27): on a mismatch the bundle's writes are withheld and the bundle is tried again at the
strand's next turn, with a retry marker in the log; a second mismatch is a tile fault. -/
def checked (s : State) (i : Fin 16) (hs : List LineHead) (r : Result) : Result :=
  andThen r fun t =>
    if t.issue.result == .done && s.upsets.contains s.tile.cycle && hs.any checkedHead then
      let u : State := { s.bump 4 with upsets := s.upsets.erase s.tile.cycle }
      if (s.slot i).retried then .next (u.after 0 (.tileFault .checker s.core.num (s.slot i).pc.toNat))
      else
        let u := u.modSlot i fun x => { x with retried := true }
        .next (if s.replays then u else u.record 9 s.core.num i.val [] none)
    else .next t

/-- A strand's bundle: annulled heads first, then the head due, or the pair that it begins (01 R19, R24). -/
noncomputable def bundle (s : State) (i : Fin 16) : Result :=
  match s.annul i 5 with
  | .inl (.trap c, s) => .next { s.trapDue i c none with issue := { s.issue with result := .trapped c false true } }
  | .inl (.waking b, s) => .next (s.startWake b).forfeitTurn
  | .inl (.head _ _, s) => .next s
  | .inr (h, s) =>
    if h.head.getLsbD 15 && !h.second then
      if h.next.toNat / 64 ≠ h.pc.toNat / 64 then
        let after := foldHead (s.slot i).fold h.head
        (s.prepare i h.pc h false h.next h.next after after none 0).raiseDecode cILLEGAL
      else match s.fetchHead i h.next with
        | .head h₂ s => s.checked i [h, h₂] (s.runPair i h h₂)
        | .trap c => .next { s.trapDue i c none with issue := { s.issue with result := .trapped c false true } }
        | .waking b => .next (s.startWake b).forfeitTurn
    else s.checked i [h] (s.runOne i h)

/-- The state in which a slot's turn begins. -/
def beginTurn (s : State) (i : Fin 16) : State :=
  { s with issue := { Issue.reset with slot := i, strand := (s.slot i).strand } }

/-- What stops a strand at its turn before its bundle: a window write into a GATED bank, which stays to be made (01 R33,
07 R173), a WP that is not valid (01 R29), a workspace in a GATED bank (01 R33). -/
def turnTrap (s : State) (i : Fin 16) (gated : Bool) : Option Cause :=
  let wp := (s.slot i).wp.toNat
  if gated then some ⟨cGATED, 0, 0⟩
  else if !s.wpValid wp then some ⟨cWP, 0, 0⟩
  else match s.bankCheck wp 768 with
    | some (.trap c) => some ⟨c, 0, 0⟩
    | _ => none

/-- A strand's turn (01 R12 to R24). The writes of windows that end at it are made before anything traps (07 R173). -/
noncomputable def strandTurn (s : State) (i : Fin 16) : Result :=
  let x := s.slot i
  let s := s.beginTurn i
  if x.bucker then exec (if s.core.bucker.heap.any (fun m => m.toWrite != 0) then .buckerBuck else .buckerReplay) s
  else
  let ended := (s.endedWindows i).filter fun w => !s.storeGated i w
  if s.windowsWait i then
    .next (s.modSlot i fun x => { x with st := .window, waitFrom := some (x.waitFrom.getD s.tile.cycle) })
  else match ended.findSome? (s.storePlace i) with
  | some (.waking b) => .next (s.startWake b).forfeitTurn
  | some _ => .next s.forfeitTurn
  | none =>
  let pushed := match x.qo with
    | some b => decide (0 < windowPush ended ∧ s.holdFree < (qoForms b (windowPush ended)).1) && (s.qoDead i).isNone
    | none => false
  if pushed then .next s.forfeitTurn
  else andThen (s.endWindows i ended) fun s =>
    if (s.slot i).strand ≠ x.strand || s.issue.result != .done || (s.slot i).st != .ready then .next s
    else match s.turnTrap i ((s.endedWindows i).any (s.storeGated i)), (if x.emulate.isSome then [] else (s.slot i).deferred) with
    | some c, _ => .next { s.trapDue i c none with issue := { s.issue with result := .trapped c false true } }
    | none, d :: ds => .next ((s.modSlot i fun x => { x with deferred := ds }).trapDue i d.cause d.info)
    | none, [] => s.bundle i

/-! ## Cycles -/

/-- Give a spare cycle to the first matrix slot, from the one after i, whose operation has its operands (01 R22); one that
none can use counts in `PERF.MST` while an operation has steps to make (10 R254). -/
noncomputable def spareCycle (s : State) (i : Fin 16) : Result :=
  match (slotsAfter i).find? fun j => (s.slot j).st == .matrix && s.matrixReady j with
  | none => .next (if s.core.mat.any fun o => o.stop.isNone && !o.halt && decide (o.steps < o.allSteps) then s.bump 16 else s)
  | some j => exec (.matrixStep j) { s with core := { s.core with matRot := j } }

/-- The stream that the unit steps in a cycle: the first that has steps left at its beginning (05 R138). -/
def streamDue (s : State) : Option Nat := (s.core.streams.find? fun m => !m.ended).map (·.tag)

/-- A parked strand's head is made as its wait is met, and the strand stays PARKED with its wait complete; a trap waits until
it runs again (16 R385). -/
noncomputable def deliverParked (s : State) (i : Fin 16) : State :=
  match ((s.beginTurn i).modSlot i fun x => { x with st := .ready }).bundle i with
  | .next t =>
    (match t.issue.result with
    | .done => if (t.slot i).strand = (s.slot i).strand ∧ (t.slot i).st = SlotState.ready then
        t.modSlot i fun x => { x with st := .parked, before := .ready, wait := none }
      else t
    | .trapped .. => s.modSlot i fun x => { x with before := .ready }
    | _ => s)
  | _ => s

/-- The same for the first strand, parked or spilled, that has such a wait met; a spilled one has its results written into its
context, where its payload is moved at once (16 R390, log entry 17). -/
noncomputable def deliverMet (s : State) : State :=
  match s.parkedMet with
  | some i => s.deliverParked i
  | none =>
    match s.spilledMet with
    | some (n, c) => s.giveBack (((s.borrow c).deliverParked c.from_).finishPayload c.from_) n c
    | none => s

/-- The rest of a cycle after its turn: the stream unit, a parked strand's wait that delivers (16 R385), and the end. -/
noncomputable def restOfCycle (before : Option Nat) (took : Bool) (s : State) : Result :=
  let streams := before.isSome && s.streamDue == before
  andThen (if streams then exec .streamStep s else .next s) fun s =>
    .next (s.deliverMet.endCycle (took || streams))

/-- One cycle of a tile that is not frozen. -/
noncomputable def turn (s : State) : Result :=
  let s := s.serveEngine
  let before := s.streamDue
  match s.picked with
  | none => andThen ((s.bump 2).spareCycle s.core.matRot) (restOfCycle before false)
  | some i =>
    let t := s.takeTurn i
    if (t.slot i).st == .matrix then
      andThen (if t.matrixReady i then exec (.matrixStep i) t else t.spareCycle i) (restOfCycle before true)
    else
      andThen (t.strandTurn i) fun u =>
        match u.issue.result with
        | .forfeited => andThen ((u.modSlot i fun x => { x with
            waitFrom := some (x.waitFrom.getD s.tile.cycle) }).spareCycle u.core.matRot) (restOfCycle before true)
        | .bubble =>
          -- the slot that was due takes its turn in the next cycle
          let back := u.modSlot i fun x => { x with lastTurn := (s.slot i).lastTurn }
          let back : State := { back with core := { back.core with rot := s.core.rot, owed := some i } }
          andThen ((back.bump 1).spareCycle s.core.matRot) (restOfCycle before true)
        | _ => restOfCycle before true u

/-! ## Events -/

/-- The first event of an agenda that is due. -/
def popDue (now : Nat) : List (Nat × Instr) → Option (Instr × List (Nat × Instr))
  | [] => none
  | (c, i) :: l => if c ≤ now then some (i, l) else none

/-- An event of the rim and the module, which a frozen tile does not hold back (19 R430). -/
def rimEvent : Instr → Bool
  | .boostInterval | .launchRecord _ | .launchSlotWrite .. | .launchStart _ | .launchEnd .. | .swapOut | .swapIn | .notchCapture
  | .notchCopyLine | .notchCommit | .shadowFold | .rebase | .tileFault .. | .fieldPowerLoss _ | .siteUnreachable .. | .select
  | .restore | .replay | .bind | .release | .foldTile | .foldResidencySwitch | .recoveryFail | .hostMemAccess .. | .peerAccess ..
  | .scaleoutPacketReceive .. | .laneRetire _ | .portRekey _ | .collectiveStepReceive .. | .collectiveStepAck ..
  | .collectiveStepTimeout .. | .tierEpochEnd | .tierCopyLine _ | .tierSwitch _ | .jobCheckpointService | .jobRestore _
  | .channelRetire _ | .stripeMove | .dieMapOut | .mapOutAck | .firmwareMeasure _ | .scaleoutPortDown _ | .scaleoutPortUp _
  | .hostLinkDown | .hostLinkUp _ | .keyringChangeApply .. | .catchStore _ => true
  | _ => false

/-- A packet that a locked tile's senders keep or have returned (20 R467). -/
def returned : Instr → Bool
  | .atomicExecute _ | .raddUnitAdd _ | .remoteStorePerform _ | .remoteLoadServe _ | .remoteCounterIncrement _ | .messageAccept _
  | .deltaPacketAccept _ | .arrivalReceive _ | .remoteSetevArrival .. | .parkRequestServe _ | .deadLetterNotice .. | .redirect _ => true
  | _ => false

/-- What a locked tile's traffic becomes in the catch (20 R467). -/
def caught : Instr → Option CatchItem
  | .catchStore c => some c
  | .replyArrival r => some (.reply r)
  | .barrierReleaseWake b g v => some (.release b g v)
  | .knownFrontierUpdate t => some (.frontier t)
  | _ => none

/-- What becomes of an event from outside (19 R430, 20 R467): it happens, it is kept in the catch, it is lost to the tile, or
it waits. -/
inductive Gate where
  | run
  | keep (c : CatchItem)
  | drop
  | wait

def gate (s : State) (i : Instr) : Gate :=
  if s.locked then
    match caught i with
    | some c => .keep c
    | none => if rimEvent i then .run else if returned i then .drop else .wait
  else if rimEvent i || !s.tile.frozen then .run
  else .wait

/-- The same where n packets already wait: the fold store of a tile that is not resident holds 256, and refuses a further one to
its sender (20 R479). -/
def gateAt (s : State) (n : Nat) (i : Instr) : Gate :=
  if s.rim.foldMate.isSome && !s.rim.resident && returned i && decide (256 ≤ n) then .drop else s.gate i

/-- The first of some inputs that does not wait, with the inputs that are left; n packets wait before them. -/
def popFrom (s : State) (n : Nat) : List Instr → Option (Instr × Gate × List Instr)
  | [] => none
  | i :: l =>
    match s.gateAt n i with
    | .wait => (popFrom s (if returned i then n + 1 else n) l).map fun (j, g, r) => (j, g, i :: r)
    | g => some (i, g, l)

/-- The first input that does not wait, with the inputs that are left. -/
def popInput (s : State) (l : List Instr) : Option (Instr × Gate × List Instr) := s.popFrom 0 l

/-- An event of the rim, or an input, happens. -/
noncomputable def happen (s : State) (i : Instr) (g : Gate) : Result :=
  match g with
  | .run => exec i s
  | .keep c => .next (s.modRecovery fun r => { r with catch_ := r.catch_ ++ [c] })
  | _ => .next s

/-! ## Replay (19 R447, 20 R471) -/

/-- The tile's own copy of an event that a record has applied. -/
def dropDue (s : State) (i : Instr) : State :=
  match s.agenda.find? fun e => decide (e.1 ≤ s.tile.cycle) && e.2 == i with
  | some e => { s with agenda := s.agenda.erase e }
  | none => s

/-- A record has been applied: it stands in the log again. -/
def replayed (s : State) (r : LogRec) : State :=
  let s : State := if s.tile.replay.head? == some r then { s with tile := { s.tile with replay := s.tile.replay.drop 1 } } else s
  s.modNotch fun n => { n with log := n.log ++ [r], total := n.total + 1 }

/-- Apply the first record: its input, the mismatch of a retry marker (01 R27), or the notch that an END closes; a value that
was not read again is dropped. -/
noncomputable def applyRecordOf (s : State) (r : LogRec) : Result :=
  match r.ev with
  | some i => andThen (exec i (s.dropDue i)) fun t => .next (t.replayed r)
  | none =>
    let kind := bits r.hdr.toNat 63 58
    if kind = 9 then .next (({ s with upsets := s.tile.cycle :: s.upsets } : State).replayed r)
    else
      let s : State := { s with tile := { s.tile with replay := s.tile.replay.drop 1 } }
      .next (if kind = 10 then s.beginCapture else s)

/-- The record that a replay applies in this cycle; a value read waits for its head. -/
def recordDue (s : State) : Option LogRec :=
  match s.tile.replay with
  | r :: _ =>
    let due := if r.ev.isNone && bits r.hdr.toNat 63 58 == 8 then r.cycle + 1 else r.cycle
    if s.replays && decide (due ≤ s.tile.cycle) then some r else none
  | [] => none

/-- The cycle before the fault has been replayed: the tile stands until it is bound (20 R471). -/
def replayOver (s : State) : Bool :=
  s.replays && !s.tile.frozen && (match s.rim.recovery with
    | some r => decide (r.fcyc ≤ s.tile.cycle)
    | none => false)

/-! ## The step -/

/-- A core-clock cycle of a frozen tile: the tile cycle stands still (19 R430). A notch that waits for longer than WDL is a
hinge fault, and the tile rebases (R443). -/
def frozenCycle (s : State) : State :=
  let n := s.tile.notch.frozenFor + 1
  let s : State := { s.modNotch fun m => { m with frozenFor := n } with clk := s.clk + 1 }
  if (s.tile.notch.st == .waitCopy || s.tile.notch.st == .waitFold) && n == 2 ^ s.tile.wdl.toNat + 1 then s.afterClk 0 .rebase else s

/-- A timer of the tile, whose end is no step of an engine (19 R451). -/
def timer : Instr → Bool
  | .rtoResend _ | .hingeAcknowledgement _ | .handlerStarved _ | .refusalResend _ | .arrivalResend _ | .yieldExpiry _
  | .waitExpired _ | .tileWatchdog | .notchPoint | .earlyNotch => true
  | _ => false

/-- An event of the tile's agenda that is due happens. -/
noncomputable def agendaEvent (s : State) (i : Instr) : Result :=
  exec i (if timer i then s else { s with tile := { s.tile with progress := 0 } })

/-- Does a notch point stand first among the due events of the tile? It falls before the cycle's inputs (19 R431). -/
def notchFirst (s : State) : Option (Instr × List (Nat × Instr)) :=
  match popDue s.tile.cycle s.agenda with
  | some (.notchPoint, l) => some (.notchPoint, l)
  | some (.earlyNotch, l) => some (.earlyNotch, l)
  | _ => none

/-- What a tile that runs does next, when no event of the rim and no input is left: an event that is due, else a cycle. -/
noncomputable def tileStep (s : State) : Result :=
  match popDue s.tile.cycle s.agenda with
  | some (i, l) => ({ s with agenda := l } : State).agendaEvent i
  | none => s.turn

/-- One step: an event of the rim that is due; for a tile that replays, the next record of its log; an input; an event of the
tile that is due; else one cycle. A frozen tile takes no cycle and no event of its own. -/
noncomputable def oneStep (s : State) : Result :=
  match popDue s.clk s.clkAgenda with
  | some (i, l) => ({ s with clkAgenda := l } : State).happen i (match s.gate i with
      | .keep c => .keep c
      | _ => .run)
  | none =>
    if s.replayOver then .next (({ s with tile := { s.tile with frozen := true } } : State).afterClk 1 .bind)
    else match (if s.tile.frozen then none else s.recordDue), (if s.tile.frozen then none else s.notchFirst) with
    | some r, _ => s.applyRecordOf r
    | none, some (i, l) => exec i { s with agenda := l }
    | none, none =>
      match s.popInput s.inputs with
      | some (i, g, l) => ({ s with inputs := l } : State).happen i g
      | none => if s.tile.frozen then .next s.frozenCycle else s.tileStep

end State

end Sys2Proof.Machine
end

