-- ==== Sys2Proof/Machine/Step.lean ====
section
/-! DEFINITION. The step of the machine, and the placing of one instruction where the next step fetches. -/

namespace Sys2Proof.Machine

/-- One step (log entry 23: noncomputable, since compiled Lean has no place for so many constructors). -/
noncomputable def step (s : State) : Host.Outcome State Fault Refusal := s.oneStep

/-- The code address of the line in which `withFetchWord` places its instruction. -/
def fetchBase : Nat := 0x10000

/-- A line of one head (03 R67): the header, the head, and the tail at the line's end. -/
def lineOfOne (head : BitVec 16) (tail : Nat) : List Byte :=
  let len := tailLen head
  leBytes 2 0x0800 ++ leBytes 2 head.toNat ++ List.replicate (2 * (30 - len)) 0 ++ leBytes (2 * len) tail

/-- The fold of a strand whose block begins so that a block-ending head's signature agrees with it (03 R79, R80). -/
def foldFor (head : BitVec 16) (sig : Byte) : Byte := (sig ^^^ head.extractLsb' 0 8).rotateRight 1 ^^^ head.extractLsb' 8 8

/-- The state with an instruction of the opcode table in a line of its own, and a strand in slot 0 that stands at it and has
the next turn, in a block that ends there where the head ends one: what a launch does for a program's first strand (log entry 22). -/
def State.withFetchWord (s : State) (nbits w : Nat) : State :=
  let n := (nbits - 16) / 16 * 16
  let head : BitVec 16 := .ofNat 16 (w / 2 ^ n)
  let line := lineOfOne head (w % 2 ^ n)
  let x : Slot := { Slot.none with
    st := .ready, strand := s.core.nextStrand, pc := .ofNat 22 (fetchBase + 2), priv := (s.slot 0).priv, wp := s.rim.twb
    fold := if blockEnding head then foldFor head (sigOf head (.ofNat 64 (w % 2 ^ n))) else 0x5A }
  { s with
    core := { s.core with slots := s.core.slots.set 0 x, rot := 15, nextStrand := s.core.nextStrand + 1 }
    tile := { s.tile with frozen := false }
    rim := { s.rim with recovery := none }
    mem := putBytes s.mem (s.key fetchBase) line
    agenda := s.agenda.filter fun e => decide (s.tile.cycle < e.1)
    clkAgenda := s.clkAgenda.filter fun e => decide (s.clk < e.1)
    inputs := [] }

end Sys2Proof.Machine
end

