-- ==== Sys2Proof/Safety.lean ====
section
/-! DEFINITION. What counts as a safe state: the invariants that the claims speak of, and the conditions on a state and its
operands under which a head takes its own effect. -/

namespace Sys2Proof.Machine

/-- Memory is in its canonical form: addresses strictly rising, no entry that holds what an unlisted address reads as. -/
def State.MemoryCanonical (s : State) : Prop := Memory.wf s.mem = true

/-- A legal set of operands (01 R31, R32): no vector number 16 to 29, no port where none may stand, no two sources of one
parity. -/
def LegalOperands (os : List Opd) : Prop := os.any Opd.illegal = false ∧ parityClash os = false

namespace State

/-- What a head pops from `qi` is there (01 R16, R31). -/
def PopReady (s : State) (os : List Opd) : Prop :=
  qiNeed os = 0 ∨ ∃ q, s.me.qi = some q ∧ qiNeed os ≤ queueWords s.core.mq[q]

/-- What a head pushes to `qo` is accepted (01 R16, R31; 12 R300, R303): its port is bound, its assembly buffer has room,
and the messages that the push completes find hold entries and a destination that has not exited. -/
def PushReady (s : State) (os : List Opd) : Prop :=
  qoPush os = 0 ∨ ∃ b, s.me.qo = some b ∧ (qoPush os = 4 → b.buf.length + 4 ≤ 64) ∧ (qoForms b (qoPush os)).1 ≤ s.holdFree
    ∧ (0 < (qoForms b (qoPush os)).1 → s.qoDead s.issue.slot = none)

/-- A head with these operands issues in this state (03 R77; 01 R16): its operands are legal, its ports are ready, it uses
no port while its task is speculative (09 R235), no line that it reads a register from is poisoned (17 R407), and no register
that it names stands in a payload line still to be moved. -/
def Issues (s : State) (os : List Opd) : Prop :=
  LegalOperands os ∧ s.PopReady os ∧ s.PushReady os
    ∧ ((s.speculative s.issue.slot).isNone = true ∨ (qiNeed os = 0 ∧ qoPush os = 0))
    ∧ (∀ r ∈ s.opdRanges (os.filter Opd.reads), s.poisoned (s.key r.1) r.2 = false)
    ∧ (∀ r ∈ s.opdRanges os, s.payloadHeld r.1 r.2 = false)

/-- Every format code that a head names exists on the wafer, or the rim's firmware performs the head (02 R43, 07 R184). -/
def Accepts (s : State) (formats : List (BitVec 5 × Bool)) : Bool :=
  formats.all fun f => f.2 || (s.me.emulate.isSome && decide (f.1.toNat < 16))

/-- The values of the sources a and b of a head, a read first, and the state after what they pop (01 R31). -/
def read2 (s : State) (a b : Reg) : Word × Word × State :=
  let (x, t) := s.readW a
  let (y, t) := t.readW b
  (x, y, t)

/-- The pending skip count becomes k when a compare's condition holds and k is not zero (04 R103; 01 R24, R35). -/
def skipIf (s : State) (holds : Bool) (k : BitVec 2) : State :=
  if holds = true ∧ k ≠ 0 then s.setSw 0x0000030000000000 (w64 (k.toNat * 2 ^ 40)) else s

/-- An address of n bytes, aligned to m, leads into the strand's own slice at an offset: no open acquire covers the tile, no
payload line stands there, and where the access reads, no buffered line of a lower key (01 R16; 08 R189, R199; 09 R234). -/
def OwnPlace (s : State) (ea : Word) (n m off : Nat) (read : Bool) : Prop :=
  s.checkAddr ea n m = .here off ∧ s.acquiring s.core.ltn = false ∧ s.payloadHeld off n = false
    ∧ (read = true → s.lowerBuffers (s.key off / 64) = false)

/-- The same, and the access is granted in this cycle: its bank is not taken, its line is in no commit, and a read is within the
droop limits (01 R17, R25; 09 R236). -/
def OwnAccess (s : State) (ea : Word) (n m off : Nat) (read : Bool) : Prop :=
  s.OwnPlace ea n m off read ∧ s.bankBusy off = false ∧ (read = true → s.readsExceed 1 = false)

/-- An address leads into another slice, at a core of a tile and an offset there, and nothing holds the access of a strand
that does not speculate back (08 R189, R199; 09 R234, R236). -/
def FarAccess (s : State) (ea : Word) (n m ltn core off : Nat) : Prop :=
  s.checkAddr ea n m = .remote ltn core off ∧ s.acquiring ltn = false ∧ s.isSpeculative = false
    ∧ (ltn = s.core.ltn → s.committing ((sliceBase ltn core + off) / 64) = false)

/-- The state after a bank has served a read or a write of the issuing strand (01 R17, R25). -/
def served (s : State) (off : Nat) (read : Bool) : State := if read then (s.serve off).countReads 1 else s.serve off

/-- A window for the value of a remote access is open, and its request sent (08 R196, R222). -/
def asked (s : State) (la : BitVec 4) (q : Req) (dest : Dest) (acquire : Option Rect) : State :=
  (s.openWindow la ⟨0, 0, false, [], dest, none, s.issue.info, acquire, false, none, none⟩).sendReq q s.me.strand s.issue.info

/-- An entry stands last in the put/get queue with the next number, in the strand's name, and its first unit starts in the next
cycle (08 R206, R210). -/
def enqueued (s : State) (e : PgEntry) : State :=
  ({ s with core := { s.core with
    pg := s.core.pg ++ [{ e with id := s.core.nextEntry, strand := s.me.strand, slot := s.issue.slot.val }]
    nextEntry := s.core.nextEntry + 1 } } : State).after 1 (.putgetUnit s.core.nextEntry 0)

/-- No slot holds a speculative task, so that no write aborts one (09 R234). -/
def Settled (s : State) : Prop := ∀ i, s.speculative i = none

/-- A range of n bytes of the own slice that a head names, aligned to m, stands at an offset and may be touched (01 R16, R33;
08 R189). -/
def OwnRange (s : State) (ea : Word) (n m off : Nat) : Prop :=
  s.checkLocal ea n m = .here off ∧ s.payloadHeld off n = false

/-- A strand may send so many packets to a tile (09 R229; 12 R299, R300): it does not speculate, its accesses to the tile have
performed, so many hold entries are free, and the tile has not exited. -/
def MaySend (s : State) (ltn entries : Nat) : Prop :=
  s.isSpeculative = false ∧ s.rectClear s.me.strand (tileRect ltn) = true ∧ entries ≤ s.holdFree ∧ (s.keyOf ltn).st ≠ .exited

/-- An address names an arrangement of the own slice whose header passes every check, read as h by an engine that is then e
(13 R330, R331). -/
def Arranged (s : State) (a : Word) (h : Header) (e : Engine) : Prop :=
  let oneBank (x n : Nat) : Prop := x + n ≤ s.rim.visibleTop ∧ x / 2 ^ 20 = (x + n - 1) / 2 ^ 20
  ∃ off, s.addrForm a = some (s.core.ltn, s.core.num, off) ∧ off % 64 = 0 ∧ off + 64 ≤ s.rim.visibleTop ∧
    Engine.header (Engine.on s) off = (h, e) ∧ oneBank off (64 + 4 * 2 ^ h.log2nb) ∧ oneBank h.pool (32 * h.pcap) ∧
    h.reserved = false ∧ h.log2nb ≠ 15 ∧ h.pcap ≠ 0 ∧ h.pcap ≤ 32767 ∧ h.hwm ≤ h.pcap ∧ h.pool % 32 = 0 ∧
    s.bankCheck off 64 = none ∧ s.bankCheck h.pool 32 = none

/-- A delta engine ends the head's window, which it opens now, n cycles later with these writes or this trap (13 R325, R326);
its accesses and the ranges of the arrangement are kept while the window is open (R337, R339). -/
def engineEnds (s : State) (e : Engine) (n : Nat) (spans : List (Nat × Nat)) (writes : List WinWrite) (trap : Option Cause) : State :=
  (e.s.engineStarts s e n spans).longResult 0 n writes trap true

/-- A step that leads to t writes no memory at once: what reaches the core with it is in place at the end of the cycle, as in u
(09 R222; 12 R301; 13 R318). -/
def Lands (s t u : State) : Prop := t.mem = s.mem ∧ ∃ l, t.core.landing = s.core.landing ++ l ∧ u = l.foldl landOne t

/-- A head of a strand that does not speculate may read n bytes of the own slice, aligned to m, at an offset (01 R17, R25, R33;
08 R189; 17 R407). -/
def LocalRead (s : State) (ea : Word) (n m off : Nat) : Prop :=
  s.OwnRange ea n m off ∧ s.isSpeculative = false ∧ s.bankBusy off = false ∧ s.readsExceed 1 = false
    ∧ s.poisoned (s.key off) n = false

/-- `KEYSEL` delivers its status word, and the strand sleeps for as long as the rim's answer takes (17 R406). -/
def keyAnswered (s : State) (d : Reg) (result : Nat) : State :=
  (s.writeW d (s.keyStatus result)).await (.cycle (s.tile.cycle + class0Wait))

/-- The values of the vector sources a and b of a head, a read first, and the state after what they pop (01 R31). -/
def readV2 (s : State) (a b : Reg) : Vec × Vec × State :=
  let (x, t) := s.readV a
  let (y, t) := t.readV b
  (x, y, t)

/-- A vector destination takes the bits of a mask; nothing is written where the mask is empty, but for a port, which takes four
words (01 R31, 05 R124). -/
def vecTo (s : State) (d : Reg) (v m : Nat) : State :=
  if m = 0 ∧ d ≠ 31 then s else s.writeV d (.ofNat 256 v) (.ofNat 256 m)

/-- The flags of a floating vector head go to `sw` and, as those of coefficient 0, to `jf` (02 R51, 06 R152). -/
def flagged (s : State) (f : FFlags) : State := (s.orSw (swFlags f)).orJf (jfFlags 0 f)

/-- No speculative task of another slot has read a line of the issuing strand's workspace, so that no write of a register aborts
one (01 R30, 09 R234). -/
def WorkspaceUnread (s : State) : Prop :=
  ∀ i t, i ≠ s.issue.slot → s.speculative i = some t → ∀ l ∈ t.reads,
    l * 64 + 64 ≤ s.wKey s.issue.slot 0 ∨ s.wKey s.issue.slot 96 ≤ l * 64

/-- A head that completes leaves everything as it was but for: the bytes of `bytes`; the bits `flags` of its own `sw` and `jets` of
its own `jf`; the strand's place in its program; the queue bound to `qi` where it pops; where it pushes, its assembly buffer and the
message interface of the tile. What tracks the lines of memory that are written follows the bytes. -/
def Frame (s t : State) (bytes : Nat → Prop) (flags : Word) (jets : BitVec 128) (pops pushes : Bool) : Prop :=
  (∀ k, ¬ bytes k → SMap.getD t.mem k 0 = SMap.getD s.mem k 0) ∧
  t.me.sw &&& ~~~flags = s.me.sw &&& ~~~flags ∧ t.me.jf &&& ~~~jets = s.me.jf &&& ~~~jets ∧
  (∀ q, (pops = true ∧ s.me.qi = some q) ∨ t.core.mq[q] = s.core.mq[q]) ∧
  (let u := s.modMe fun x => { x with
    pc := t.me.pc, line := t.me.line, sw := t.me.sw, jf := t.me.jf, qo := if pushes then t.me.qo else x.qo }
  t = { u with
    mem := t.mem, core := { u.core with mq := t.core.mq }, agenda := if pushes then t.agenda else s.agenda,
    tile := if pushes then t.tile else { s.tile with notch := t.tile.notch } })

end State

/-- Of the first n elements of width w, those that a mask of lanes enables hold f, each modulo its width, and are written; the others
are not (05 R124). -/
def LanesAre (w n : Nat) (enabled : Nat → Bool) (f : Nat → Nat) (v m : Nat) : Prop :=
  ∀ i < n, (enabled i = true → elemAt w v i = f i % 2 ^ w ∧ elemAt w m i = 2 ^ w - 1) ∧ (enabled i = false → elemAt w m i = 0)

/-- All flags of the enabled elements among the first n. -/
def enabledFlags (n : Nat) (enabled : Nat → Bool) (f : Nat → FFlags) : FFlags :=
  ((List.range n).filter enabled).foldl (fun x i => x ||| f i) 0

/-- The integer meaning of a condition code (04 R97). -/
def IntegerRelation (cc : BitVec 3) (x y : Word) : Bool :=
  match cc.toNat with
  | 0 => decide (x = y)
  | 1 => decide (x ≠ y)
  | 2 => decide (x.toInt < y.toInt)
  | 3 => decide (x.toInt ≤ y.toInt)
  | 4 => decide (x.toNat < y.toNat)
  | _ => decide (x.toNat ≤ y.toNat)

/-- Is the group that holds element i enabled, by the position of its first element in its register (06 R149)? -/
def groupOn (vm : Byte) (c jo i : Nat) : Bool := laneOn vm (fmtWidth c) (i / groupSize jo * groupSize jo % perReg c)

/-- The coefficients c_0 to c_JO of the group g of an operand (06 R147). -/
def groupCoefs (c jo v g : Nat) : List Nat := (List.range (jo + 1)).map fun k => elemAt (fmtWidth c) v (g * groupSize jo + k)

end Sys2Proof.Machine
end

