-- ==== Sys2Proof/Certificates/Slice0/Obligations.lean ====
section
/-! DEFINITION. The statements for the provers: what each instruction does when it issues, what it leaves alone, what taking a
trap and decoding do, and what every step keeps. -/

open Sys2Proof Sys2Proof.Machine Sys2Proof.Machine.State

/-- 04 R94, R98. A two-source integer head that issues completes: its sources are read as 64-bit values, a first and b
after it, and d receives the result modulo 2^64. `ADD`, `SUB` and `ADDX` write N, Z, C and V as R94 gives them, `SUB` with C = 1
when no borrow occurs; the others write no flag. Shift counts are b[5:0]. -/
def Obligations.TwoSourceIntegerResults : Prop :=
  ∀ (s t : State) (d a b : Reg) (x y : Word), s.Issues [.dst d, .src a, .src b] → s.read2 a b = (x, y, t) →
    exec (.add d a b) s = .next ((t.writeW d (x + y)).setNZCV (x + y).msb (decide (x + y = 0))
        (decide (2 ^ 64 ≤ x.toNat + y.toNat)) (decide ((x + y).toInt ≠ x.toInt + y.toInt))) ∧
    exec (.sub d a b) s = .next ((t.writeW d (x - y)).setNZCV (x - y).msb (decide (x = y))
        (decide (y.toNat ≤ x.toNat)) (decide ((x - y).toInt ≠ x.toInt - y.toInt))) ∧
    (let c := (s.rdSw.getLsbD 1).toNat
     let r := x + y + w64 c
     exec (.addx d a b) s = .next ((t.writeW d r).setNZCV r.msb (decide (r = 0))
        (decide (2 ^ 64 ≤ x.toNat + y.toNat + c)) (decide (r.toInt ≠ x.toInt + y.toInt + c)))) ∧
    exec (.mul d a b) s = .next (t.writeW d (w64 (x.toNat * y.toNat))) ∧
    exec (.mulh d a b) s = .next (t.writeW d (.ofInt 64 (x.toInt * y.toInt / 2 ^ 64))) ∧
    exec (.mulhn d a b) s = .next (t.writeW d (w64 (x.toNat * y.toNat / 2 ^ 64))) ∧
    exec (.min d a b) s = .next (t.writeW d (if x.toInt ≤ y.toInt then x else y)) ∧
    exec (.max d a b) s = .next (t.writeW d (if y.toInt ≤ x.toInt then x else y)) ∧
    exec (.minn d a b) s = .next (t.writeW d (w64 (Nat.min x.toNat y.toNat))) ∧
    exec (.maxn d a b) s = .next (t.writeW d (w64 (Nat.max x.toNat y.toNat))) ∧
    exec (.and d a b) s = .next (t.writeW d (x &&& y)) ∧
    exec (.or d a b) s = .next (t.writeW d (x ||| y)) ∧
    exec (.xor d a b) s = .next (t.writeW d (x ^^^ y)) ∧
    exec (.andn d a b) s = .next (t.writeW d (x &&& ~~~y)) ∧
    exec (.shl d a b) s = .next (t.writeW d (w64 (x.toNat * 2 ^ (y.toNat % 64)))) ∧
    exec (.shr d a b) s = .next (t.writeW d (w64 (x.toNat / 2 ^ (y.toNat % 64)))) ∧
    exec (.sar d a b) s = .next (t.writeW d (.ofInt 64 (x.toInt / 2 ^ (y.toNat % 64)))) ∧
    exec (.rol d a b) s = .next (t.writeW d (w64 (x.toNat * 2 ^ (y.toNat % 64) + x.toNat / 2 ^ (64 - y.toNat % 64)))) ∧
    exec (.sel d a b) s = .next (t.writeW d (if s.rdSw.getLsbD 2 then x else y))

/-- 04 R100 to R102. A one-source or immediate integer head that issues completes with the result that the rules give.
`NEG` writes N, Z, C and V as `SUB` does for 0 − a; the others write no flag. A field of `BFX` or `BFI` that reaches past bit
63 is not among these cases: it is an illegal encoding. -/
def Obligations.OneSourceIntegerResults : Prop :=
  ∀ (s : State) (d : Reg),
    (∀ (a : Reg) (x : Word) (t : State), s.Issues [.dst d, .src a] → s.readW a = (x, t) →
      exec (.mov d a) s = .next (t.writeW d x) ∧
      exec (.neg d a) s = .next ((t.writeW d (-x)).setNZCV (-x).msb (decide (x = 0)) (decide (x = 0))
        (decide (x = BitVec.intMin 64))) ∧
      exec (.abs d a) s = .next (t.writeW d (if x.toInt < 0 then -x else x)) ∧
      (∃ n ≤ 64, x.toNat < 2 ^ (64 - n) ∧ (n < 64 → 2 ^ (63 - n) ≤ x.toNat) ∧ exec (.clz d a) s = .next (t.writeW d (w64 n))) ∧
      (∃ n ≤ 64, x.toNat % 2 ^ n = 0 ∧ (n < 64 → x.toNat / 2 ^ n % 2 = 1) ∧ exec (.ctz d a) s = .next (t.writeW d (w64 n))) ∧
      exec (.popc d a) s = .next (t.writeW d (w64 ((List.range 64).map fun i => x.toNat / 2 ^ i % 2).sum)) ∧
      (∃ r : Word, (∀ i < 8, r.extractLsb' (8 * i) 8 = x.extractLsb' (56 - 8 * i) 8) ∧
        exec (.bswap d a) s = .next (t.writeW d r)) ∧
      exec (.sextI8 d a) s = .next (t.writeW d (.ofInt 64 (signed 8 x.toNat))) ∧
      exec (.sextI16 d a) s = .next (t.writeW d (.ofInt 64 (signed 16 x.toNat))) ∧
      exec (.sextI32 d a) s = .next (t.writeW d (.ofInt 64 (signed 32 x.toNat))) ∧
      exec (.zextN8 d a) s = .next (t.writeW d (w64 (x.toNat % 2 ^ 8))) ∧
      exec (.zextN16 d a) s = .next (t.writeW d (w64 (x.toNat % 2 ^ 16))) ∧
      exec (.zextN32 d a) s = .next (t.writeW d (w64 (x.toNat % 2 ^ 32))) ∧
      (∀ imm : BitVec 22, exec (.addi d a imm) s = .next (t.writeW d (.ofInt 64 (x.toInt + imm.toInt)))) ∧
      (∀ imm : BitVec 32, exec (.lih d a imm) s = .next (t.writeW d (w64 (imm.toNat * 2 ^ 32 + x.toNat % 2 ^ 32)))) ∧
      (∀ pos len1 : BitVec 6, pos.toNat + len1.toNat ≤ 63 →
        exec (.bfx d a false pos len1) s = .next (t.writeW d (w64 (x.toNat / 2 ^ pos.toNat % 2 ^ (len1.toNat + 1)))) ∧
        exec (.bfx d a true pos len1) s
          = .next (t.writeW d (.ofInt 64 (signed (len1.toNat + 1) (x.toNat / 2 ^ pos.toNat)))))) ∧
    (∀ (a : Reg) (x : Word) (t : State) (pos len1 : BitVec 6), s.Issues [(Opd.acc d).noPort, .src a] → s.readW a = (x, t) →
      pos.toNat + len1.toNat ≤ 63 →
      ∃ r : Word, (∀ i < 64, r.getLsbD i = if pos.toNat ≤ i ∧ i ≤ pos.toNat + len1.toNat then x.getLsbD (i - pos.toNat)
          else (s.regW d.toNat).getLsbD i) ∧
        exec (.bfi d a pos len1) s = .next (t.writeW d r)) ∧
    (s.Issues [.dst d] → ∀ (imm : BitVec 22) (imm32 : BitVec 32),
      exec (.li d imm) s = .next (s.writeW d (.ofInt 64 imm.toInt)) ∧
      exec (.liG d imm32) s = .next (s.writeW d (.ofInt 64 imm32.toInt)))

/-- 04 R97, R103. A compare that issues completes: it writes N, Z, C and V as the subtraction a − b would (`TST`: N and Z of
a AND b, C and V zero), no register, and when its condition holds, which for `CMP` and `CMPI` is the relation of the two
integers that R97's table names, the pending skip count becomes k if k is not zero. -/
def Obligations.CompareResults : Prop :=
  ∀ (s t : State) (k : BitVec 2) (cc : BitVec 3) (a b : Reg) (imm : BitVec 22) (x y : Word), cc.toNat < 6 →
    (s.Issues [.src a, .src b] → s.read2 a b = (x, y, t) →
      exec (.cmp k cc a b) s = .next ((t.setNZCV (x - y).msb (decide (x = y)) (decide (y.toNat ≤ x.toNat))
        (decide ((x - y).toInt ≠ x.toInt - y.toInt))).skipIf (IntegerRelation cc x y) k) ∧
      (cc.toNat ≤ 1 → exec (.tst k cc a b) s = .next ((t.setNZCV (x &&& y).msb (decide (x &&& y = 0)) false false).skipIf
        (decide (x &&& y = 0) == decide (cc = 0)) k))) ∧
    (s.Issues [.src a] → s.readW a = (x, t) →
      let v : Word := .ofInt 64 imm.toInt
      exec (.cmpi k cc a imm) s = .next ((t.setNZCV (x - v).msb (decide (x = v)) (decide (v.toNat ≤ x.toNat))
        (decide ((x - v).toInt ≠ x.toInt - v.toInt))).skipIf (IntegerRelation cc x v) k))

/-- 04 R99; 01 R20. A division that issues with fewer than four open windows completes: it opens a window whose end, 36
cycles later at the latest, writes the quotient truncated toward zero or the remainder to d, and V, which is 1 for a divisor of
zero (quotient all ones, remainder a) and for the signed quotient that does not fit (quotient a, remainder 0). -/
def Obligations.DivisionResults : Prop :=
  ∀ (s t : State) (d a b : Reg) (la : BitVec 4) (x y : Word), s.Issues [.dst d, .src a, .src b] → s.read2 a b = (x, y, t) →
    s.me.windows.length < 4 →
    let long (r : Word) (v : Bool) : Result := .next (t.longResult la 36 [.reg d r, .swSet 1 (if v then 1 else 0)])
    (y = 0 → exec (.div d a b la) s = long (BitVec.allOnes 64) true ∧ exec (.divn d a b la) s = long (BitVec.allOnes 64) true ∧
      exec (.rem d a b la) s = long x true ∧ exec (.remn d a b la) s = long x true) ∧
    (y ≠ 0 → exec (.divn d a b la) s = long (w64 (x.toNat / y.toNat)) false ∧
      exec (.remn d a b la) s = long (w64 (x.toNat % y.toNat)) false) ∧
    (x = BitVec.intMin 64 → y = BitVec.allOnes 64 →
      exec (.div d a b la) s = long x true ∧ exec (.rem d a b la) s = long 0 true) ∧
    (y ≠ 0 → ¬(x = BitVec.intMin 64 ∧ y = BitVec.allOnes 64) →
      exec (.div d a b la) s = long (.ofInt 64 (x.toInt.tdiv y.toInt)) false ∧
      exec (.rem d a b la) s = long (.ofInt 64 (x.toInt - x.toInt.tdiv y.toInt * y.toInt)) false)

/-- 03 R69, R71; 04 R104 to R106. A transfer with an even immediate target, or with a register target that is a code
address, completes where the target line has the head: the strand goes on at the target, `BR` and `BRC` at a displacement from their
own head and `BRC` only when its condition holds on the flags; `CALL` and `CALLR` write the address of the head after the bundle to
w29, `CALLR` after it has read a. A target without a head raises BAD_TARGET on the transfer. `NOP` changes nothing.
04 R107, R108; 03 R91. A loop of a count that fits 32 bits completes. With a count of zero the strand goes on behind the
body, whose last head is the last of the LEN + 1 heads after the bundle. Otherwise the body is captured as the innermost live loop,
with that count, pass 0 and the steps of its increment line (none when INC is zero), when the body may be a body and fewer than
four loops are live. The line that the body runs into is entered. -/
def Obligations.TransferAndLoopResults : Prop :=
  (∀ (s : State) (sig : Byte) (tgt : BitVec 22) (cc : BitVec 3) (a : Reg) (x : Word) (t : State),
    decode ⟨0x0700, 0⟩ = .ok .nop ∧
    (let goes (i : Instr) (u : State) (pc : BitVec 22) : Prop :=
      (s.badIndex pc = false → exec i s = .next (u.jump pc)) ∧ (s.badIndex pc = true → exec i s = s.raise cTARGET)
    let linked (u : State) : State := u.setW s.issue.slot 29 (s.issue.npc.setWidth 64)
    (s.Issues [] →
      exec .nop s = .next s ∧
      (tgt.getLsbD 0 = false →
        goes (.br sig tgt) s (s.issue.info.fpc + tgt) ∧
        ((flagsOf s.rdSw).holds cc = true → goes (.brc cc sig tgt) s (s.issue.info.fpc + tgt)) ∧
        ((flagsOf s.rdSw).holds cc = false → exec (.brc cc sig tgt) s = .next s) ∧
        goes (.jmp sig tgt) s tgt)) ∧
    (s.Issues [linkOpd] → tgt.getLsbD 0 = false → goes (.call sig tgt) (linked s) tgt) ∧
    (s.readW a = (x, t) → x.toNat < 2 ^ 22 → x.toNat % 2 = 0 →
      (s.Issues [.src a, linkOpd] → goes (.callr sig a) (linked t) (.ofNat 22 x.toNat)) ∧
      (s.Issues [.src a] → goes (.ret sig a) t (.ofNat 22 x.toNat))))) ∧
  (∀ (s r u : State) (sig sigb : Byte) (len : BitVec 5) (inc : BitVec 22) (body : List LineHead) (steps : List (BitVec 16)),
    inc.toNat % 64 = 0 →
    r.bodyHeads s.issue.slot (len.toNat + 1) s.issue.npc = .ok (body, u) →
    let mayLive : Prop := bodyIllegal body steps = false ∧ s.me.loops.length < 4 ∧
      (inc = 0 ∧ steps = List.replicate 32 0 ∨
        inc ≠ 0 ∧ s.payloadHeld inc.toNat 64 = false ∧ ∃ off, s.checkLocal (inc.setWidth 64) 64 64 = .here off ∧
          s.poisoned (s.key off) 64 = false ∧ steps = lineAt s.rdMem (s.key off))
    let loops (i : Instr) (n : Nat) : Prop :=
      (n = 0 → exec i s = .next (u.modMe fun x => { x with pc := (body.getLast?.map (·.next)).getD x.pc })) ∧
      (n ≠ 0 → mayLive → exec i s = .next ((if inc = 0 then u else u.countReads 1).modMe fun x =>
        { x with loops := x.loops ++ [⟨body, n, 0, steps, sigb⟩] }))
    (∀ cnt : BitVec 16, s.Issues [] → r = s → loops (.loopi sig sigb len inc cnt) cnt.toNat) ∧
    (∀ (a : Reg) (x : Word), s.Issues [.src a] → s.readW a = (x, r) → x.toNat < 2 ^ 32 → loops (.loop sig sigb a len inc) x.toNat))


/-- 02 R50, R51, R57; 04 R95, R113, R114. A scalar floating head of FP32, FP16 or BF16 that issues, none of whose operands is a
subnormal that traps, completes: its value is formed exactly, rounded once to the format and written with zeros above it, and its
flags are ORed into `sw`. `FMIN`, `FMAX`, `FABS` and `FNEG` choose a value exactly. `FCLASS` names the class of a and raises no flag. -/
def Obligations.ScalarFloatResults : Prop :=
  ∀ (s t : State) (fmt : BitVec 3) (d a b : Reg) (x y : Word) (u v : Val) (fu fv : FFlags), fmt.toNat ≤ 2 →
    let c := 8 + fmt.toNat
    let m := swRM s.rdSw
    let sub := swSUB s.rdSw
    let rounded (t : State) (r : Val × FFlags) (f : FFlags) : Result :=
      let (w, g) := roundF c (s.rnd 0) r.1
      .next ((t.writeW d (w64 w)).orSw (swFlags (f ||| r.2 ||| g)))
    let chosen (t : State) (r : Val) (f : FFlags) : Result := .next ((t.writeW d (w64 (exactly c r))).orSw (swFlags f))
    operandF c sub x.toNat = some (u, fu) →
    (operandF c sub y.toNat = some (v, fv) → s.read2 a b = (x, y, t) →
      (s.Issues ([.dst d, .src a, .src b] ++ drawOpd s.rdSw) →
        exec (.fadd fmt d a b) s = rounded t (Val.add m u v) (fu ||| fv) ∧
        exec (.fsub fmt d a b) s = rounded t (Val.add m u v.neg) (fu ||| fv) ∧
        exec (.fmul fmt d a b) s = rounded t (Val.mul u v) (fu ||| fv)) ∧
      (s.Issues [.dst d, .src a, .src b] →
        exec (.fmin fmt d a b) s = rounded t (Val.pickMin false u v, 0) (fu ||| fv) ∧
        exec (.fmax fmt d a b) s = rounded t (Val.pickMin true u v, 0) (fu ||| fv)) ∧
      (s.Issues ([.acc d, .src a, .src b] ++ drawOpd s.rdSw) → ∀ (z : Val) (fz : FFlags), operandF c sub (s.regW d.toNat).toNat = some (z, fz) →
        exec (.ffma fmt d a b) s = rounded t (Val.fma m u v z) (fu ||| fv ||| fz))) ∧
    (s.readW a = (x, t) → s.Issues [.dst d, .src a] →
      exec (.fabs fmt d a) s = chosen t u.abs fu ∧
      exec (.fneg fmt d a) s = chosen t u.neg fu ∧
      exec (.fclass fmt d a) s = .next (t.writeW d (w64 (2 ^ classBit c x.toNat))))

/-- 04 R97, R103, R114. A floating compare of FP32, FP16 or BF16 that issues, none of whose operands is a subnormal that traps,
completes: N, Z, C and V become those of the relation (less: N; equal: Z and C; greater: C; unordered: none), the skip count is
set to k when the condition holds on them and k is not zero, and the flags of flushed operands are ORed in.
02 R57; 04 R113, R116. A scalar floating head that issues with SUB = 0 and a subnormal operand completes with none of its
effect: it raises SUBNORMAL_OPERAND. -/
def Obligations.FloatCompareAndSubnormalTraps : Prop :=
  (∀ (s t : State) (k : BitVec 2) (cc : BitVec 3) (fmt : BitVec 2) (a b : Reg) (x y : Word) (u v : Val) (fu fv : FFlags),
    fmt.toNat ≤ 2 → cc.toNat < 6 → s.Issues [.src a, .src b] → s.read2 a b = (x, y, t) →
    operandF (8 + fmt.toNat) (swSUB s.rdSw) x.toNat = some (u, fu) →
    operandF (8 + fmt.toNat) (swSUB s.rdSw) y.toNat = some (v, fv) →
    let after (f : NZCV) : Result :=
      .next (((t.setNZCV f.n f.z f.c f.v).skipIf (f.holds cc) k).orSw (swFlags (fu ||| fv)))
    (Val.cmp u v = some .lt → exec (.fcmp k cc fmt a b) s = after ⟨true, false, false, false⟩) ∧
    (Val.cmp u v = some .eq → exec (.fcmp k cc fmt a b) s = after ⟨false, true, true, false⟩) ∧
    (Val.cmp u v = some .gt → exec (.fcmp k cc fmt a b) s = after ⟨false, false, true, false⟩) ∧
    (Val.cmp u v = none → exec (.fcmp k cc fmt a b) s = after ⟨false, false, false, false⟩)) ∧
  (∀ (s t : State) (fmt : BitVec 3) (d a b : Reg) (la : BitVec 4) (x y : Word), fmt.toNat ≤ 2 → swSUB s.rdSw = false →
    s.read2 a b = (x, y, t) → isSubnormal (8 + fmt.toNat) x.toNat = true ∨ isSubnormal (8 + fmt.toNat) y.toNat = true →
    (s.Issues ([.dst d, .src a, .src b] ++ drawOpd s.rdSw) →
      exec (.fadd fmt d a b) s = s.raise cSUBNORMAL ∧ exec (.fsub fmt d a b) s = s.raise cSUBNORMAL ∧
      exec (.fmul fmt d a b) s = s.raise cSUBNORMAL ∧ exec (.fdiv fmt d a b la) s = s.raise cSUBNORMAL) ∧
    (s.Issues [.dst d, .src a, .src b] →
      exec (.fmin fmt d a b) s = s.raise cSUBNORMAL ∧ exec (.fmax fmt d a b) s = s.raise cSUBNORMAL))

/-- 04 R115, R123. `FCVT` between any two codes 0x00 to 0x0F whose conversion does not trap completes with the converted
value, a signed integer extended by its sign, and its flags; `RNDK` completes with the key-hash of the stand's seed and a + b.
04 R116; 01 R20. A floating division or square root that issues with fewer than four open windows and no subnormal operand
that traps completes: it opens a window whose end writes the rounded value and ORs in its flags. -/
def Obligations.ConversionHashAndLongFloatResults : Prop :=
  (∀ (s t : State) (d a b : Reg) (x y : Word),
    (∀ (src dst : BitVec 5) (r : Nat) (f : FFlags), src.toNat < 16 → dst.toNat < 16 →
      s.Issues ([.dst d, .src a] ++ drawOpd s.rdSw) →
      s.readW a = (x, t) →
      convert src.toNat dst.toNat (swSUB s.rdSw) (s.rnd 0) (x.toNat % 2 ^ fmtWidth src.toNat) = some (r, f) →
      exec (.fcvt src dst d a) s = .next ((t.writeW d (if dst.toNat < 4 then .ofInt 64 (signed (fmtWidth dst.toNat) r)
        else w64 r)).orSw (swFlags f))) ∧
    (s.Issues [.dst d, .src a, .src b] → s.read2 a b = (x, y, t) →
      exec (.rndk d a b) s = .next (t.writeW d (keyHash s.seed (x + y))))) ∧
  (∀ (s t : State) (fmt : BitVec 3) (d a b : Reg) (la : BitVec 4) (x y : Word) (u v : Val) (fu fv : FFlags), fmt.toNat ≤ 2 →
    s.me.windows.length < 4 →
    let c := 8 + fmt.toNat
    let long (n : Nat) (r : Val × FFlags) (f : FFlags) : Result :=
      let (w, g) := roundF c (s.rnd 0) r.1
      .next (t.longResult la n [.reg d (w64 w), .swOr (swFlags (f ||| r.2 ||| g))])
    operandF c (swSUB s.rdSw) x.toNat = some (u, fu) →
    (operandF c (swSUB s.rdSw) y.toNat = some (v, fv) → s.read2 a b = (x, y, t) →
      s.Issues ([.dst d, .src a, .src b] ++ drawOpd s.rdSw) →
      exec (.fdiv fmt d a b la) s = long (if fmt = 0 then 24 else 16) (Val.div u v) (fu ||| fv)) ∧
    (s.readW a = (x, t) → s.Issues ([.dst d, .src a] ++ drawOpd s.rdSw) →
      exec (.fsqrt fmt d a la) s = long (if fmt = 0 then 26 else 18) (Val.sqrt u) fu))


/-- 04 R117 to R120, R122; 19 R449. A query that issues completes: `TOPO` with the position value, `CAPR` with the capability
word, `PERFR` with the counter, `SRD` with the register's value; a register that an agent outside the tile sets is logged as it is
read.
00 R7, R8; 01 R26; 04 R120; 07 R176; 16 R374; 17 R410; 18 R425; 21 R492, R498. `SWR` of a register without a row of its own,
by a strand that may write it, completes: writable fields take the operand's bits, reserved and read-only fields keep theirs, RMAX of
`sys.droop` is not written 0, `sys.wdl` takes 16 to 30 only. A register that is read only stays as it is.
01 R34, R35; 02 R54; 04 R121; 17 R410; 19 R432. The system register writes that have rows of their own complete, for a
strand that may make them: `sw` is written whole but for its reserved bits, a seed half takes the operand, each bank takes the state
that its field names, `sys.niv` takes 16 to 26 only, and `sys.ptroot` takes the operand and the stand's leaves are dropped, for which
the strand waits. -/
def Obligations.QueryAndSystemWriteResults : Prop :=
  (∀ (s : State) (d : Reg), s.Issues [.dst d] →
    let r := s.standRect
    let topo (n : BitVec 22) (v : Nat) : Prop := exec (.topo d n) s = .next (s.writeW d (w64 v))
    let capr (n : BitVec 22) (v : Nat) : Prop := exec (.capr d n) s = .next (s.writeW d (w64 v))
    topo 0 s.core.ltn ∧ topo 1 (s.core.ltn / 30) ∧ topo 2 (s.core.ltn % 30) ∧ topo 3 s.core.num ∧ topo 4 s.issue.slot.val ∧
    topo 5 (r.colLo + r.rowLo * 2 ^ 8 + r.colHi * 2 ^ 16 + r.rowHi * 2 ^ 24) ∧
    topo 6 ((s.core.ltn / 30 - r.rowLo) * (r.colHi - r.colLo + 1) + (s.core.ltn % 30 - r.colLo)) ∧
    topo 7 ((List.range s.rim.held).countP fun t => inRect r t) ∧
    capr 0 64 ∧ capr 1 (if s.rim.gradeB then 1 else 0) ∧ capr 2 30 ∧ capr 3 s.rim.held ∧
    capr 4 (s.rim.held - 30 * ((s.rim.held - 1) / 30)) ∧ capr 5 0x1010 ∧ capr 6 s.rim.visibleTop ∧ capr 7 0x4030 ∧ capr 8 1 ∧
    (∀ n : BitVec 22, 9 ≤ n.toNat → n.toNat < 64 → capr n 0) ∧
    (∀ n : BitVec 22, (h : n.toNat < 64) → exec (.perfr d n) s = .next (s.writeW d s.core.perf[n.toNat])) ∧
    (∀ (n : BitVec 12) (v : Word), s.sysValue n.toNat = some (v, false) → exec (.srd d n) s = .next (s.writeW d v)) ∧
    (∀ (n : BitVec 12) (v : Word), s.sysValue n.toNat = some (v, true) → s.tile.replay = [] →
      exec (.srd d n) s = .next ((s.record 8 s.core.num s.issue.slot.val [v] none).writeW d v))) ∧
  (∀ (s t : State) (a : Reg) (v : Word), s.Issues [.src a] → s.readW a = (v, t) → s.isSpeculative = false →
    let swr (n : BitVec 12) (u : State) : Prop := exec (.swr a n) s = .next u
    (s.me.priv = true →
      swr 0x010 { t with core := { t.core with droop := (if v.toNat % 4 = 0 then bitsOf 0xFF00 v t.core.droop
        else bitsOf 0xFF03 v t.core.droop) } } ∧
      swr 0x041 (if 16 ≤ v.toNat % 32 ∧ v.toNat % 32 ≤ 30 then { t with tile := { t.tile with wdl := .ofNat 5 (v.toNat % 32) } }
        else t) ∧
      swr 0x060 (t.modStand fun x => { x with cretry := v.setWidth 8 }) ∧
      swr 0x063 (t.modStand fun x => { x with ctmo := v.setWidth 16 }) ∧
      (v.getLsbD 63 = false → swr 0x141 (t.modStand fun x => { x with tierctl := v &&& 0x8000FFFF000FFFFF })) ∧
      swr 0x210 (t.modStand fun x => { x with jshard := v &&& 0xFFFFF1FFFFFFFFFF }) ∧
      swr 0x220 (t.modStand fun x => { x with boostok := v.getLsbD 0 }) ∧
      (∀ g : BitVec 4, swr (0x080 + g.setWidth 12)
        { t with core := { t.core with thv := t.core.thv.set g.toFin (v &&& 0xC03FFFFF003FFFFF) } })) ∧
    (∀ n : BitVec 12, n ∈ [0x061, 0x062, 0x065, 0x100, 0x101, 0x102, 0x103, 0x142, 0x143, 0x144, 0x200, 0x201, 0x202, 0x212,
      0x221, 0x222, 0x230] → swr n t)) ∧
  (∀ (s t : State) (a : Reg) (v : Word), s.Issues [.src a] → s.readW a = (v, t) → s.isSpeculative = false →
    (v.toNat / 2 ^ 21 % 8 ≤ 4 →
      exec (.sysSwWrite a) s = .next (t.setSw (BitVec.allOnes 64) (v &&& 0x000003FFBFFFFF0F))) ∧
    exec (.sseedWrite false a) s = .next { t with core := { t.core with sseed0 := v } } ∧
    exec (.sseedWrite true a) s = .next { t with core := { t.core with sseed1 := v } } ∧
    (s.me.priv = true →
      exec (.bankpmWrite a) s = .next (((t.setBank 0 (v.toNat % 4)).setBank 1 (v.toNat / 4 % 4)).setBank 2 (v.toNat / 16 % 4)) ∧
      exec (.nivWrite a) s = .next (if 16 ≤ v.toNat % 32 ∧ v.toNat % 32 ≤ 26 then
        { t with tile := { t.tile with niv := .ofNat 5 (v.toNat % 32) } } else t) ∧
      exec (.ptrootWrite a) s = .next ((t.modStand fun x => { x with ptroot := v &&& 0x800FFFFFFFFFF000 }).viaClass0
        (.tlbinvApply true 0))))

/-- 01 R9; 03 R77; 04 R120; 07 R182. A write of a privileged system register in an unprivileged strand has none of its effect: it
fails the decode check of the mode and raises the privilege trap. `RETT` raises NOT_HANDLER on a strand that is no handler. -/
def Obligations.PrivilegeAndHandlerTraps : Prop :=
  (∀ (s : State) (a : Reg), s.me.priv = false → LegalOperands [.src a] →
    (∀ n : BitVec 12, n ∈ [0x010, 0x011, 0x040, 0x041, 0x060, 0x063, 0x140, 0x141, 0x210, 0x220] ∨ (0x080 ≤ n.toNat ∧ n.toNat < 0x090) →
      exec (.swr a n) s = s.raiseDecode cPRIVILEGE) ∧
    exec (.bankpmWrite a) s = s.raiseDecode cPRIVILEGE ∧ exec (.nivWrite a) s = s.raiseDecode cPRIVILEGE ∧
    exec (.ptrootWrite a) s = s.raiseDecode cPRIVILEGE) ∧
  (∀ (s : State) (a : Reg) (sig : Byte), s.me.handler = none → s.Issues [.src a] → exec (.rett sig a) s = s.raise cNOTHANDLER)

/-- 07 R179 to R183. The trap instructions: `TRAP` raises its code with the frame's RPC at NPC, and one outside 0x1C0 to 0x1DF is
illegal; `SETH` writes a vector but for its reserved bits, or makes the trap of its table; `CAUSE` delivers the frame word that the wafer
captured; `SMODE` sets the mode of the strand, or that in which the served strand resumes, or traps; `RETT` 0 resumes the served strand
and `RETT` 1 ends it, and both end the handler. -/
def Obligations.TrapInstructionResults : Prop :=
  ∀ (s t : State) (d a : Reg) (sig : Byte) (m : Bool) (x : Word),
    (∀ code : BitVec 9,
      (s.Issues [] → s.isSpeculative = false → 0x1C0 ≤ code.toNat → code.toNat ≤ 0x1DF →
        exec (.trap code) s = .next (((s.unissued (.trapped ⟨code, 0, 0⟩ true false)).modMe fun y => { y with ends := false }).takeTrap
          s.issue.slot ⟨code, 0, 0⟩ s.issue.info s.issue.npc s.issue.npc s.issue.foldAfter)) ∧
      (code.toNat < 0x1C0 ∨ 0x1DF < code.toNat → exec (.trap code) s = s.raiseDecode cILLEGAL)) ∧
    (∀ g : BitVec 4,
      let none_ := g ∈ [11, 12, 13, 15]
      let guarded := g ∈ [0, 1, 8, 10]
      let region := bits x.toNat 53 32 + 16384 ≤ s.rim.visibleTop ∧ bits x.toNat 53 32 / 2 ^ 20 = (bits x.toNat 53 32 + 16383) / 2 ^ 20
      (none_ → exec (.seth a g) s = s.raiseDecode cILLEGAL) ∧
      (guarded → LegalOperands [.src a] → s.me.priv = false → exec (.seth a g) s = s.raiseDecode cPRIVILEGE) ∧
      (¬ none_ → ¬ guarded → s.Issues [.src a] → s.readW a = (x, t) → x.getLsbD 62 = true → s.me.priv = false →
        exec (.seth a g) s = s.raise cPRIVILEGE) ∧
      (¬ none_ → s.Issues [.src a] → s.readW a = (x, t) → (guarded ∨ x.getLsbD 62 = true → s.me.priv = true) →
        (x.getLsbD 63 = true → ¬ region → exec (.seth a g) s = s.raise cRANGE) ∧
        ((x.getLsbD 63 = true → region) →
          exec (.seth a g) s = .next { t with core := { t.core with thv := t.core.thv.set g.toFin (x &&& 0xC03FFFFF003FFFFF) } }))) ∧
    (s.me.handler = none →
      (s.Issues [.dst d, .src a] → exec (.cause d a) s = s.raise cNOTHANDLER) ∧
      (s.Issues [] → m = false ∨ s.me.priv = true → exec (.smodeServed m) s = s.raise cNOTHANDLER)) ∧
    (∀ h : Handler, s.me.handler = some h →
      (s.Issues [.dst d, .src a] → s.readW a = (x, t) →
        exec (.cause d a) s = .next (t.writeW d (h.frame.getD (x.toNat % 8) 0))) ∧
      (s.Issues [] → m = false ∨ s.me.priv = true →
        exec (.smodeServed m) s = .next (s.modMe fun y => { y with handler := some { h with resumePriv := m } })) ∧
      (s.Issues [.src a] → s.readW a = (x, t) → s.rectClear s.me.strand s.standRect = true →
        (x = 0 → bits (natAt s.rdMem (s.key (s.me.wp.toNat + 800)) 8) 23 21 ≤ 4 → s.flushWaits s.issue.slot = false →
          exec (.rett sig a) s = .next ((t.resume h).endStrand s.issue.slot)) ∧
        (x = 1 → (s.slot h.served).task = none → s.flushNeed s.issue.slot + s.flushNeed h.served ≤ s.holdFree →
          exec (.rett sig a) s = .next ((t.endStrand h.served).endStrand s.issue.slot)))) ∧
    (s.Issues [] → m = false ∨ s.me.priv = true → exec (.smode m) s = .next (s.modMe fun y => { y with priv := m })) ∧
    (s.me.priv = false → exec (.smode true) s = s.raiseDecode cPRIVILEGE ∧ exec (.smodeServed true) s = s.raiseDecode cPRIVILEGE)

/-- 07 R173, R174, R175, R177. A trap of a strand that is no handler, with its group's vector on: its slot is TRAPPED at the
resume address with the fold given and everything else of it kept; the eight words of the frame stand at HWP + 1,024 × slot + 768
and no other byte of memory has changed; the lowest fillable slot begins the handler at ENTRY in the vector's mode, with `sw` as after
reset and fold 0x5A, READY in the next cycle, or, when there is none, the request joins the handler queue. No speculative task is outstanding. -/
def Obligations.TrapEntry : Prop :=
  ∀ (s : State) (i : Fin 16) (c : Cause) (h : HeadInfo) (rpc npc : BitVec 22) (fold : Byte),
    s.Settled → s.MemoryCanonical → (s.slot i).emulate = none → (s.slot i).handler = none → (s.slot i).st ≠ .empty →
    let v := s.core.thv[c.code.toNat / 32 % 16]
    v.getLsbD 63 = true →
    let t := s.takeTrap i c h rpc npc fold
    let x := s.slot i
    let base := bits v.toNat 53 32 + 1024 * i.val + 768
    let word (n : Nat) : Nat := natAt t.mem (s.key (base + 8 * n)) 8
    (t.slot i).st = .trapped ∧ (t.slot i).pc = rpc ∧ (t.slot i).fold = fold ∧ (t.slot i).sw = x.sw ∧ (t.slot i).wp = x.wp ∧
      (t.slot i).windows = x.windows ∧ (t.slot i).loops = x.loops ∧
    word 0 = c.detail.toNat * 2 ^ 32 + x.priv.toNat * 2 ^ 18 + h.second.toNat * 2 ^ 17 + h.pair.toNat * 2 ^ 16 + c.code.toNat ∧
    word 1 = h.fpc.toNat ∧ word 2 = rpc.toNat ∧ word 3 = npc.toNat ∧ word 4 = x.sw.toNat ∧ word 5 = c.addr.toNat ∧
    (x.windows.length < 8 → x.loops.length < 8 →
      word 6 = h.head.toNat * 2 ^ 48 + fold.toNat * 2 ^ 40 + x.windows.length * 2 ^ 37 + x.loops.length * 2 ^ 34
        + i.val * 2 ^ 22 + x.wp.toNat) ∧
    word 7 = h.tail.toNat ∧
    (∀ k, k < s.key base ∨ s.key base + 64 ≤ k → SMap.getD t.mem k 0 = SMap.getD s.mem k 0) ∧
    (∀ e, s.emptySlot = some e → s.core.handlerQ = [] → s.core.filledAt ≠ some s.tile.cycle →
      (t.slot e).st = .sleep ∧ (t.slot e).wait = some (.cycle (s.tile.cycle + 1)) ∧
      (t.slot e).pc = .ofNat 22 (bits v.toNat 21 0) ∧ (t.slot e).priv = v.getLsbD 62 ∧
      (t.slot e).sw = 0xFF00 ∧ (t.slot e).fold = 0x5A ∧ (t.slot e).wp = .ofNat 22 (bits v.toNat 53 32 + 1024 * i.val) ∧
      t.core.handlerQ = []) ∧
    (s.emptySlot = none → t.core.handlerQ.map (·.slot) = s.core.handlerQ.map (·.slot) ++ [i])

/-- 07 R175, R184. A trap takes the supervisor route when its group's vector is off, and when it is raised by a handler, with the
code DOUBLE_TRAP: the rim controller is given the frame, and no byte of memory changes. So does a request that has waited 65,536
cycles for a slot, with the code HANDLER_STARVED. The rim controller performs a head whose format is absent, from the sources that the
request holds, ends the strands of a handler that trapped, once the hold buffer takes what they send, and otherwise ends the launch. -/
def Obligations.SupervisorRoute : Prop :=
  (∀ (s : State) (i : Fin 16) (c : Cause) (h : HeadInfo) (rpc npc : BitVec 22) (fold : Byte), (s.slot i).emulate = none →
    let v := s.core.thv[c.code.toNat / 32 % 16]
    let t := s.takeTrap i c h rpc npc fold
    ((s.slot i).handler.isSome = true ∨ v.getLsbD 63 = false) →
    t.mem = s.mem ∧ (t.slot i).st = .trapped ∧ t.core.handlerQ = s.core.handlerQ ∧
    ∃ q, t.core.superQ = s.core.superQ ++ [q] ∧ q.slot = i ∧
      (q.frame.getD 0 0).toNat % 512 = if (s.slot i).handler.isSome then 0x1E0 else c.code.toNat) ∧
  (∀ (s : State) (q : TrapReq), q.frame.length = 8 →
    (s.core.handlerQ = [q] → q.since + 65536 ≤ s.tile.cycle → ∃ t r, exec (.handlerStarved q.slot) s = .next t ∧
      t.core.handlerQ = [] ∧ t.core.superQ = s.core.superQ ++ [r] ∧ r.slot = q.slot ∧ (r.frame.getD 0 0).toNat % 512 = 0x1E1) ∧
    (s.core.superQ = [q] → s.ckp = 2 →
      let word := (q.frame.getD 0 0).toNat
      let given : State := { s with core := { s.core with superQ := [] } }
      (word % 512 = 2 → word / 2 ^ 32 < 16 → (s.slot q.slot).emulate = none → ∃ t, exec (.supervisorRoute q.slot) s = .next t ∧
        (t.slot q.slot).st = .ready ∧ (t.slot q.slot).emulate = q.sources ∧ t.mem = s.mem) ∧
      (word % 512 = 0x1E0 → ∀ h, (s.slot q.slot).handler = some h →
        (s.flushNeed q.slot + s.flushNeed h.served ≤ s.holdFree →
          exec (.supervisorRoute q.slot) s = .next ((given.endStrand h.served).endStrand q.slot)) ∧
        (s.holdFree < s.flushNeed q.slot + s.flushNeed h.served →
          exec (.supervisorRoute q.slot) s = .next (s.after 8 (.supervisorRoute q.slot)))) ∧
      (word % 512 ≠ 2 → word % 512 ≠ 0x1E0 → exec (.supervisorRoute q.slot) s = .next (given.endLaunch q))))

/-- 08 R188, R189, R195, R196. A load that issues completes. From the strand's own slice, where the line is not poisoned, the
register receives the bytes at the operand's address, extended by their sign or by zeros (a vector: the lanes that VM enables), which
for a strand that does not speculate are the bytes of memory as the head reads it; a post-incremented address register is then increased by the access size.
From another slice a window is opened, with fewer than four open, and the request sent. The address is a plus the signed offset, or
a plus b shifted by the scale. -/
def Obligations.LoadResults : Prop :=
  ∀ (s : State) (size : BitVec 2) (n pi : Bool) (d a b : Reg) (la : BitVec 4) (off : BitVec 18) (z : BitVec 2) (o : Nat),
    let bytes := 2 ^ size.toNat
    let eaM : Word := s.regW a.toNat + off.signExtend 64 + .ofInt 64 s.issue.step
    let bump (k : Nat) (t : State) : State :=
      if pi then t.setW t.issue.slot a.toNat (s.regW a.toNat + w64 k) else t
    let got (k : Nat) : List Byte × State := (s.served o true).loadBytes (s.key o) k
    let mask := laneMask (swVM s.rdSw)
    (s.isSpeculative = false → ∀ k, (got k).1 = bytesAt s.rdMem (s.key o) k) ∧
    (s.Issues [(Opd.dst d).noPort, (Opd.src a).noPort] → (pi = true → off = 0 ∧ d ≠ a) →
      (s.OwnAccess eaM bytes bytes o true → s.poisoned (s.key o) bytes = false →
        exec (.ld size n pi d a la off) s = .next (bump bytes ((got bytes).2.writeW d (extend bytes n (leNat (got bytes).1))))) ∧
      (∀ l c, s.FarAccess eaM bytes bytes l c o → s.me.windows.length < 4 →
        exec (.ld size n pi d a la off) s
          = .next ((bump bytes s).asked la (s.request l c o (.load bytes) []) (.word d bytes n) none))) ∧
    (s.Issues [(Opd.vdst d).noPort, (Opd.src a).noPort] → (pi = true → off = 0) →
      (s.OwnAccess eaM 32 32 o true → s.poisoned (s.key o) 32 = false →
        exec (.ldv pi d a la off) s = .next (bump 32 ((got 32).2.writeV d (.ofNat 256 (leNat (got 32).1)) mask))) ∧
      (∀ l c, s.FarAccess eaM 32 32 l c o → s.me.windows.length < 4 →
        exec (.ldv pi d a la off) s = .next ((bump 32 s).asked la (s.request l c o (.load 32) []) (.lanes d mask) none))) ∧
    (s.Issues [(Opd.dst d).noPort, (Opd.src a).noPort, Opd.src b] → (pi = true → d ≠ a) →
      ∀ (y : Word) (r : State), s.readW b = (y, r) →
      let eaG := s.regW a.toNat + y <<< z.toNat
      let popped (t : State) : State := { t with core := { t.core with mq := r.core.mq } }
      (s.OwnAccess eaG bytes bytes o true → s.poisoned (s.key o) bytes = false →
        exec (.ldg size n pi d a b la z) s
          = .next (bump bytes (popped ((got bytes).2.writeW d (extend bytes n (leNat (got bytes).1)))))) ∧
      (∀ l c, s.FarAccess eaG bytes bytes l c o → s.me.windows.length < 4 →
        exec (.ldg size n pi d a b la z) s
          = .next ((bump bytes (popped s)).asked la (s.request l c o (.load bytes) []) (.word d bytes n) none)))

/-- 08 R195, R196. A store that issues completes. To the strand's own slice its bytes, little-endian, and of a vector those of the
lanes that VM enables, are stored at the operand's address, in memory or, for a speculative task, in its buffer; to another slice a
request is sent. A post-incremented address register is increased by the access size, in the own slice before the store, which wins
over it on bytes that both write (01 R30). -/
def Obligations.StoreResults : Prop :=
  ∀ (s : State) (size : BitVec 2) (pi : Bool) (d a b : Reg) (off : BitVec 18) (z : BitVec 2) (o : Nat),
    let bytes := 2 ^ size.toNat
    let eaM : Word := s.regW a.toNat + off.signExtend 64 + .ofInt 64 s.issue.step
    let bump (k : Nat) (t : State) : State :=
      if pi then t.setW t.issue.slot a.toNat (s.regW a.toNat + w64 k) else t
    let all (x : Word) : List (Bool × Byte) := allOn (leBytes bytes x.toNat)
    let room : Prop := s.bufferFull (s.key o / 64) = false
    let sent (t : State) (q : Req) : State := t.sendReq q s.me.strand s.issue.info
    (∀ (x : Word) (r : State), s.readW d = (x, r) → s.Issues [Opd.third d, (Opd.src a).noPort] →
      (pi = true → off = 0) →
      (s.OwnAccess eaM bytes bytes o false → room →
        exec (.st size pi d a off) s = .next ((bump bytes (r.serve o)).storeBytes (s.key o) (all x))) ∧
      (∀ l c, s.FarAccess eaM bytes bytes l c o →
        exec (.st size pi d a off) s = .next (bump bytes (sent r (s.request l c o (.store bytes) [x]))))) ∧
    (∀ (v : Vec) (r : State), s.readV d = (v, r) → s.Issues [Opd.vthird d, (Opd.src a).noPort] →
      (pi = true → off = 0) →
      (s.OwnAccess eaM 32 32 o false → room →
        exec (.stv pi d a off) s = .next ((bump 32 (r.serve o)).storeBytes (s.key o) (laneBytes v (swVM s.rdSw)))) ∧
      (∀ l c, s.FarAccess eaM 32 32 l c o →
        exec (.stv pi d a off) s
          = .next (bump 32 (sent r (s.request l c o (.storeVec (swVM s.rdSw)) (wordsOf v)))))) ∧
    (∀ (x y : Word) (r : State), s.read2 d b = (x, y, r) → s.Issues [Opd.third d, (Opd.src a).noPort, Opd.src b] →
      let eaG := s.regW a.toNat + y <<< z.toNat
      (s.OwnAccess eaG bytes bytes o false → room →
        exec (.stg size pi d a b z) s = .next ((bump bytes (r.serve o)).storeBytes (s.key o) (all x))) ∧
      (∀ l c, s.FarAccess eaG bytes bytes l c o →
        exec (.stg size pi d a b z) s = .next (bump bytes (sent r (s.request l c o (.store bytes) [x])))))

/-- 08 R198, R199, R203. An acquiring load completes as a load does, and its window, if its value comes from another slice, keeps
the rectangle; a releasing store completes as a store does once the strand's accesses to the rectangle have performed. `LDMETA` and
`STMETA` complete on a line of the strand's own slice: the register receives the line's metadata, or the metadata its low 16 bits. -/
def Obligations.OrderedAndMetadataResults : Prop :=
  ∀ (s : State) (size : BitVec 2) (n pi : Bool) (d a b : Reg) (la : BitVec 4) (off : BitVec 18) (o : Nat),
    let bytes := 2 ^ size.toNat
    let ea := s.regW a.toNat
    let eaM : Word := ea + off.signExtend 64 + .ofInt 64 s.issue.step
    let bump (t : State) : State := if pi then t.setW t.issue.slot a.toNat (ea + w64 64) else t
    (∀ (y : Word) (r : State) (q : Rect), s.readW b = (y, r) → s.rectOperand y = some q →
      s.Issues [(Opd.dst d).noPort, (Opd.src a).noPort, Opd.src b] →
      let got : List Byte × State := (s.served o true).loadBytes (s.key o) bytes
      let popped (t : State) : State := { t with core := { t.core with mq := r.core.mq } }
      (s.OwnAccess ea bytes bytes o true → s.poisoned (s.key o) bytes = false →
        exec (.lda size n d a b la) s = .next (popped (got.2.writeW d (extend bytes n (leNat got.1))))) ∧
      (∀ l c, s.FarAccess ea bytes bytes l c o → s.me.windows.length < 4 →
        exec (.lda size n d a b la) s
          = .next ((popped s).asked la (s.request l c o (.load bytes) []) (.word d bytes n) (some q)))) ∧
    (∀ (x y : Word) (r : State) (q : Rect), s.read2 d b = (x, y, r) → s.rectOperand y = some q →
      s.Issues [Opd.third d, (Opd.src a).noPort, Opd.src b] → s.rectClear s.me.strand q = true →
      (s.OwnAccess ea bytes bytes o false → s.bufferFull (s.key o / 64) = false →
        exec (.stl size d a b) s = .next ((r.serve o).storeBytes (s.key o) (allOn (leBytes bytes x.toNat)))) ∧
      (∀ l c, s.FarAccess ea bytes bytes l c o →
        exec (.stl size d a b) s = .next (r.sendReq (s.request l c o (.store bytes) [x]) s.me.strand s.issue.info))) ∧
    ((pi = true → off = 0) → s.addrForm eaM = some (s.core.ltn, s.core.num, o) →
      ((pi = true → d ≠ a) → s.Issues [(Opd.dst d).noPort, (Opd.src a).noPort] → s.OwnAccess eaM 64 64 o true →
        exec (.ldmeta pi d a off) s = .next (bump ((s.served o true).setW s.issue.slot d.toNat
          ((SMap.getD s.metas (s.key o / 64) 0).setWidth 64)))) ∧
      (∀ (x : Word) (r : State), s.readW d = (x, r) → s.Issues [Opd.third d, (Opd.src a).noPort] →
        s.OwnAccess eaM 64 64 o false → s.isSpeculative = false →
        exec (.stmeta pi d a off) s = .next (bump ((r.serve o).writeMeta (s.key o / 64) (x.setWidth 16)))))

/-- 08 R200, R201. An atomic that issues with fewer than four open windows completes. On the strand's own core its window is
opened and the core's unit is given the operation; on another core the request is sent; a speculative task works on its own view of
the line at once, where the line is not poisoned.
08 R200, R201. The value that an atomic leaves: for k bytes of memory that hold `old`, the atomic unit of the line's home
core, when its turn in the channel has come, its bank is open and not taken in this cycle and the line is not poisoned, stores the sum,
the bitwise function, the lesser or greater value (signed or natural), the operand, or, when the word equals the comparand, the operand
of a compare-and-swap, and every byte outside those k is as before; the strands of the core see it from the next cycle on (09 R222).
No speculative task is outstanding.
The cycle in which an event falls due is the model's choice (log entry 7). -/
def Obligations.AtomicHeadsAndUnit : Prop :=
  (∀ (s : State) (wide n : Bool) (d a b : Reg) (la : BitVec 4) (o : Nat), s.me.windows.length < 4 →
    let k := if wide then 8 else 4
    let ea := s.regW a.toNat
    let own (op : AtomOp) (r : State) (y z : Word) (i : Instr) : Prop :=
      s.OwnPlace ea k k o true → s.isSpeculative = false →
      ∃ q t, q = s.request s.core.ltn s.core.num o (.atom op wide n) [y] z ∧
        t = r.openWindow la ⟨0, 0, false, [], .word d k n, none, s.issue.info, none, false, none, none⟩ ∧
        exec i s = .next (({ t with tile := { t.tile with
          sent := t.tile.sent ++ [⟨q, t.tile.cycle, false, s.me.strand, s.issue.info⟩] } } : State).after 1 (.atomicExecute q))
    let far (op : AtomOp) (r : State) (y z : Word) (i : Instr) : Prop :=
      ∀ l c, s.FarAccess ea k k l c o →
        exec i s = .next (r.asked la (s.request l c o (.atom op wide n) [y] z) (.word d k n) none)
    let task (op : AtomOp) (r : State) (y z : Word) (i : Instr) : Prop :=
      s.OwnPlace ea k k o true → s.isSpeculative = true → s.bufferFull (s.key o / 64) = false →
      s.poisoned (s.key o) k = false →
      let got := r.loadBytes (s.key o) k
      let old := leNat got.1
      let t := if atomWrites op (8 * k) old z.toNat then
        got.2.storeBytes (s.key o) (allOn (leBytes k (atomNew op (8 * k) n old y.toNat z.toNat))) else got.2
      exec i s = .next (t.longResult la 10 [.reg d (extend k n old)])
    (s.Issues [(Opd.dst d).noPort, (Opd.src a).noPort, Opd.src b] → ∀ (y : Word) (r : State), s.readW b = (y, r) →
      ∀ p : AtomOp × Instr, p ∈ [(.add, .atomAdd wide n d a b la), (.and, .atomAnd wide n d a b la),
          (.or, .atomOr wide n d a b la), (.xor, .atomXor wide n d a b la), (.min, .atomMin wide n d a b la),
          (.max, .atomMax wide n d a b la), (.swap, .atomSwap wide n d a b la)] →
        own p.1 r y 0 p.2 ∧ far p.1 r y 0 p.2 ∧ task p.1 r y 0 p.2) ∧
    (∀ c : Reg, s.Issues [(Opd.dst d).noPort, (Opd.src a).noPort, Opd.src b, Opd.third c] →
      ∀ (y z : Word) (r : State), s.read2 b c = (y, z, r) →
        own .cas r y z (.atomCas wide n d a b c la) ∧ far .cas r y z (.atomCas wide n d a b c la) ∧
        task .cas r y z (.atomCas wide n d a b c la))) ∧
  (∀ (s : State) (q : Req) (op : AtomOp) (wide n : Bool), q.kind = .atom op wide n → s.localReq q = true →
    s.bankCheck q.off.toNat 1 = none → s.bankBusy q.off.toNat = false → s.Settled → s.MemoryCanonical →
    let k := if wide then 8 else 4
    let key := s.key q.off.toNat
    s.poisoned key k = false →
    let old := natAt s.mem key k
    let y := (q.data.headD 0).toNat % 2 ^ (8 * k)
    let lesser : Prop := if n then old ≤ y else signed (8 * k) old ≤ signed (8 * k) y
    ∃ u t, exec (.atomicExecute q) s = .next u ∧ s.Lands u t ∧
      (∀ j, j < key ∨ key + k ≤ j → SMap.getD t.mem j 0 = SMap.getD s.mem j 0) ∧
      (op = .add → natAt t.mem key k = (old + y) % 2 ^ (8 * k)) ∧
      (op = .and → natAt t.mem key k = old &&& y) ∧ (op = .or → natAt t.mem key k = old ||| y) ∧
      (op = .xor → natAt t.mem key k = old ^^^ y) ∧ (op = .swap → natAt t.mem key k = y) ∧
      (op = .min → (lesser → natAt t.mem key k = old) ∧ (¬lesser → natAt t.mem key k = y)) ∧
      (op = .max → (lesser → natAt t.mem key k = y) ∧ (¬lesser → natAt t.mem key k = old)) ∧
      (op = .cas → natAt t.mem key k = if old = q.cmp.toNat % 2 ^ (8 * k) then y else old))

/-- 08 R189. An address that fails a check traps before anything of the load or store happens: a local offset or the offset of a
global form beyond the visible top, or a form that is none, raises ADDRESS, and a misaligned one MISALIGNED, both with the address in
the frame. -/
def Obligations.BadAddressesTrap : Prop :=
  ∀ (s : State) (size : BitVec 2) (n : Bool) (d a : Reg) (la : BitVec 4) (off : BitVec 18) (x : Word) (r : State),
    let ea : Word := s.regW a.toNat + off.signExtend 64 + .ofInt 64 s.issue.step
    let bytes := 2 ^ size.toNat
    let stops (c : BitVec 9) : Prop :=
      (s.Issues [(Opd.dst d).noPort, (Opd.src a).noPort] → exec (.ld size n false d a la off) s = s.raise c ea) ∧
      (s.Issues [Opd.third d, (Opd.src a).noPort] → s.readW d = (x, r) → exec (.st size false d a off) s = s.raise c ea)
    (ea.toNat < 2 ^ 22 → s.rim.visibleTop < ea.toNat + bytes → stops cADDRESS) ∧
    (2 ^ 22 ≤ ea.toNat → ea.toNat < 2 ^ 63 → stops cADDRESS) ∧
    (ea.toNat + bytes ≤ s.rim.visibleTop → ea.toNat < 2 ^ 22 → ea.toNat % bytes ≠ 0 → stops cMISALIGNED)

/-- 08 R202, R206 to R209. A put/get head or a `RADD` that issues with its addresses in order and fewer than sixteen entries in the
queue, of a strand that does not speculate, completes: its entry stands in the queue with the device address, the slice offset, the
unit count (sectors for a transposed `GET`), the notify address and value and the counters that its operands give. `PREF` completes
with no effect but the fill that it asks the rim cache for.
The cycle in which an event falls due is the model's choice (log entry 7). -/
def Obligations.PutGetHeadsQueueEntries : Prop :=
  ∀ (s : State) (a b c d : Reg) (f : PgCtr) (len : BitVec 11) (len7 : BitVec 7) (es x2 : BitVec 2) (off18 : BitVec 18)
    (k n : BitVec 4) (o : Nat), s.isSpeculative = false → s.core.pg.length < 16 →
    let x := s.regW a.toNat
    let y := s.regW b.toNat
    let z := s.regW c.toNat
    let two : List Opd := [(Opd.src a).noPort, (Opd.src b).noPort]
    let legal (units sector align : Nat) : Prop :=
      ctrOk f = true ∧ (f.cm.getLsbD 1 = true → s.inStand f.rltn.toNat = true) ∧ x.toNat < 2 ^ 57 ∧ x.toNat % align = 0 ∧
      s.addrForm y = some (s.core.ltn, s.core.num, o) ∧ o + sector * units ≤ s.rim.visibleTop ∧ o % 64 = 0
    let entry (kind : PgKind) (units : Nat) (notify : Option (Nat × Word)) : PgEntry :=
      ⟨0, kind, 0, 0, x.toNat, o, units, notify, f, 0, 0, 0, 0, 0⟩
    (legal (len.toNat + 1) 64 64 →
      (s.Issues two →
        exec (.put a b f len) s = .next (s.enqueued (entry .put (len.toNat + 1) none)) ∧
        exec (.get a b f len) s = .next (s.enqueued (entry .get (len.toNat + 1) none))) ∧
      (s.Issues (two ++ [(Opd.third d).noPort, (Opd.third c).noPort]) → ∀ l e m,
        s.addrForm (s.regW d.toNat) = some (l, e, m) → (s.inStand l = true ∨ (s.regW d.toNat).toNat < 2 ^ 63) →
        m + 8 ≤ s.rim.visibleTop → m % 8 = 0 → s.addrBank (s.regW d.toNat) 8 = none →
        exec (.putn d a b c f len) s = .next (s.enqueued (entry .putn (len.toNat + 1) (some (sliceBase l e + m, z)))) ∧
        exec (.getn d a b c f len) s = .next (s.enqueued (entry .getn (len.toNat + 1) (some (sliceBase l e + m, z)))))) ∧
    (legal (len7.toNat + 1) 1024 32 → s.Issues (two ++ [(Opd.third c).noPort]) → es ≠ 3 → z.toNat % 32 = 0 → 32 ≤ z.toNat →
      z.toNat < 2 ^ 32 →
      exec (.getTransposed a b c f es len7) s
        = .next (s.enqueued (entry (.transposed es z.toNat) (len7.toNat + 1) none))) ∧
    (s.Issues two → ∀ l e m, s.addrForm x = some (l, e, m) → (s.inStand l = true ∨ x.toNat < 2 ^ 63) →
      m + 32 * (n.toNat + 1) ≤ s.rim.visibleTop → m % 32 = 0 → s.acquiring l = false → m < 2 ^ 22 → e < 16 →
      s.addrBank x (32 * (n.toNat + 1)) = none → s.addrBank y (32 * (n.toNat + 1)) = none →
      s.addrForm y = some (s.core.ltn, s.core.num, o) → (s.inStand s.core.ltn = true ∨ y.toNat < 2 ^ 63) →
      o + 32 * (n.toNat + 1) ≤ s.rim.visibleTop → o % 32 = 0 →
      let sum (b16 : Bool) : PgEntry := ⟨0, .radd b16, 0, 0, sliceBase l e + m, bits y.toNat 21 0, n.toNat + 1, none,
        ⟨0, 0, 0, k, 1⟩, 0, 0, 0, 0, 0⟩
      exec (.raddF32 a b k n) s = .next (s.enqueued (sum false)) ∧ exec (.raddB16 a b k n) s = .next (s.enqueued (sum true))) ∧
    (s.Issues [(Opd.src a).noPort] →
      exec (.pref x2 a off18) s = .next (s.after 1 (.prefFill (x + off18.signExtend 64 + .ofInt 64 s.issue.step).toNat x2)))

/-- 08 R212, R213; 09 R226 to R232. A wait whose condition holds, and a fence with nothing outstanding that it names, completes:
`WAITK` delivers the counter and takes the count off it, `WAITA` delivers the local word that equals, or differs from, the operand,
`FENCE.O` and `FENCE.X` drop the read buffers of the classes they name, `FENCE.R` and `FENCE.L` change nothing. -/
def Obligations.WaitAndFenceResults : Prop :=
  ∀ (s : State) (d a b : Reg) (k : BitVec 4) (ne : Bool) (src dst : BitVec 6),
    (s.Issues [(Opd.dst d).noPort, (Opd.src a).noPort] →
      let i : Fin 16 := k.toFin
      let c := s.core.k[i]
      let n := s.regW a.toNat
      n.toNat < 2 ^ 32 → c.err = 0 → n.toNat ≤ c.count.toNat →
      exec (.waitk d a k) s
        = .next (({ s with core := { s.core with k := s.core.k.set i ⟨.ofNat 32 (c.count.toNat - n.toNat), 0, c.faddr⟩ } } : State).setW
            s.issue.slot d.toNat (c.count.setWidth 64))) ∧
    (s.Issues [(Opd.dst d).noPort, (Opd.src a).noPort, Opd.src b] → ∀ (v : Word) (r : State) (o : Nat), s.readW b = (v, r) →
      s.checkLocal (s.regW a.toNat) 8 8 = .here o → s.lowerBuffers (s.key o / 64) = false → s.payloadHeld o 8 = false →
      s.bankBusy o = false → s.readsExceed 1 = false → s.poisoned (s.key o) 8 = false →
      let got := (s.served o true).loadBytes (s.key o) 8
      let w := w64 (leNat got.1)
      (if ne then w ≠ v else w = v) →
      exec (.waita d a b ne) s
        = .next (({ got.2 with core := { got.2.core with mq := r.core.mq } } : State).setW s.issue.slot d.toNat w)) ∧
    (s.Issues [(Opd.src a).noPort] → ∀ q, s.rectOperand (s.regW a.toNat) = some q → s.rectClear s.me.strand q = true →
      exec (.fenceR a) s = .next s) ∧
    (s.Issues [] →
      (src ≠ 0 → s.strongDone s.me.strand = true → exec (.fenceO src) s = .next (s.dropBuffers src)) ∧
      (src ≠ 0 → dst ≠ 0 → s.pathsDone s.me.strand src = true → exec (.fenceX src dst) s = .next (s.dropBuffers dst)) ∧
      (s.allDone s.me.strand = true → exec .fenceL s = .next s))

/-- 08 R202, R205, R210, R211, R214, R217. The put/get engine's events complete. A unit of a `PUT` whose page is translated and
whose bank is free moves the 64 slice bytes to the page's frame; one of a `GET` from an unencrypted page moves 64 device bytes to the
slice, where they are seen from the next cycle on. An entry whose units have all performed goes to its notify write, then to its counters, then leaves the queue. A unit of a
`RADD` and an increment that arrive at their core are done there. A fill changes only the rim cache and, where it walks, the translation cache; an eviction changes only the rim cache. -/
def Obligations.PutGetEngineEvents : Prop :=
  ∀ (s : State) (e : PgEntry) (u : Nat), s.Settled → s.MemoryCanonical →
    (∀ (x : Xlate), s.core.pg.find? (fun f => f.id == e.id && f.started == u && f.stage == 0 && decide (u < f.units)) = some e →
      let off := e.slice + 64 * u
      let line := s.key off / 64
      s.needsWalk (e.dev + 64 * u) = false → s.bankCheck off 64 = none → s.rangeBusy off 64 = false → off % 64 = 0 →
      (e.kind = .put ∨ e.kind = .putn → s.completionLogged e.id = false → s.translate (e.dev + 64 * u) true = .ok x → SMap.find line s.core.bufG = none →
        ∃ t, exec (.putgetUnit e.id u) s = .next t ∧ bytesAt t.mem (s.route x.dpa) 64 = bytesAt s.mem (s.key off) 64) ∧
      (e.kind = .get ∨ e.kind = .getn → s.translate (e.dev + 64 * u) false = .ok x → x.attrs.getLsbD 55 = false →
        SMap.find (s.route x.dpa / 64) s.rim.lineKeys = none → SMap.find (s.route x.dpa / 64) s.core.bufG = none →
        ∃ t v, exec (.putgetUnit e.id u) s = .next t ∧ s.Lands t v ∧
          bytesAt v.mem (s.key off) 64 = bytesAt s.mem (s.route x.dpa) 64)) ∧
    (s.core.pg.find? (fun f => f.id == e.id) = some e → e.units ≤ e.performed →
      s.tile.sent.any (fun x => x.q.entry == some e.id && x.q.sltn == s.core.ltn) = false →
      (e.stage = 0 → exec (.putgetEntryComplete e.id) s = .next (s.notifyStage e)) ∧
      (e.stage = 1 → exec (.putgetEntryComplete e.id) s = .next (s.counterStage e)) ∧
      (2 ≤ e.stage → ∃ t, exec (.putgetEntryComplete e.id) s = .next t ∧ t.core.pg = s.core.pg.filter fun f => f.id != e.id)) ∧
    (∀ (q : Req) (b16 : Bool), q.kind = .radd b16 → s.localReq q = true → s.bankCheck q.off.toNat 1 = none →
      s.bankBusy q.off.toNat = false → ∃ u t, exec (.raddUnitAdd q) s = .next u ∧ s.Lands u t ∧ bytesAt t.mem (s.key q.off.toNat) 32
        = raddBytes b16 (bytesAt s.mem (s.key q.off.toNat) 32) ((q.data.map fun w => leBytes 8 w.toNat).flatten)) ∧
    (∀ (q : Req) (k : BitVec 4) (err : Byte) (fa : Word), q.kind = .count k err fa → s.localReq q = true →
      ∃ t, exec (.remoteCounterIncrement q) s = .next t ∧
        (t.core.k[(k.toFin : Fin 16)]).count = (s.core.k[(k.toFin : Fin 16)]).count + 1) ∧
    (∀ (ea : Nat) (x : BitVec 2), ∃ t, exec (.prefFill ea x) s = .next t ∧ t.mem = s.mem ∧ t.core = s.core ∧
      t.tile = { s.tile with tlb := t.tile.tlb }) ∧
    (∀ base, ∃ t, exec (.rowSectorEviction base) s = .next t ∧ t.rim.rows = SMap.erase (base / 1024) s.rim.rows ∧
      t.rim.columns = (s.rim.columns.filter fun c => c.base != base) ∧ t.mem = s.mem ∧ t.core = s.core ∧ t.tile = s.tile)

/-- 01 R20, R33; 08 R196, R201, R222; 12 R295; 17 R400, R401. The tile's access events complete. A store that arrives in its turn
at an open bank of this core, not taken in this cycle, stores its bytes for the next cycle on; a load is answered with the bytes; a long result that arrives is held in its window, once a delta engine has made its accesses; a
bank whose wake is over is ACTIVE; a page walk leaves its leaf in the translation cache.
09 R234 to R236. A speculative task that holds the lowest key settles, and a settled task commits: every line that it has
buffered is written with the bytes of its mask, in memory, the buffer and the read set are empty, and every access to the line waits
until the commit's cycle is over.
The cycle in which an event falls due is the model's choice (log entry 7). -/
def Obligations.AccessAndTaskEvents : Prop :=
  (∀ (s : State), s.Settled → s.MemoryCanonical →
    (∀ (q : Req) (n : Nat), q.sltn ≠ s.core.ltn → q.dltn = s.core.ltn → q.dcore = s.core.num →
      q.seq = SMap.getD s.tile.expReq q.sltn 0 → s.bankCheck q.off.toNat 1 = none → s.bankBusy q.off.toNat = false → s.ckp = 2 →
      let k := s.key q.off.toNat
      (q.kind = .store n → n ≤ 8 →
        ∃ u t, exec (.remoteStorePerform q) s = .next u ∧ s.Lands u t ∧ natAt t.mem k n = (q.data.headD 0).toNat % 2 ^ (8 * n) ∧
          u.tile.expReq = SMap.put q.sltn (q.seq + 1) s.tile.expReq ∧
          ∀ j, j < k ∨ k + n ≤ j → SMap.getD t.mem j 0 = SMap.getD s.mem j 0) ∧
      (q.kind = .load n → ∃ t, exec (.remoteLoadServe q) s = .next t ∧ t.mem = s.mem ∧
        t.tile.expReq = SMap.put q.sltn (q.seq + 1) s.tile.expReq)) ∧
    (∀ (i : Fin 16) (tag : Nat),
      (s.engineBusy tag = true → exec (.longResultArrival i tag) s = .next (s.after 1 (.longResultArrival i tag))) ∧
      (s.engineBusy tag = false → ∃ t, exec (.longResultArrival i tag) s = .next t ∧
        (t.slot i).windows = (s.slot i).windows.map fun w => if w.tag = tag then { w with arrived := true } else w)) ∧
    (∀ b : Fin 3, (s.core.waking.any fun w => w.1 == b && decide (w.2 ≤ s.tile.cycle)) = true →
      ∃ t, exec (.bankWakeDone b) s = .next t ∧ t.bankState b.val = 0 ∧ (t.core.waking.any fun w => w.1 == b) = false) ∧
    (∀ (va : Nat) (st : Stand), s.stand = some st →
      ∃ t l, exec (.translationWalk va) s = .next t ∧ l ∈ t.tile.tlb ∧ l.asid = bits st.b.toNat 15 0 ∧
        ((∀ e, walk s st va ≠ .error e) → l.va = va / 2 ^ l.log2 * 2 ^ l.log2))) ∧
  (∀ (s : State) (i : Fin 16) (k : Task), (s.slot i).task = some k →
    (k.settled = false → s.holdsLowest i = true →
      exec (.taskSettle i) s = .next ((s.modSlot i fun x => { x with task := some { k with settled := true } }).after 0 (.taskCommit i))) ∧
    (k.settled = true → s.Settled → s.MemoryCanonical → ∀ (line : Nat) (l : SpecLine), k.lines = [(line, l)] → l.mask.length = 64 → l.data.length = 64 →
      ∃ t, exec (.taskCommit i) s = .next t ∧ (t.slot i).task = some { k with lines := [], reads := [] } ∧
        t.core.commits = (s.core.commits.filter fun c => decide (s.tile.cycle < c.1)) ++ [(s.tile.cycle + 1, [line])] ∧
        (∀ p < 64, SMap.getD t.mem (line * 64 + p) 0 = if l.mask.getD p false then l.data.getD p 0
          else SMap.getD s.mem (line * 64 + p) 0) ∧
        (∀ j, j < line * 64 ∨ line * 64 + 64 ≤ j → SMap.getD t.mem j 0 = SMap.getD s.mem j 0)))


/-- 11 R263 to R274, R277, R279, R280. The strand heads complete, for a strand that does not speculate and whose accesses to the
rectangle concerned have performed, with a target at an even halfword: `SPAWN` and `SPAWN.S` send an arrival with w a to w a+3 to the core that b names; `QUIT` ends the
strand; `FORK` pushes an entry with w0 to w3; `JOIN` opens its window over the decrement of the join word; `YIELD` sleeps for 64 cycles;
`MIGRATE` to the own core begins a block, unbinds the ports, releases the tiles and retires the taken records; `TASK` takes the lowest free entry of the table.
The cycle in which an event falls due is the model's choice (log entry 7). -/
def Obligations.StrandHeadResults : Prop :=
  ∀ (s : State) (a b c : Reg) (pc : BitVec 22) (sig : Byte) (wq sq : BitVec 2), s.isSpeculative = false →
    let w (n : Nat) : Word := s.regW (a.toNat + n)
    let four : List (Reg × Word) := [(0, w 0), (1, w 1), (2, w 2), (3, w 3)]
    let arrival (stamp : Option Word) : Body := .arrival ⟨pc, s.me.priv, 0xFF00, four, false, none, stamp, none, s.core.ltn,
      s.core.num, s.issue.slot.val, 0⟩
    (a.toNat % 4 = 0 → a.toNat ≤ 24 → pc.getLsbD 0 = false →
      (∀ l e o, s.addrForm (s.regW b.toNat) = some (l, e, o) → s.inStand l = true → s.rectClear s.me.strand (tileRect l) = true →
        0 < s.holdFree →
        (s.Issues [((Opd.src a).span 4).noPort, (Opd.src b).noPort] →
          exec (.spawn a b pc) s = .next (s.sendPacket l e (arrival none) s.me.strand)) ∧
        (s.Issues [((Opd.src a).span 4).noPort, (Opd.src b).noPort, Opd.third c] → ∀ (x : Word) (r : State), s.readW c = (x, r) →
          s.tile.known.toNat ≤ x.toNat →
          exec (.spawnS a b c pc) s = .next (r.sendPacket l e (arrival (some x)) s.me.strand))) ∧
      (s.Issues [((Opd.src a).span 4).noPort, (Opd.src b).noPort, (Opd.third c).noPort] → ∀ n, n < 128 →
        (∀ e ∈ s.tile.table, e.index ≠ n) → (∀ m < n, ∃ e ∈ s.tile.table, e.index = m) →
        exec (.task a b c pc wq sq) s = .next { s with tile := { s.tile with table := s.tile.table ++
          [⟨n, s.core.num, ⟨true, s.me.priv, sq, wq, pc, s.regW b.toNat, s.regW c.toNat, w 0, w 1, w 2, w 3⟩, false⟩] } })) ∧
    (s.Issues [] →
      (s.rectClear s.me.strand s.standRect = true → s.me.task = none → s.flushWaits s.issue.slot = false →
        exec (.quit sig) s = .next (s.endStrand s.issue.slot)) ∧
      exec .yield s = .next ((s.await (.cycle (s.tile.cycle + 64))).after 64 (.yieldExpiry s.issue.slot))) ∧
    (s.Issues [((Opd.src 0).span 4).noPort] → pc.getLsbD 0 = false → s.rectClear s.me.strand (tileRect s.core.ltn) = true →
      s.dequeFull = false →
      exec (.fork pc) s = .next (s.pushEntry ⟨false, s.me.priv, 0, 0, pc, 0, 0, s.regW 0, s.regW 1, s.regW 2, s.regW 3⟩)) ∧
    (s.Issues [(Opd.src a).noPort] → s.rectClear s.me.strand s.standRect = true →
      (s.me.windows.length < 4 →
        let window : Window := ⟨0, 0, false, [], .word 0 8 true, none, s.issue.info, none, true, none, none⟩
        (∀ o, s.OwnPlace (s.regW a.toNat) 8 8 o true →
          ∃ q t, q = s.request s.core.ltn s.core.num o (.atom .add true false) [0xFFFFFFFFFFFFFFFF] ∧ t = s.openWindow 0 window ∧
            exec (.join a) s = .next (({ t with tile := { t.tile with
              sent := t.tile.sent ++ [⟨q, t.tile.cycle, false, s.me.strand, s.issue.info⟩] } } : State).after 1 (.atomicExecute q))) ∧
        (∀ l e o, s.FarAccess (s.regW a.toNat) 8 8 l e o →
          exec (.join a) s = .next ((s.openWindow 0 window).sendReq
            (s.request l e o (.atom .add true false) [0xFFFFFFFFFFFFFFFF]) s.me.strand s.issue.info))) ∧
      (∀ o, s.addrForm (s.regW a.toNat) = some (s.core.ltn, s.core.num, o) → s.inStand s.core.ltn = true →
        (s.core.bars.any fun x => x.2.members.getLsbD s.issue.slot.val) = false → s.me.windows = [] → s.me.payload = [] →
        (∀ b ∈ s.me.qo, b.buf = []) → s.qoDead s.issue.slot = none →
        ∃ t, exec (.migrate a) s = .next t ∧ t.me = { s.me with fold := 0x5A, qi := none, qo := none, taken := [] } ∧
          (∀ m ∈ t.core.tiles.toList, m.owner ≠ some s.issue.slot) ∧ t.mem = s.mem))

/-- 11 R269, R287; 10 R242. A strand that ends leaves its slot EMPTY with the values of a new slot, owns no matrix tile, is no member
of a barrier, and what its SET mask names is set.
11 R264, R265, R270 to R273. The core's filling completes. In a cycle in which no slot has been filled it takes one source,
in the order handler queue, arrivals, ready tasks, deque: the strand stands in the slot with its home workspace, its PC, mode and
fresh `sw`, and w0 to w3 of it in the slice; a steal that finds an entry places it, a probe that finds none changes nothing; the end of a
cycle of an idle core moves its search to the next core. -/
def Obligations.EndOfStrandAndSlotFill : Prop :=
  (∀ (s : State) (i : Fin 16), (s.slot i).payload = [] → (s.slot i).qo = none →
    (∀ w ∈ (s.slot i).windows, w.store = none) → (s.slot i).parkAsked = [] → s.core.bars = [] →
    let t := s.endStrand i
    t.slot i = { Slot.none with lastTurn := (s.slot i).lastTurn } ∧ (∀ m ∈ t.core.tiles.toList, m.owner ≠ some i) ∧
    (∀ o ∈ t.core.mat, o.slot ≠ i) ∧ (∀ j, j ≠ i → t.slot j = s.slot j) ∧ t.mem = s.mem ∧
    t.tile.sets = s.tile.sets ++ (s.slot i).setOnEnd.toList) ∧
  (∀ (s : State) (i : Fin 16) (e : TaskEntry), s.emptySlot = some i → s.core.filledAt ≠ some s.tile.cycle → s.core.handlerQ = [] →
    s.core.arrivals = [] → s.core.ready = [] → s.Settled → s.MemoryCanonical →
    let placed (t : State) : Prop :=
      (t.slot i).pc = e.pc ∧ (t.slot i).priv = e.priv ∧ (t.slot i).sw = 0xFF00 ∧ (t.slot i).fold = 0x5A ∧
      (t.slot i).wp = .ofNat 22 (s.rim.twb.toNat + 1024 * i.val) ∧
      (let k := s.key (s.rim.twb.toNat + 1024 * i.val)
       natAt t.mem k 8 = e.w0.toNat ∧ natAt t.mem (k + 8) 8 = e.w1.toNat ∧ natAt t.mem (k + 16) 8 = e.w2.toNat ∧
       natAt t.mem (k + 24) 8 = e.w3.toNat) ∧
      t.core.filledAt = some s.tile.cycle
    (∀ hw, s.core.deque.hw = hw ++ [e] → ∃ t, exec .slotFill s = .next t ∧ placed t ∧ t.core.deque.hw = hw) ∧
    (s.core.deque.hw = [] → s.core.deque.inRegion = 0 →
      (∃ t, exec (.stealProbe (some e)) s = .next t ∧ placed t) ∧ exec (.stealProbe none) s = .next s ∧
      (s.core.stealAt = none → s.probe.core.stealAt = some ((s.core.num + 1) % 16)) ∧
      (∀ v, s.core.stealAt = some v →
        s.probe.core.stealAt = some (if (v + 1) % 16 = s.core.num then (v + 2) % 16 else (v + 1) % 16))) ∧
    ((s.slot i).wait = none → ∀ j, (s.slot j).st = .sleep → (∃ c ≤ s.tile.cycle, (s.slot j).wait = some (.cycle c)) →
      ∃ t, exec (.yieldExpiry j) s = .next t ∧ (t.slot j).st = .ready ∧ (t.slot j).wait = none))

/-- 11 R275 to R278. The event heads complete for a strand that does not speculate: `SETEV` and `CLREV` give the event unit a set or
a clear of this tile, `SETEV` of another tile sends it, `WAITEV` delivers the quarter when its bits are met and otherwise sleeps for
them. The event unit's cycle applies the clears, then the sets. -/
def Obligations.EventResults : Prop :=
  ∀ (s : State) (a d : Reg) (q : BitVec 2) (rt any : Bool) (ltn : BitVec 12), s.isSpeculative = false →
    let mask := s.regW a.toNat
    let quarter : Fin 4 := .ofNat 4 q.toNat
    (s.Issues [(Opd.src a).noPort] →
      (s.rectClear s.me.strand (tileRect s.core.ltn) = true →
        exec (.setev a q false 0) s = .next { s with tile := { s.tile with sets := s.tile.sets ++ [(quarter, mask)] } }) ∧
      (s.inStand ltn.toNat = true → ltn.toNat ≠ s.core.ltn → s.rectClear s.me.strand (tileRect ltn.toNat) = true → 0 < s.holdFree →
        exec (.setev a q true ltn) s = .next (s.sendPacket ltn.toNat 0 (.setev quarter mask) s.me.strand)) ∧
      exec (.clrev a q) s = .next { s with tile := { s.tile with clears := s.tile.clears ++ [(quarter, mask)] } }) ∧
    (s.Issues [(Opd.dst d).noPort, (Opd.src a).noPort] → (any = true → mask ≠ 0) →
      ((if any then s.tile.events[quarter] &&& mask ≠ 0 else s.tile.events[quarter] &&& mask = mask) →
        exec (.waitev d a q any) s = .next (s.setW s.issue.slot d.toNat s.tile.events[quarter])) ∧
      (¬(if any then s.tile.events[quarter] &&& mask ≠ 0 else s.tile.events[quarter] &&& mask = mask) →
        exec (.waitev d a q any) s = .next (s.await (.events quarter mask any d)))) ∧
    (∀ (c₁ c₂ : Word), s.tile.clears = [(quarter, c₁)] → s.tile.sets = [(quarter, c₂)] →
      ∃ t, exec .eventUnitCycle s = .next t ∧ t.tile.events[quarter] = (s.tile.events[quarter] &&& ~~~c₁) ||| c₂ ∧
        t.tile.sets = [] ∧ t.tile.clears = [] ∧ ∀ r, r ≠ quarter → t.tile.events[r] = s.tile.events[r]) ∧
    (∀ (sltn seq : Nat) (m : Word), (BitVec.ofNat 32 seq) = SMap.getD s.tile.expMsg sltn 0 → s.tile.reorderMsg = [] → s.ckp = 2 →
      ∃ t, exec (.remoteSetevArrival sltn seq quarter m) s = .next t ∧ t.tile.sets = s.tile.sets ++ [(quarter, m)] ∧
        t.tile.expMsg = SMap.put sltn (.ofNat 32 seq + 1) s.tile.expMsg)

/-- 11 R281 to R288. The barrier heads complete. `BARCFG.C` configures a slot at which nothing has arrived, one of a wider scope once
its combining point has agreed; `BAR`, `BARA` and `BARRED` on a configured slot of their scope join MEMBERS and ARRIVED and send their
arrival, `BARW` delivers RES when the generation that it names is over and waits otherwise. -/
def Obligations.BarrierHeadResults : Prop :=
  ∀ (s : State) (scope : BitVec 3) (b : BitVec 7) (d a : Reg), 1 ≤ scope.toNat → scope.toNat ≤ 5 → s.isSpeculative = false →
    let x := s.bar b
    let i := s.issue.slot
    let v := s.regW a.toNat
    let one : BitVec 16 := 1 <<< i.val
    let joined (val : Word) (reg : Option Reg) (answer : Bool) : State :=
      ((s.setBar b { x with members := x.members ||| one, arrived := x.arrived ||| one,
                            waiters := x.waiters ++ [⟨i, s.me.strand, none, reg, answer, s.issue.info, s.issue.foldBefore, s.me.loops,
                              x.members.getLsbD i.val, x.arrived.getLsbD i.val⟩]
          }).await .answer).arrive ⟨s.core.ltn, s.core.num, i, b, scope, x.count, x.op, val, false, true, answer⟩
    (s.Issues [(Opd.src a).noPort] → v.toNat < 2 ^ 26 →
      let conf : Bar := { Bar.none with count := v.setWidth 24, scope := scope, op := .ofNat 3 (bits v.toNat 26 24) }
      (scope = 1 → x.arr = x.perm → x.waiters = [] → exec (.barcfg scope a b) s = .next (s.setBar b conf)) ∧
      (scope ≠ 1 → ∀ q, s.core.barAsks.find? (fun q => q.slot == i && q.strand == s.me.strand) = some q → q.ok = some true →
        exec (.barcfg scope a b) s
          = .next { s with core := { s.core with barAsks := s.core.barAsks.filter fun q => q.slot != i } })) ∧
    (x.count ≠ 0 → x.scope = scope →
      ((if scope.toNat ≤ 2 then s.rectClear s.me.strand (tileRect s.core.ltn) = true
          else s.rectClear s.me.strand s.standRect = true) →
        (s.Issues [] → exec (.bar scope b) s = .next (joined 0 none false)) ∧
        (s.Issues [(Opd.dst d).noPort, (Opd.src a).noPort] →
          exec (.bara scope d a b) s = .next (joined v (some d) true) ∧
          exec (.barred scope d a b) s = .next (joined v (some d) false))) ∧
      (s.Issues [(Opd.dst d).noPort, (Opd.src a).noPort] → v.toNat < 2 ^ 16 →
        let n := (x.gen - v.setWidth 16).toNat
        (1 ≤ n ∧ n ≤ 32767 → exec (.barw scope d a b) s = .next (s.setW i d.toNat x.res)) ∧
        (¬(1 ≤ n ∧ n ≤ 32767) → exec (.barw scope d a b) s = .next ((s.setBar b { x with waiters := x.waiters ++
          [⟨i, s.me.strand, some (v.setWidth 16), some d, false, s.issue.info, s.issue.foldBefore, s.me.loops, true, true⟩] }).await .answer))))

/-- 11 R284, R286, R288. The barrier events complete. The combining point configures the slot when the domain agrees and
nothing has arrived there, and its answer comes one leg later. An arrival that is not the last adds one to ARR and reduces its value into the running result; the last one
begins the next generation with ARR at the permanent arrivals. A release moves GEN and RES on.
What other cores' arrivals bring comes from outside (log entry 6). -/
def Obligations.BarrierEvents : Prop :=
  ∀ (s : State) (b : BitVec 7), s.ckp = 2 →
    let x := s.bar b
    (∀ (i : Fin 16) (q : BarAsk), s.core.barAsks.find? (fun r => r.slot == i && r.ok.isNone) = some q → q.b = b →
      (q.seen = none → x.arr = x.perm → x.waiters = [] → s.tile.replay = [] →
        ∃ t, exec (.barcfgAnswer i true) s = .next t ∧ { q with seen := some true, due := s.tile.cycle + scopeLeg q.scope } ∈ t.core.barAsks ∧
          t.bar b = { Bar.none with count := q.word.setWidth 24, scope := q.scope, op := .ofNat 3 (q.word.toNat / 2 ^ 24 % 8) }) ∧
      (q.seen = none → x.arr ≠ x.perm ∨ x.waiters ≠ [] → s.tile.replay = [] →
        ∃ t, exec (.barcfgAnswer i true) s = .next t ∧ t.bar b = x ∧
          { q with seen := some false, due := s.tile.cycle + scopeLeg q.scope } ∈ t.core.barAsks) ∧
      (∀ v ok, q.seen = some v → q.due ≤ s.tile.cycle →
        ∃ t, exec (.barcfgAnswer i ok) s = .next t ∧ { q with ok := some v } ∈ t.core.barAsks ∧ t.bar b = x)) ∧
    (∀ q : BarArrival, q.b = b → q.permanent = false → q.ltn ≠ s.core.ltn → x.first = some (q.count, q.op) → x.count ≠ 0 →
      (x.arr.toNat + 1 < x.count.toNat → ∃ t, exec (.barrierCombine q) s = .next t ∧ (t.bar b).arr = x.arr + 1 ∧
        (t.bar b).acc = barOp x.op x.acc q.v ∧ (t.bar b).domGen = x.domGen) ∧
      (x.count.toNat ≤ x.arr.toNat + 1 → ∃ t, exec (.barrierCombine q) s = .next t ∧ (t.bar b).arr = x.perm ∧ (t.bar b).acc = 0 ∧
        (t.bar b).arrived = 0 ∧ (t.bar b).domGen = x.domGen + 1)) ∧
    (∀ (g : BitVec 16) (res : Word), x.scope ≠ 1 → x.count ≠ 0 → x.waiters = [] →
      ∃ t, exec (.barrierReleaseWake b g res) s = .next t ∧ (t.bar b).gen = g + 1 ∧ (t.bar b).res = res ∧ t.mem = s.mem)

/-- 12 R294, R295, R297, R299. A packet that is formed takes the channel's next SEQ and a hold entry. Toward a BOUND tile other
than this one whose channel is free it is sent in this cycle and again RTO = 4096 cycles later; toward a SWAPPED tile a message
waits for the mailbox; toward a tile in neither state, nor EXITED, it waits in the hold buffer.
The cycle in which an event falls due is the model's choice (log entry 7). -/
def Obligations.PacketFormation : Prop :=
  ∀ (s : State) (l c strand : Nat) (q : BitVec 3) (ws : List Word), l ≠ s.core.ltn → s.channelHeld l = false →
    (∀ h ∈ s.tile.hold, h.id ≠ s.tile.nextHold) →
    let t := s.sendPacket l c (.message q ws) strand
    let p : Packet := ⟨s.core.ltn, s.core.num, s.issue.slot.val, l, c, SMap.getD s.tile.seqMsg l 0, .message q ws, 0⟩
    (s.keyOf l).st ≠ .exited →
    t.tile.seqMsg = SMap.put l (SMap.getD s.tile.seqMsg l 0 + 1) s.tile.seqMsg ∧ t.mem = s.mem ∧ t.core = s.core ∧
    ((s.keyOf l).st = .bound → t.tile.hold = s.tile.hold ++ [⟨s.tile.nextHold, p, .sent s.tile.cycle, strand⟩] ∧
      (s.tile.cycle + 4096, Instr.rtoResend s.tile.nextHold) ∈ t.agenda) ∧
    ((s.keyOf l).st = .swapped → t.tile.hold = s.tile.hold ++ [⟨s.tile.nextHold, p, .mailbox, strand⟩] ∧
      (s.tile.cycle + 1, Instr.mailboxWrite s.tile.nextHold) ∈ t.agenda) ∧
    ((s.keyOf l).st ≠ .bound → (s.keyOf l).st ≠ .swapped →
      t.tile.hold = s.tile.hold ++ [⟨s.tile.nextHold, p, .waiting, strand⟩] ∧ t.agenda = s.agenda)

/-- 12 R301, R303, R305 to R308. The message heads complete for a strand that does not speculate. `SEND` and `SENDV` form a packet of
N + 1 words of the slice, or of 2^R vectors; `RECV` takes the head message, up to b words of it, into the slice and delivers INFO;
`RECVV` pops four words into a vector; the `QBIND` forms bind and unbind the ports, an empty assembly buffer aside; `MQSTAT`
delivers the queue's status, and `PEEK` a word of it with Z clear, or zero with Z set. -/
def Obligations.MessageHeadResults : Prop :=
  ∀ (s : State) (a b d : Reg) (n : BitVec 6) (r : BitVec 2) (q : BitVec 3), s.isSpeculative = false →
    let dst := s.regW a.toNat
    let queue := s.core.mq[q.toFin]
    let kept (rest : List InMsg) : State := { s with core := { s.core with mq := s.core.mq.set q.toFin rest } }
    (∀ l c p, s.destWord dst 3 = some (l, c, p) → s.MaySend l 1 →
      (∀ off, s.Issues [(Opd.src a).noPort, (Opd.src b).noPort] → s.OwnRange (s.regW b.toNat) (8 * (n.toNat + 1)) 8 off →
        exec (.send a b n) s = .next ((s.sendPacket l c (.message (.ofNat 3 p) []) s.me.strand (later := true)).modMe fun x =>
          { x with payload := x.payload ++ readLines off (n.toNat + 1) (some s.tile.nextHold) })) ∧
      (s.Issues [(Opd.src a).noPort, ((Opd.vsrc b).span (2 ^ r.toNat)).noPort] → b.toNat % 2 ^ r.toNat = 0 →
        b.toNat + 2 ^ r.toNat ≤ 16 →
        exec (.sendv a b r) s = .next (s.sendPacket l c (.message (.ofNat 3 p)
          ((List.range (2 ^ r.toNat)).flatMap fun i => wordsOf (s.regV (b.toNat + i)))) s.me.strand))) ∧
    (s.Issues [(Opd.dst d).noPort, (Opd.src a).noPort, (Opd.src b).noPort] → ∀ m rest off, queue = m :: rest →
      let limit := (s.regW b.toNat).toNat
      1 ≤ limit → limit ≤ 64 → s.OwnRange dst (8 * limit) 8 off → m.sltn < 4096 → m.score < 16 →
      let words := (m.words.zip m.poison).take limit
      let info : Nat := (if limit < m.words.length then 2 ^ 63 else 0) + m.sltn * 2 ^ 32 + m.score * 2 ^ 28 + m.words.length
      exec (.recv d a b q) s = .next (((kept rest).modMe fun x => { x with
        payload := x.payload ++ writeLines (wordLines words.length off words.length) words }).setW s.issue.slot d.toNat (w64 info))) ∧
    (s.Issues [(Opd.vdst d).noPort] → ∀ ws rest, popWords 4 queue = some (ws, rest) →
      exec (.recvv d q) s = .next ((kept rest).write (some s.issue.slot) (s.vKey s.issue.slot d.toNat)
        ((ws.map fun w => leBytes 8 w.toNat).flatten) (((queue.flatMap (·.poison)).take 4).any id))) ∧
    (s.Issues [] →
      exec (.qbindQi q) s = .next (s.modMe fun x => { x with qi := some q.toFin }) ∧
      exec .qbindQiOff s = .next (s.modMe fun x => { x with qi := none }) ∧
      (s.flushWaits s.issue.slot = false → s.qoDead s.issue.slot = none →
        exec .qbindQoOff s = .next ((s.flushQo s.issue.slot).modMe fun x => { x with qo := none }))) ∧
    (s.Issues [(Opd.src a).noPort] → (s.destWord dst 3).isSome = true → s.flushWaits s.issue.slot = false →
      s.qoDead s.issue.slot = none → exec (.qbindQo a n) s = .next ((s.flushQo s.issue.slot).modMe fun x => { x with qo := some ⟨dst, n.toNat + 1, []⟩ })) ∧
    (s.Issues [(Opd.dst d).noPort] →
      exec (.mqstat d q) s = .next (s.setW s.issue.slot d.toNat (w64 ((s.heapHolds q.toFin).toNat * 2 ^ 63
        + (allSlots.any fun i => (s.slot i).qi == some q.toFin).toNat * 2 ^ 62
        + (match queue with | m :: _ => m.words.length | [] => 0) * 2 ^ 40 + queue.length * 2 ^ 32 + queueWords queue)))) ∧
    (s.Issues [(Opd.dst d).noPort, (Opd.src a).noPort] →
      let words := queue.flatMap (·.words)
      (∀ w, words[dst.toNat]? = some w → exec (.peek d a q) s = .next ((s.setW s.issue.slot d.toNat w).setSw 4 0)) ∧
      (words.length ≤ dst.toNat → exec (.peek d a q) s = .next ((s.setW s.issue.slot d.toNat 0).setSw 4 4)))

/-- 11 R265; 12 R295, R300 to R302; 20 R475, R476. The events of arriving packets and of the bucker complete. A packet of the
expected SEQ enters its queue at the end of the cycle when no message of that queue is in the heap and there is room, else the heap of
an enabled bucker, and is otherwise refused and its channel blocked; one that has been accepted before is acknowledged again; an arrival
enters the arrival queue; a notice moves the channel on. The bucker writes and replays heap lines in banks that are ACTIVE, oldest first,
each message as its lines then hold it. A keyring change is applied. -/
def Obligations.MessageEvents : Prop :=
  ∀ (s : State),
    (∀ (p : Packet) (q : BitVec 3) (ws : List Word), p.body = .message q ws → p.seq = SMap.getD s.tile.expMsg p.sltn 0 →
      let m : InMsg := ⟨p.sltn, p.score, ws, poisonBits p.poison ws.length⟩
      let room := s.heapHolds q.toFin = false ∧ s.queueRoom q.toFin ws.length = true
      let heap := s.core.bucker.enabled = true ∧ s.heapUsed + heapLines ws.length ≤ s.core.bucker.lines
      ∃ t, exec (.messageAccept p) s = .next t ∧ t.mem = s.mem ∧
        t.core.mq = s.core.mq ∧
        (room → t.core.landing = s.core.landing ++ [.message q.toFin m] ∧
          t.tile.expMsg = SMap.put p.sltn (p.seq + 1) s.tile.expMsg) ∧
        (¬room → t.core.landing = s.core.landing) ∧
        (¬room → heap → t.core.bucker.heap = s.core.bucker.heap ++
            [⟨q, p.sltn, p.score, p.seq, ws, m.poison, heapLines ws.length, 0,
              freePlaces s.core.bucker.lines (s.core.bucker.heap.flatMap (·.places)) (heapLines ws.length)⟩] ∧
          t.tile.expMsg = SMap.put p.sltn (p.seq + 1) s.tile.expMsg) ∧
        (¬room → ¬heap → t.core.bucker = s.core.bucker ∧ t.tile.expMsg = s.tile.expMsg ∧ p.sltn ∈ t.tile.blocked)) ∧
    (∀ (q : Fin 8) (m : InMsg), (s.landOne (.message q m)).core.mq = s.core.mq.set q (s.core.mq[q] ++ [m])) ∧
    (∀ (p : Packet) (q : BitVec 3) (ws : List Word), p.body = .message q ws →
      2 ^ 31 ≤ (p.seq - SMap.getD s.tile.expMsg p.sltn 0).toNat → exec (.messageAccept p) s = .next (s.replyMsg p 2 0 [] (dup := true))) ∧
    (∀ v : Arrival, v.seq = SMap.getD s.tile.expMsg v.sltn 0 → s.core.arrivals.length < 16 →
      ∃ t, exec (.arrivalReceive v) s = .next t ∧ t.core.arrivals = s.core.arrivals ++ [v] ∧
        t.tile.expMsg = SMap.put v.sltn (v.seq + 1) s.tile.expMsg) ∧
    (∀ sltn seq : Nat, BitVec.ofNat 32 seq = SMap.getD s.tile.expMsg sltn 0 →
      ∃ t, exec (.deadLetterNotice sltn seq) s = .next t ∧ t.core = s.core ∧
        t.tile.expMsg = SMap.put sltn (BitVec.ofNat 32 seq + 1) s.tile.expMsg) ∧
    (∀ (before rest : List HeapMsg) (m : HeapMsg), s.core.bucker.heap = before ++ m :: rest → (∀ x ∈ before, x.toWrite = 0) →
      (let j := heapLines m.words.length - m.toWrite
       let off := s.core.bucker.base.toNat + 64 * m.places.getD j 0
       let line := (m.words.drop (8 * (j - 1))).take 8
       m.toWrite ≠ 0 → s.bankCheck off 64 = none → s.Settled → s.MemoryCanonical →
        ∃ t, exec .buckerBuck s = .next t ∧ t.core.mq = s.core.mq ∧ t.core.landing = s.core.landing ∧
          t.core.bucker.heap = before ++ { m with toWrite := m.toWrite - 1 } :: rest ∧
          (j ≠ 0 → bytesAt t.mem (s.key off) (8 * line.length) = line.flatMap fun w => leBytes 8 w.toNat) ∧
          ∀ k, k < s.key off ∨ s.key off + 64 ≤ k → SMap.getD t.mem k 0 = SMap.getD s.mem k 0) ∧
      (let j := m.replayed
       let off := s.core.bucker.base.toNat + 64 * m.places.getD j 0
       let first := 8 * (j - 1)
       let n := if j = 0 then 0 else min 8 (m.words.length - first)
       let read := (List.range n).map fun w => w64 (natAt s.mem (s.key off + 8 * w) 8)
       let now : HeapMsg := { m with
         words := m.words.take first ++ read ++ m.words.drop (first + n), replayed := j + 1
         poison := m.poison.take first ++ List.replicate n (s.poisoned (s.key off) 64) ++ m.poison.drop (first + n) }
       m.toWrite = 0 → s.queueRoom m.queue.toFin m.words.length = true → before = [] → s.bankCheck off 64 = none →
        ∃ t, exec .buckerReplay s = .next t ∧ t.core.mq = s.core.mq ∧ t.mem = s.mem ∧
          (j + 1 < heapLines now.words.length → t.core.landing = s.core.landing ∧ t.core.bucker.heap = now :: rest) ∧
          (heapLines now.words.length ≤ j + 1 → t.core.bucker.heap = rest ∧
            t.core.landing = s.core.landing ++ [.message m.queue.toFin ⟨m.sltn, m.score, now.words, now.poison⟩]))) ∧
    (∀ (ltn : Nat) (e : KeyEntry), ∃ t, exec (.keyringChangeApply ltn e) s = .next t ∧
      t.tile.keyring = SMap.put ltn e s.tile.keyring ∧ ltn ∈ t.tile.changed ∧
      t.rim.mailbox = if e.st = .bound then s.rim.mailbox.filter fun p => p.packet.dltn != ltn else s.rim.mailbox)

/-- 08 R196; 12 R295, R297 to R299; 20 R463. The channel events complete. A reply to a held packet frees its hold entry; a value
reply ends the request and gives its window the value; a store's reply ends the request; a duplicate changes nothing. An entry
unanswered for 4096 cycles and one refused 256 cycles ago go out again, a request that is due is sent again, one that came back is
decided again, and a message for a SWAPPED tile that is the first of its channel moves to the mailbox while there is room. The cycle in which an event falls due is the model's choice (log entry 7). -/
def Obligations.ChannelEvents : Prop :=
  ∀ (s : State), s.ckp = 2 →
    (∀ r : Reply, r.dup = true → exec (.replyArrival r) s = .next s) ∧
    (∀ (r : Reply) (h : HoldEntry) (c : Nat), r.dup = false → r.msgNet = true → r.rk = 2 → s.tile.hold = [h] → h.st = .sent c →
      h.p.dltn = r.peer → h.p.seq = r.eseq → (∀ q, h.p.body ≠ .park q) →
      exec (.replyArrival r) s = .next { s with tile := { s.tile with hold := [] } }) ∧
    (∀ (r : Reply) (x : Sent), r.dup = false → r.msgNet = false → r.poison = false → s.tile.sent = [x] → x.kept = false →
      s.localReq x.q = false → x.q.dltn = r.peer → x.q.seq = r.eseq → x.q.entry = none →
      let i : Fin 16 := .ofNat 16 x.q.slot
      (r.rk = 2 → exec (.replyArrival r) s = .next { s with tile := { s.tile with sent := [] } }) ∧
      (r.rk = 0 → (s.slot i).strand = x.strand →
        ∃ t, exec (.replyArrival r) s = .next t ∧ t.tile.sent = [] ∧ t.mem = s.mem ∧
          (t.slot i).windows = (s.slot i).windows.map fun w => if w.tag = x.q.wtag then
            { w with arrived := true, writes := destWrites w.dest r.data, trap := none } else w)) ∧
    (∀ (h : HoldEntry) (c : Nat), s.tile.hold.find? (fun x => x.id == h.id) = some h →
      (h.st = .sent c → exec (.rtoResend h.id) s = .next (if c + 4096 ≤ s.tile.cycle then s.sendHeld h else s)) ∧
      (h.st = .refused c → exec (.refusalResend h.id) s
        = .next (if c + 256 ≤ s.tile.cycle then (s.sendHeld h).drain h.p.dltn else s))) ∧
    (∀ x : Sent, s.tile.hold = [] → s.tile.sent = [x] → x.q.sltn = s.core.ltn → x.kept = false →
      (x.q.dltn ≠ s.core.ltn ∨ x.q.dcore ≠ s.core.num) →
      exec (.rtoResend (reqId x.q.dltn x.q.seq)) s = .next (if x.due ≤ s.tile.cycle then s.resendReq x else s)) ∧
    (∀ (h : HoldEntry) (a : Arrival) (c : Nat), h ∈ s.tile.hold → h.p.body = .arrival a → h.st = .refused c →
      (∀ x ∈ s.tile.hold, x.p.body = .arrival a → x = h) →
      exec (.arrivalResend a) s = .next (if c + 256 ≤ s.tile.cycle then (s.sendHeld h).drain h.p.dltn else s)) ∧
    (∀ (p : Packet) (h : HoldEntry), s.tile.hold.find? (fun x => x.p.dltn == p.dltn && x.p.seq == p.seq) = some h →
      exec (.redirect p) s = .next ((s.sendHeld h).drain p.dltn)) ∧
    (∀ (h : HoldEntry) (q : BitVec 3) (ws : List Word),
      s.tile.hold.find? (fun x => x.id == h.id && x.st == .mailbox) = some h → h.p.body = .message q ws →
      s.tile.hold.find? (fun x => x.p.dltn == h.p.dltn && x.st == .mailbox) = some h →
      (s.keyOf h.p.dltn).st = .swapped → s.rim.mailbox = [] → s.Settled →
      (heapLines ws.length ≤ s.rim.mboxl → ∃ t, exec (.mailboxWrite h.id) s = .next t ∧
        t.rim.mailbox = [⟨List.range (heapLines ws.length), h.p⟩] ∧ t.core = s.core ∧
        t.tile.hold = s.tile.hold.filter fun x => x.id != h.id) ∧
      (s.rim.mboxl < heapLines ws.length → exec (.mailboxWrite h.id) s = .next (s.after 256 (.mailboxWrite h.id))))

/-- 13 R313. Consolidation of records whose sums all stay in the range of DIFF keeps what they say: for every KEY, VAL and TIME the
sum of DIFF is what it was; no DIFF is zero; and the records stand in strictly ascending order. -/
def Obligations.ConsolidationKeepsSums : Prop :=
  ∀ (l m : List Delta), consolidate l = (m, 0) →
    (∀ r : Delta, runSum (m.filter (sameDelta r)) = runSum (l.filter (sameDelta r))) ∧ (∀ r ∈ m, r.diff ≠ 0) ∧
    m.Pairwise fun x y => deltaLe x y = true ∧ sameDelta x y = false

/-- 13 R317, R318, R320, R322, R327, R328, R336. The heads of the delta queues and of the frontier complete for a strand that does
not speculate. `DQPUSH` hands over its lines to be read when no record whose DIFF is not zero lies below the strand's hold, and what has
been read of them goes out; `DQPOP` with b = 0 retires the taken set and delivers the queue's status, and otherwise takes records of the queue
as its ring holds it, which its area holds before zeros; `FRONTADV` moves an OPEN clock on
or closes it; `FRONTRD` delivers the known frontier, a clock or the hold; `DQWAITF` delivers a known frontier above a. -/
def Obligations.DeltaQueueResults : Prop :=
  ∀ (s : State) (d a b : Reg) (la q : BitVec 4) (nb : Bool) (n : BitVec 6) (p : BitVec 5), s.isSpeculative = false →
    let x := s.regW a.toNat
    let limit := (s.regW b.toNat).toNat
    let retired (u : State) : State := u.modMe fun y => { y with taken := [] }
    (s.Issues [(Opd.src a).noPort, (Opd.src b).noPort] → ∀ l c e off, s.destWord x 4 = some (l, c, e) → s.MaySend l (n.toNat / 16 + 1) →
      s.checkLocal (s.regW b.toNat) (32 * (n.toNat + 1)) 32 = .here off → s.payloadHeld off (32 * (n.toNat + 1)) = false →
      let records := ((List.range (n.toNat + 1)).map fun i => deltaOf (natAt s.mem (s.key off + 32 * i) 32)
        (SMap.find ((s.key off + 32 * i) / 64) s.poison).isSome).filter fun r => r.diff != 0
      (∀ r ∈ records, (s.holdOf s.issue.slot).toNat ≤ r.time.toNat) →
      exec (.dqpush a b n) s = .next (s.modMe fun y => { y with
        pushes := y.pushes ++ [⟨l, c, e, n.toNat / 16 + 1, s.holdOf s.issue.slot, leastWord (records.map (·.time)), s.issue.info, []⟩]
        payload := y.payload ++ readLines off (4 * (n.toNat + 1)) none })) ∧
    (∀ (i : Fin 16) (h : Push) (hs : List Push), (s.slot i).pushes = h :: hs →
      let records := h.records.filter fun r => r.diff != 0
      records ≠ [] → records.length ≤ 16 → (∀ r ∈ records, h.held.toNat ≤ r.time.toNat) → (s.keyOf h.ltn).st ≠ .exited →
      ((s.finishPush i).slot i).pushes = hs ∧ ∃ z ∈ (s.finishPush i).tile.hold, z.p.body = .delta (.ofNat 4 h.q) records ∧
        z.p.dltn = h.ltn ∧ z.p.dcore = h.core ∧ z.strand = (s.slot i).strand) ∧
    (s.Issues [(Opd.dst d).noPort, (Opd.src a).noPort, (Opd.src b).noPort] → ∀ queue u, s.seenQueue q.toFin = (queue, u) →
      queue.valid = true → s.me.windows.length < 4 →
      let r := retired u
      (limit = 0 → exec (.dqpop d a b la nb q) s = .next (r.longResult la 8 [.reg d (w64 (queue.cp.toNat * 2 ^ 62
        + queue.untaken.length * 2 ^ 32 + r.takenOf q.toFin * 2 ^ 16
        + (2 ^ queue.log2cap - queue.untaken.length - r.takenOf q.toFin)))])) ∧
      (1 ≤ limit → limit ≤ 64 → ∀ off, s.checkLocal x (32 * limit) 32 = .here off →
        (queue.untaken = [] → nb = true → exec (.dqpop d a b la nb q) s = .next (r.longResult la 8 [.reg d 0])) ∧
        (let t := min limit queue.untaken.length
         let taken := queue.untaken.take t
         queue.untaken ≠ [] → s.bankCheck queue.base.toNat 1 = none → (∀ z ∈ taken, z.poison = false) → queue.cp.getLsbD 1 = false →
          let left := r.keepQueue q.toFin { queue with
            untaken := queue.untaken.drop t, head := (queue.head + t) % 2 ^ queue.log2cap }
          let area := Engine.putRecords (Engine.on left) off limit taken
          let e := { area with trace := area.trace ++ ((List.range t).map fun i => (r.ringKey queue i % 2 ^ 22, true)).reverse }
          exec (.dqpop d a b la nb q) s = .next (((area.s.modMe fun y =>
              { y with taken := taken.map fun z => (q.toFin, z) }).engineStarts u e (8 + 2 * t) []).longResult la (8 + 2 * t)
                [.reg d (w64 ((if limit < queue.untaken.length then 2 ^ 63 else 0) + t * 2 ^ 16 + t))])))) ∧
    (s.Issues [(Opd.src a).noPort] → p.toNat ≤ 7 →
      let clock := s.tile.clocks[Fin.ofNat 8 p.toNat]
      let now (v : Option Word) : State := { s with tile := { s.tile with clocks := s.tile.clocks.set (Fin.ofNat 8 p.toNat) v } }
      (clock = none → exec (.frontadv a p) s = .next s) ∧
      (∀ c, clock = some c → (x = BitVec.allOnes 64 → exec (.frontadv a p) s = .next (now none)) ∧
        (x ≠ BitVec.allOnes 64 → exec (.frontadv a p) s = .next (now (some (if c.toNat < x.toNat then x else c)))))) ∧
    (s.Issues [(Opd.dst d).noPort] → p.toNat ≤ 9 →
      exec (.frontrd d p) s = .next (s.setW s.issue.slot d.toNat (if p.toNat = 0 then s.tile.known
        else if p.toNat = 9 then s.holdOf s.issue.slot
        else (s.tile.clocks[Fin.ofNat 8 (p.toNat - 1)]).getD (BitVec.allOnes 64)))) ∧
    (s.Issues [(Opd.dst d).noPort, (Opd.src a).noPort] → s.me.task = none → x.toNat < s.tile.known.toNat →
      exec (.dqwaitf d a) s = .next ((retired s).setW s.issue.slot d.toNat s.tile.known))

/-- 13 R325, R326, R329, R331 to R335. The arrangement heads and `DQCONS` complete for a strand that does not speculate, with fewer than
four windows, on an arrangement whose header passes the checks, when their engine meets no poisoned line and no corrupted chain: the
engine does its work and the window that opens brings RIX, d and the flags. Where a record is in the way, the window brings its trap. -/
def Obligations.ArrangementResults : Prop :=
  ∀ (s : State) (d a b c : Reg) (n : Byte) (vs : BitVec 2) (byKey : Bool) (off : Nat), s.isSpeculative = false →
    s.me.windows.length < 4 →
    let count := n.toNat + 1
    let x := s.regW b.toNat
    let out := s.regW d.toNat
    let w := (s.regW c.toNat).toNat
    (s.Issues [(Opd.dst d).noPort, (Opd.src a).noPort, (Opd.src b).noPort] → 1 ≤ x.toNat → x.toNat ≤ 2048 →
      s.checkLocal (s.regW a.toNat) (32 * x.toNat) 32 = .here off →
      ∀ rs e, Engine.records (Engine.on s) off x.toNat = (rs, e) → e.bad = false → (consolidate rs).2 = 0 →
        let kept := (consolidate rs).1
        exec (.dqcons d a b) s = .next (s.engineEnds (e.putRecords off x.toNat kept) (12 + x.toNat * (log2Up x.toNat + 2)) []
          [.reg d (w64 kept.length)] none)) ∧
    (∀ h e, s.Arranged (s.regW a.toNat) h e → e.bad = false →
      let spans : List (Nat × Nat) := [(s.key h.off, 64 + 4 * 2 ^ h.log2nb), (s.key h.pool, 32 * h.pcap)]
      (s.Issues [(Opd.src a).noPort, (Opd.src b).noPort] →
        (s.checkLocal x (32 * count) 32 = .here off → ∀ f i t, e.applyAll h off (count - swRIX s.rdSw) (swRIX s.rdSw) = (f, i, t) →
          f.corrupt = false →
          exec (.arupd a b n) s = .next (s.engineEnds f (8 + 6 * count + 2 * f.seen) spans [rixWrite (if t = none then 0 else i)] t)) ∧
        (x.toNat ≤ s.tile.known.toNat → x.toNat ≤ h.since.toNat →
          exec (.arcompact a b) s = .next (s.engineEnds e (8 + 4 * h.hwm + 2 ^ h.log2nb) spans [] none)) ∧
        (x.toNat ≤ s.tile.known.toNat → h.since.toNat < x.toNat → ∀ all f, e.chains h (2 ^ h.log2nb) 0 = (all, f) → f.bad = false →
          f.corrupt = false → (∀ chain ∈ all, ∀ r ∈ entryRuns x chain, diffOverflows (entrySum r) = false) →
          ∀ h' g, f.putChains h (all.map (entryRuns x)) 0 = (h', g) →
          exec (.arcompact a b) s = .next (s.engineEnds (((g.putCounts h').write (h'.off + 32) 8 x.toNat).putCursor h' 0 0)
            (8 + 4 * h.hwm + 2 ^ h.log2nb) spans [] none))) ∧
      (s.Issues [(Opd.acc d).noPort, (Opd.src a).noPort, (Opd.src b).noPort, (Opd.third c).noPort] →
        (let m := bits w 7 0
         let limit := bits w 31 16
         vs ≠ 3 → m ≠ 0 → limit ≠ 0 → limit ≤ 4095 → bits w 15 8 = 0 → bits w 63 32 = 0 → s.checkLocal x (32 * m) 32 = .here off →
          ∀ dst, s.checkLocal out (32 * limit) 32 = .here dst →
          let j := e.joinAll h off dst limit vs.toNat (m - swRIX s.rdSw) (swRIX s.rdSw) 0
          j.trap = none → j.e.corrupt = false → exec (.arjoin d a b c vs) s = .next (s.engineEnds j.e (8 + 6 * m + 2 * j.e.seen + j.o) spans
            [rixWrite (if j.done then 0 else j.i), .reg d (out + w64 (32 * j.o)), .swSet 0xF (if j.done then 2 else 0)] none)) ∧
        (w ≠ 0 → w ≤ 4095 → s.checkLocal out (32 * w) 32 = .here off →
          ∀ found f y, e.scan h byKey x (w + 1) = (found, f, y) → (∀ z ∈ found.take w, z.2.bad = false) → f.corrupt = false →
          let now := (found.take w).map fun z => (⟨z.2.key, z.2.val, z.2.time, 0, z.2.diff, false⟩ : Delta)
          let g := f.putRecords off now.length now
          let writes (v : Word) : List WinWrite := [.reg d (out + w64 (32 * now.length)), .swSet 0xF v]
          (found.length ≤ w → exec (.arscan d a b c byKey) s
            = .next (s.engineEnds (g.putCursor h 0 0) (8 + 2 * f.seen + y) spans (writes 2) none)) ∧
          (∀ z more, found.drop w = z :: more → exec (.arscan d a b c byKey) s
            = .next (s.engineEnds (g.putCursor h z.1 z.2.idx) (8 + 2 * f.seen + y) spans (writes 0) none)))))

/-- 09 R238; 13 R318, R319, R324, R336. The delta events complete. A packet of the expected SEQ whose queue is declared and has room gives
it the records, QID in their tags, at the end of the cycle; a packet for a queue not declared leaves the queues; the known frontier
rises to an update above it and never falls, and a strand that waits for less is READY in the next cycle. That the least of what the core
and its tile hold and of what comes from outside is the frontier is the model's choice (log entry 6).
The cycle in which an event falls due is the model's choice (log entry 7). -/
def Obligations.DeltaEvents : Prop :=
  ∀ (s : State),
    (∀ (p : Packet) (q : BitVec 4) (rs : List Delta), p.body = .delta q rs → p.seq = SMap.getD s.tile.expMsg p.sltn 0 →
      let queue := s.core.dq[q.toFin]
      (queue.valid = false → ∃ t, exec (.deltaPacketAccept p) s = .next t ∧ t.core = s.core ∧
        t.tile.expMsg = SMap.put p.sltn (p.seq + 1) s.tile.expMsg) ∧
      let held := queue.untaken.length + (s.landingRecords q.toFin).length + s.takenOf q.toFin + rs.length
      (queue.valid = true → held ≤ 2 ^ queue.log2cap →
        ∃ t, exec (.deltaPacketAccept p) s = .next t ∧ t.tile.expMsg = SMap.put p.sltn (p.seq + 1) s.tile.expMsg ∧
          t.core = { s.core with landing := s.core.landing ++ [.records q.toFin (rs.map fun r =>
            { r with tag := (r.tag &&& 0x00FF0000) ||| queue.qid.setWidth 32 })] }) ∧
      (queue.cp.getLsbD 0 = false →
        ((s.landOne (.records q.toFin rs)).core.dq[q.toFin]).untaken = (s.seenQueue q.toFin).1.untaken ++ rs) ∧
      (queue.valid = true → 2 ^ queue.log2cap < held →
        ∃ t, exec (.deltaPacketAccept p) s = .next t ∧ t.core = s.core ∧ t.tile.expMsg = s.tile.expMsg ∧
          p.sltn ∈ t.tile.blocked)) ∧
    (∀ w : Word, ∃ t, exec (.knownFrontierUpdate w) s = .next t ∧
      t.tile.known = (if s.tile.known.toNat < w.toNat then w else s.tile.known) ∧
      ∀ i u d, (s.slot i).st = .sleep → (s.slot i).wait = some (.frontier u d) → u.toNat < t.tile.known.toNat →
        s.Settled → (t.slot i).st = .sleep ∧ (t.slot i).wait = some (.cycle (s.tile.cycle + 1))) ∧
    ∃ t, exec .frontierChange s = .next t ∧ t.core = s.core ∧ t.mem = s.mem ∧
      (s.tile.known.toNat < s.localFrontier.toNat →
        (s.tile.cycle + 300, Instr.knownFrontierUpdate s.localFrontier) ∈ t.agenda)

/-- 16 R384, R385, R391. The park heads complete in privileged mode. `PARK` and `UNPARK` of another slot of the own core put their
request among those to be served, those of another core send it, and the strand sleeps for the answer; `WPSET` of a PARKED slot,
to a workspace whose banks are ACTIVE, gives it the new workspace and the strand sleeps while it is loaded.
The cycle in which an event falls due is the model's choice (log entry 7). -/
def Obligations.ParkHeadResults : Prop :=
  ∀ (s : State) (d a : Reg) (n : BitVec 4), s.me.priv = true → s.Issues [(Opd.dst d).noPort, (Opd.src a).noPort] →
    let x := s.regW a.toNat
    let ask (unpark : Bool) : ParkReq := ⟨s.core.ltn, s.core.num, s.issue.slot, d, n.toFin, unpark, 0, s.me.strand⟩
    let here (unpark : Bool) : State := ((({ s with core := { s.core with
      parkReqs := s.core.parkReqs ++ [(ask unpark, false)] } } : State).after 1 (.parkRequestServe (ask unpark))).await .answer)
    (s.isSpeculative = false →
      (s.coreOf x = some (s.core.ltn, s.core.num) → n.toFin ≠ s.issue.slot →
        exec (.park d a n) s = .next (here false) ∧ exec (.unpark d a n) s = .next (here true)) ∧
      (∀ l c, s.coreOf x = some (l, c) → (l, c) ≠ (s.core.ltn, s.core.num) → 0 < s.holdFree →
        exec (.park d a n) s = .next ((s.sendPacket l c (.park (ask false)) s.me.strand).await .answer) ∧
        exec (.unpark d a n) s = .next ((s.sendPacket l c (.park (ask true)) s.me.strand).await .answer))) ∧
    ((s.slot n.toFin).st = .parked → n.toFin ≠ s.issue.slot → s.wpValid x.toNat = true → s.bankCheck x.toNat 768 = none →
      exec (.wpset d a n) s = .next ((((s.claim x.toNat 768).modSlot n.toFin fun y => { y with wp := .ofNat 22 x.toNat }).await
        (.switch n.toFin d ((s.slot n.toFin).wp.setWidth 64))).after 40 (.wpsetSwitchDone n.toFin)))

/-- 17 R398, R402, R405, R406, R408. The heads that change translation, keys and poison complete. `RTSET` writes an image that is
acceptable into the stand's table and `TLBINV` names leaves, and every tile follows within the bound of `.W`; `PGATTR` delivers the
old attributes and begins a conversion; `KEYSEL` installs, erases or reports the stand's key; `POISONQ` reads the poison of a line, or
clears the line.
The cycle in which an event falls due is the model's choice (log entry 7). Key unwrap is any function (log entry 9). -/
def Obligations.PageHeadResults : Prop :=
  ∀ (s r : State) (d a b : Reg) (n mask : BitVec 6) (x : Word) (off : Nat), s.readW a = (x, r) → s.isSpeculative = false →
    let ea := s.regW a.toNat
    (s.me.priv = true →
      (s.Issues [(Opd.src a).noPort] →
        (s.LocalRead ea 32 32 off →
          let image : BitVec 256 := .ofNat 256 (natAt s.rdMem (s.key off) 32)
          rangeOk image = true → exec (.rtset a n) s = .next (((s.served off true).modStand fun t =>
            { t with ranges := SMap.set 0 n.toNat image t.ranges }).viaClass0 (.rtsetApply n image))) ∧
        (s.inPair ea.toNat = false → exec (.tlbinvAddr a) s = .next (s.viaClass0 (.tlbinvApply false ea.toNat))) ∧
        (ea = 0 → (s.rim.pairs.any fun p => p.stand == s.standNo) = false → exec (.tlbinvAll a) s = .next (s.viaClass0 (.tlbinvApply true 0)))) ∧
      (s.Issues [(Opd.dst d).noPort, (Opd.src a).noPort, (Opd.src b).noPort] → ea.toNat < 2 ^ 57 → s.me.windows.length < 4 →
        s.rim.convert = none → rangeHit s.tile.ranges ea.toNat = none →
        ∀ t leaf, s.stand = some t → t.ptroot.getLsbD 63 = true → s.walkGranted t ea.toNat = .ok leaf →
        let want := s.regW b.toNat
        let new := (leaf.attrs &&& ~~~attrMask mask) ||| (want &&& attrMask mask)
        (mask.getLsbD 0 = true → want.toNat / 2 ^ 59 % 4 ≠ 3) → (new.getLsbD 53 = true → new.getLsbD 56 = true) →
        (mask.getLsbD 1 = true → new.getLsbD 57 = true → leaf.log2 = 12) →
        ∃ u, exec (.pgattr d a b mask) s = .next u ∧ u.mem = s.mem ∧ u.rim.convert = some ⟨s.issue.slot, s.core.nextTag,
            leaf.dpa / 2 ^ leaf.log2 * 2 ^ leaf.log2, leaf.leafAt.getD 0, leaf.attrs, new, leaf.log2⟩ ∧
          u.me.windows = s.me.windows ++ [⟨s.core.nextTag, 0, false, [.reg d (leaf.attrs &&& 0x1FE0000000000000)], .known, none,
            s.issue.info, none, false, none, none⟩] ∧
          (s.tile.cycle + 2 ^ leaf.log2 / 64, Instr.pgattrComplete s.issue.slot) ∈ u.agenda) ∧
      (s.Issues [.dst d, .src a] → s.LocalRead x 72 8 off →
        let read : State := { s.served off true with core := { (s.served off true).core with mq := r.core.mq } }
        let bytes := bytesAt s.rdMem (s.key off) 72
        (Config.keyUnwrap bytes = none → exec (.keyselLoad d a) s = .next (keyAnswered read d 1)) ∧
        (∀ k, Config.keyUnwrap bytes = some k → (SMap.find s.keySlot s.rim.keys).isSome = true →
          exec (.keyselLoad d a) s = .next (keyAnswered read d 2)) ∧
        (∀ k, Config.keyUnwrap bytes = some k → SMap.find s.keySlot s.rim.keys = none → exec (.keyselLoad d a) s
          = .next (keyAnswered { read with rim := { read.rim with keys := SMap.put s.keySlot k s.rim.keys } } d 0))) ∧
      (s.Issues [.dst d] →
        exec (.keyselStatus d) s = .next (s.keyAnswered d 0) ∧
        (s.encOutstanding = false → exec (.keyselErase d) s
          = .next (keyAnswered { s with rim := { s.rim with keys := SMap.erase s.keySlot s.rim.keys } } d 0)))) ∧
    (s.Issues [.dst d, .src a] →
      let line := s.key off / 64
      let flag (l : Nat) : Word := if (SMap.find l s.poison).isSome = true then 0x8000000000000000 else 0
      (∀ c, s.addrForm (x &&& ~~~63) = some (s.core.ltn, s.core.num, c) →
        (s.OwnAccess (x &&& ~~~63) 64 64 off true →
          exec (.poisonqReadLocal d a) s = .next ((r.served off true).writeW d (flag line))) ∧
        (s.OwnAccess (x &&& ~~~63) 64 64 off false → exec (.poisonqClearLocal d a) s
          = .next (((((r.served off false).write (some s.issue.slot) (s.key off) (List.replicate 64 0)).writeMeta line 0).writeW d
              (flag line))))) ∧
      (s.me.windows.length < 4 → x.toNat < 2 ^ 57 →
        let va := x.toNat / 64 * 64
        let w := r.walked va
        (∀ p, w.translate va false = .ok p → exec (.poisonqReadDevice d a) s
          = .next (w.longResult 0 300 [.reg d (flag (s.route p.dpa / 64))])) ∧
        (∀ p, w.translate va true = .ok p → s.MemoryCanonical → ∃ u : State, exec (.poisonqClearDevice d a) s = .next (u.longResult 0 300
            [.reg d (flag (s.route p.dpa / 64))]) ∧ bytesAt u.mem (s.route p.dpa) 64 = List.replicate 64 0) ∧
        (∀ e, w.translate va false = .error e → exec (.poisonqReadDevice d a) s = .next (w.longResult 0 300 [.reg d (w64 e)]))))

/-- 16 R372; 18 R421, R424; 19 R432, R453 to R456; 21 R491, R500. The heads of notches, stands, collectives and job checkpoints complete:
`NOTCH` asks for an early notch where the stand takes notches, `NOTCHRD` delivers the position in the interval, the way to the
next notch and the notch number, `CKEXCL` sets or removes an exclusion range, `WDPET` exempts the next wait, `BOOST` sets the core's
request, `STANDCFG` defines a stand, `COLLECTIVE_START` hands a descriptor to the engine, `JCKPT_WRITE` asks for a job checkpoint.
The cycle in which an event falls due is the model's choice (log entry 7). -/
def Obligations.ServiceHeadResults : Prop :=
  ∀ (s r : State) (d a b : Reg) (n : BitVec 6) (lvl k : BitVec 2) (m : BitVec 16) (x : Word) (off : Nat), s.isSpeculative = false →
    let ea := s.regW a.toNat
    (s.Issues [] →
      (s.ckp = 2 → exec .notch s = .next s) ∧
      (s.ckp ≠ 2 → exec .notch s = .next ((s.modNotch fun y => { y with asked := true }).after 1 .earlyNotch)) ∧
      exec .wdpet s = .next (s.modMe fun y => { y with exempt := true }) ∧
      (lvl ≠ 3 → exec (.boost lvl) s = .next { s with core := { s.core with boost := lvl } })) ∧
    (s.Issues [(Opd.dst d).noPort] →
      exec (.notchrd d 1) s = .next (s.setW s.issue.slot d.toNat (w64 (s.tile.cycle - s.tile.notch.opened))) ∧
      exec (.notchrd d 2) s = .next (s.setW s.issue.slot d.toNat (w64 (s.toNotch s.tile.cycle))) ∧
      exec (.notchrd d 3) s = .next (s.setW s.issue.slot d.toNat (w64 s.tile.notch.nnum))) ∧
    (s.Issues [(Opd.src a).noPort] → ea.toNat % 64 = 0 →
      (∃ t, exec (.ckexcl a k 0) s = .next t ∧ ∀ y, t.core.excl.lookup k.toNat = some y → y.removed = true) ∧
      (m ≠ 0 → s.addrFails ea (64 * m.toNat) 1 true = none →
        (∀ g ∈ s.guarded, overlap g (bits ea.toNat 21 0, 64 * m.toNat) = false) → exec (.ckexcl a k m) s = .next { s with core :=
          { s.core with excl := SMap.put k.toNat ⟨bits ea.toNat 21 0, m.toNat, false⟩ s.core.excl } })) ∧
    (s.Issues [(Opd.src a).noPort, (Opd.src b).noPort] → s.me.priv = true → ∀ t, s.stand = some t → t.standdel.getLsbD n.toNat = true →
      let y := s.regW b.toNat
      (y.getLsbD 63 = true → t.keydel.getLsbD (bits y.toNat 53 48) = true ∧ (s.rectOperand ea).isSome = true) →
      ea.toNat < 2 ^ 32 → y.toNat / 2 ^ 62 % 2 = 0 → y.toNat / 2 ^ 54 % 16 = 0 → y.toNat / 2 ^ 16 % 2 ^ 32 = 0 →
      y.toNat / 2 ^ 58 % 4 ≠ 3 → n.toNat ≠ s.standNo → (∀ l ∈ s.rim.launches, l.stand ≠ n.toNat) →
      ∃ u, exec (.standcfg a b n) s = .next u ∧ u.mem = s.mem ∧ u.core = s.core ∧ u.rim.stands = SMap.put n.toNat
        { (s.standAt n.toNat).getD emptyStand with a := ea, b := y, ranges := [] } s.rim.stands) ∧
    (s.Issues [.src a] → s.readW a = (x, r) →
      (x.toNat < 2 ^ 22 → s.LocalRead x 64 64 off → s.core.collOut < 4 →
        let w (i : Nat) : Nat := natAt s.rdMem (s.key off + 8 * i) 8
        let pod := (s.ofStand fun t => w64 t.pod.length).toNat
        w 0 % 2 ^ 56 = 0 → w 0 / 2 ^ 60 ≤ 2 → w 2 / 2 ^ 32 = 0 → w 5 = 0 → w 6 = 0 → w 7 = 0 → pod ≠ 0 → w 2 ≠ 0 →
        w 2 % (32 * pod) = 0 → s.rim.collectives = [] →
        ∃ t, exec (.collectiveStart a) s = .next t ∧ t.core.collOrd = s.core.collOrd + 1 ∧ t.core.collOut = s.core.collOut + 1 ∧
          t.mem = s.mem ∧ t.rim.collectives = [⟨s.core.ltn, s.core.num, s.issue.slot.val, s.me.strand, s.core.collOrd, s.standNo,
            w 0 / 2 ^ 60, .ofNat 4 (w 0 / 2 ^ 56 % 16), w 1, w 2, w64 (w 3), w 4, 0, 0, 0, 0, [], false, some s.core.nextEntry⟩]) ∧
      (∀ t, s.stand = some t →
        (t.jstat.toNat / 2 ^ 62 = 1 → exec (.jckptWrite a) s = .next (r.modStand fun y => { y with jckpt := x })) ∧
        (t.jstat.toNat / 2 ^ 62 ≠ 1 → ∃ u, exec (.jckptWrite a) s = .next u ∧ u.rim.jobs = s.rim.jobs ++ [(x, none)] ∧
          u.stand = some { t with jckpt := x, jstat := 0x4000000000000000 })))

/-- 02 R54; 16 R385 to R391; 17 R398, R402, R405, R409. The events of parking and of pages complete. A request served in a cycle parks a strand at
its boundary and brings a parked one back; the switch of a workspace ends; a parked strand is spilled when its slot is needed, and an
unparked context comes back as an arrival; a tile takes a seed half, replaces its range table and drops leaves; a conversion ends; and the tiering
engine exchanges lines in order. That a conversion or a swap happens line by line or at once is the model's choice (log entry 16). -/
def Obligations.ParkAndPageEvents : Prop :=
  ∀ (s : State) (i : Fin 16),
    (∀ (q : ParkReq), s.core.parkReqs = [(q, true)] → s.core.parks ≠ s.tile.cycle + 1 → q.slot = i → (s.slot i).parkAsked = [] →
      s.ownAsk q = false →
      (q.unpark = false → (s.slot i).st = .sleep → s.speculative i = none →
        ∃ t, exec (.parkRequestServe q) s = .next t ∧ (t.slot i).st = .parked ∧ (t.slot i).before = .sleep ∧
          (t.slot i).wait = (s.slot i).wait ∧ t.core.parkReqs = []) ∧
      (q.unpark = true → (s.slot i).st = .parked → s.switching i = false →
        ∃ t, exec (.parkRequestServe q) s = .next t ∧ (t.slot i).st = (s.slot i).before ∧ (t.slot i).pc = (s.slot i).pc ∧
          t.core.parkReqs = [])) ∧
    (∀ (j : Fin 16) (d : Reg) (old : Word), j ≠ i → (s.slot j).st = .sleep → (s.slot j).wait = some (.switch i d old) →
      s.switching j = false → (∀ k, k ≠ j → (s.slot k).strand ≠ (s.slot j).strand) → (∀ k < j, ∀ e w, (s.slot k).wait ≠ some (.switch i e w)) →
      (s.slot i).parkAsked = [] → s.core.spilled = [] → s.Settled → s.MemoryCanonical →
      ∃ t, exec (.wpsetSwitchDone i) s = .next t ∧ (t.slot j).st = .sleep ∧ (t.slot j).wait = some (.cycle (s.tile.cycle + 1)) ∧
        natAt t.mem (s.wKey j d.toNat) 8 = old.toNat) ∧
    (s.spillChoice = some i → ∃ t, exec (.spill i) s = .next t ∧ (t.slot i).st = .empty ∧ t.core.nextSpill = s.core.nextSpill + 1 ∧
      ∃ c, SMap.find s.core.nextSpill t.core.spilled = some c ∧ c.from_ = i ∧ c.slot.pc = (s.slot i).pc ∧ c.slot.sw = (s.slot i).sw) ∧
    (∀ n c, s.core.spilled = [(n, c)] → c.from_ = i → c.wanted = true → s.core.arrivals = [] →
      ∃ t, exec (.reload i) s = .next t ∧ t.core.arrivals
        = [⟨c.slot.pc, c.slot.priv, c.slot.sw, [], false, none, none, some n, s.core.ltn, s.core.num, i.val, 0⟩]) ∧
    (∀ v : Word, (∃ t, exec (.seedUpdateArrival false v) s = .next t ∧ t.core = { s.core with sseed0 := v } ∧ t.mem = s.mem) ∧
      ∃ t, exec (.seedUpdateArrival true v) s = .next t ∧ t.core = { s.core with sseed1 := v } ∧ t.mem = s.mem) ∧
    (∀ (n : BitVec 6) (e : BitVec 256), ∃ t, exec (.rtsetApply n e) s = .next t ∧ t.tile.tlb = [] ∧
      t.tile.ranges = SMap.set 0 n.toNat e s.tile.ranges ∧ t.core = s.core ∧ t.mem = s.mem) ∧
    (∀ (everything : Bool) (va : Nat) (t : Stand), s.stand = some t → ∃ u, exec (.tlbinvApply everything va) s = .next u ∧
      u.tile.tlb = (s.dropLeaves (asidOf t) (if everything then none else some va)).tile.tlb ∧ u.core = s.core ∧ u.mem = s.mem) ∧
    (∀ c : Convert, s.rim.convert = some c → c.slot = i → s.pairHolds c.leaf = false →
      ∃ t, exec (.pgattrComplete i) s = .next t ∧ t.rim.convert = none ∧ ∀ l ∈ t.tile.tlb, l.entryAt ≠ c.leaf) ∧
    (s.stand = none → exec .tierEpochEnd s = .next s) ∧
    (∀ t, s.stand = some t → t.tierctl.getLsbD 63 = true → ∃ u, exec .tierEpochEnd s = .next u ∧ u.rim.hot = [] ∧ u.mem = s.mem) ∧
    (∀ p : SwapPair, s.rim.pairs = [p] →
      (p.next < 64 → p.farFrame % 4096 = 0 → p.nearFrame % 4096 = 0 → p.farFrame ≠ p.nearFrame → s.MemoryCanonical →
        ∃ t, exec (.tierCopyLine p.id) s = .next t ∧ t.rim.pairs = [{ p with next := p.next + 1 }] ∧
          bytesAt t.mem (p.farFrame + 64 * p.next) 64 = bytesAt s.mem (p.nearFrame + 64 * p.next) 64 ∧
          bytesAt t.mem (p.nearFrame + 64 * p.next) 64 = bytesAt s.mem (p.farFrame + 64 * p.next) 64) ∧
      (p.next = 64 → ∃ t, exec (.tierSwitch p.id) s = .next t ∧ t.rim.pairs = [] ∧
        ∀ l ∈ t.tile.tlb, l.entryAt ≠ p.farLeaf ∧ l.entryAt ≠ p.nearLeaf))

/-- 19 R431, R433, R439 to R443, R450, R451. The events of the notch machine complete: a point of the schedule begins a capture in RUN and makes the
next one wait for the copy; the capture closes the log and freezes the dirty map; each line is copied in order; the commit makes it the
recovery point; its entries fold into the base image in order; a rebase takes the whole image; the watchdogs end a launch or fail the tile.
The cycle in which an event falls due is the model's choice (log entry 7). -/
def Obligations.NotchEvents : Prop :=
  ∀ (s : State) (i : Fin 16),
    let n := s.tile.notch
    (∀ e, (e = Instr.notchPoint ∨ (e = Instr.earlyNotch ∧ (s.nearlyFull = true ∨ (n.asked = true ∧ n.st = .run)))) →
      s.takesNotches = true →
      (n.st = .run → n.folding = [] → ∃ t, exec e s = .next t ∧ t.tile.frozen = true ∧ t.tile.notch.st = .capture) ∧
      (n.st = .run → n.folding ≠ [] → ∃ t, exec e s = .next t ∧ t.tile.frozen = true ∧ t.tile.notch.st = .waitFold) ∧
      (n.st = .copy → ∃ t, exec e s = .next t ∧ t.tile.frozen = true ∧ t.tile.notch.st = .waitCopy)) ∧
    (s.takesNotches = false → exec .notchPoint s = .next s ∧ exec .earlyNotch s = .next s ∧ exec .rebase s = .next s) ∧
    (n.st = .capture → s.core.excl = [] → ∃ t, exec .notchCapture s = .next t ∧ t.tile.frozen = false ∧ t.tile.notch.st = .copy ∧
      t.tile.notch.half = !n.half ∧ t.tile.notch.frozenMap = n.dirty.map (·.1) ∧ t.tile.notch.dirty = [] ∧ t.tile.notch.log = [] ∧
      t.tile.notch.nnum = n.nnum + 1 ∧ t.tile.notch.opened = s.tile.cycle ∧ t.mem = s.mem) ∧
    (n.st = .copy → ∀ l ls, n.frozenMap = l :: ls → ∃ t, exec .notchCopyLine s = .next t ∧ t.tile.notch.frozenMap = ls ∧
      t.tile.notch.delta = n.delta ++ [s.lineImage l] ∧ t.mem = s.mem) ∧
    (n.st = .copy → n.frozenMap = [] → (∃ t, exec .notchCopyLine s = .next t ∧ (s.clk + 46, Instr.notchCommit) ∈ t.clkAgenda) ∧
      ∃ t, exec .notchCommit s = .next t ∧ t.recovery = s.captured ∧ t.tile.notch.st = .run ∧ t.tile.notch.folding = n.delta ∧
        t.tile.notch.cnum = n.cnum + 1 ∧ t.tile.notch.prevLog = []) ∧
    (∀ e es b, n.folding = e :: es → s.base = some b →
      ∃ t, exec .shadowFold s = .next t ∧ t.base = some (foldEntry b e) ∧ t.tile.notch.folding = es) ∧
    (s.takesNotches = true → s.rim.recovery = none → ∃ t, exec .rebase s = .next t ∧ t.base = some t.imageOf ∧
      t.tile.notch.st = .run ∧ t.tile.notch.dirty = [] ∧ t.tile.notch.log = [] ∧ t.tile.notch.half = false ∧ t.mem = s.mem) ∧
    (s.waitedOut i = true → exec (.waitExpired i) s
      = .next (s.afterClk 0 (.launchEnd ⟨.ofNat 64 s.standNo, some ⟨0x140, s.waitHead i, s.core.ltn, s.core.num, i.val⟩⟩))) ∧
    (2 ^ s.tile.wdl.toNat ≤ s.tile.progress → exec .tileWatchdog s
      = .next (s.afterClk 0 (.tileFault .watchdog s.core.num 0)))

/-- 16 R375, R377 to R383; 18 R413; 21 R499. The launch events complete. Whole 64-byte writes at the four offsets of a slot are kept,
and the fourth makes a record; the record's launch is refused with the first REASON that holds, or queued; a queued launch starts on
a free tile, whose entries are UNPLACED while the map is read, and is refused or runs; a launch ends with every strand, or in a
fault, and its entries become EXITED; a pre-empted tile is swapped out, and comes back. A change of STATE is written to STATUS.
Where a launch's status block lies and which launches concern the tile are the model's choices (log entry 34). -/
def Obligations.LaunchEvents : Prop :=
  ∀ (s : State) (slot n : Fin 64),
    (∀ (off len : Nat) (data : BitVec 512),
      (len = 64 → off % 64 = 0 → off < 256 → ∃ t, exec (.launchSlotWrite slot off len data) s = .next t ∧
        t.rim.launchSlots = SMap.put (4 * slot.val + off / 64) data s.rim.launchSlots ∧
        ((∀ k < 4, (SMap.find (4 * slot.val + k) t.rim.launchSlots).isSome = true) →
          (s.clk + 1, Instr.launchRecord slot) ∈ t.clkAgenda)) ∧
      (len ≠ 64 ∨ off % 64 ≠ 0 ∨ 256 ≤ off → exec (.launchSlotWrite slot off len data) s = .next s)) ∧
    (∀ parts : List (BitVec 512), parts.length = 4 → (∀ k < 4, SMap.find (4 * slot.val + k) s.rim.launchSlots = parts[k]?) →
      ∃ t l, exec (.launchRecord slot) s = .next t ∧ t.rim.launches = s.rim.launches ++ [l] ∧
        l.words = parts.flatMap (fun p => (List.range 8).map fun i => p.extractLsb' (64 * i) 64) ∧
        l.stand = (l.words.headD 0).toNat / 2 ^ 50 % 64 ∧
        ((l.words.headD 0).toNat / 2 ^ 56 ≠ 1 → l.st = .refused ∧ l.reason = 1) ∧
        ((l.words.headD 0).toNat / 2 ^ 56 = 1 → s.standAt l.stand = none → l.st = .refused ∧ l.reason = 2) ∧
        (l.st = .queued → (s.clk + 1, Instr.launchStart (.ofNat 64 l.stand)) ∈ t.clkAgenda) ∧
        (let a := (l.words.getD 15 0).toNat
         (s.rim.hbmcap < a + 64 → t.mem = s.mem) ∧
         (a + 64 ≤ s.rim.hbmcap → a % 64 = 0 → s.MemoryCanonical →
          bytesAt t.mem (s.route a) 64 = bytesOfWords (statusWords l)))) ∧
    (∀ (l : Launch) (t : Stand), s.waiting.find? (fun m => m.stand == n.val) = some l → s.standAt n.val = some t →
      inRect (s.rectOf n.val) s.core.ltn = true → s.core.ltn < s.rim.held → s.core.pg = [] →
      let unplaced : Prop := ∀ k < s.rim.held, inRect (s.rectOf n.val) k = true →
        (s.keyOf k).st = .unplaced ∧ (s.keyOf k).stand = n.val
      let refused (reason : Nat) : Prop := ∃ v, exec (.launchStart n) s = .next v ∧ v.core = s.core ∧
        v.rim.launches = s.rim.launches.map (fun m => if m == l then { m with st := .refused, reason := reason } else m) ∧
        (unplaced → ∀ k < s.rim.held, inRect (s.rectOf n.val) k = true → (v.keyOf k).st = .exited)
      (s.firstWaiting = some l → s.tileFree = true →
        (∀ reason u, s.loadLaunch t l = (.error reason, u) → s.rim.hbmcap < (l.words.getD 15 0).toNat + 64 → refused reason) ∧
        (∀ x u, s.loadLaunch t l = (.ok x, u) → ∃ v, exec (.launchStart n) s = .next v ∧ v.core = s.core ∧
          (s.clk + 475, Instr.launchStart n) ∈ v.clkAgenda ∧ v.rim.launches = s.rim.launches ∧
          ∀ k < s.rim.held, inRect (s.rectOf n.val) k = true → (v.keyOf k).st = .unplaced ∧ (v.keyOf k).stand = n.val)) ∧
      (unplaced → s.rim.hbmcap < (l.words.getD 15 0).toNat + 64 →
        (∀ reason u, s.loadLaunch t l = (.error reason, u) → refused reason) ∧
        (∀ x u, s.loadLaunch t l = (.ok x, u) → ∃ v, exec (.launchStart n) s = .next v ∧ v.tile.cycle = 0 ∧
          v.rim.visibleTop = recTop l ∧ v.core.sseed0 = l.words.getD 13 0 ∧ v.core.sseed1 = l.words.getD 14 0 ∧
          v.tile.niv = .ofNat 5 (recNiv l) ∧ v.tile.wdl = .ofNat 5 (recWdl l) ∧ v.base = some v.imageOf ∧ v.captured = none ∧
          (v.keyOf s.core.ltn).st = .bound ∧ (v.keyOf s.core.ltn).stand = n.val ∧
          v.rim.launches = s.rim.launches.map fun m => if m == l then { m with st := .running, startedAt := s.clk } else m))) ∧
    (∀ l, s.rim.launches.find? (fun m => m.stand == n.val && (m.st == .running || m.st == .swapped)) = some l →
      let ended (t : State) (st : LaunchState) (i : FaultInfo) : Prop :=
        (∃ c, t.rim.launches = s.rim.launches.map fun m => if m == l then { l with st := st, info := i, cyc := c } else m) ∧
        (∀ k < s.rim.held, inRect (s.rectOf n.val) k = true → (s.keyOf k).stand = n.val → (t.keyOf k).st = .exited) ∧
        (s.rim.hbmcap < (l.words.getD 15 0).toNat + 64 → t.mem = s.mem)
      (∀ i, ∃ t, exec (.launchEnd ⟨n, some i⟩) s = .next t ∧ ended t .fault i ∧
        (s.runningHere = some l → t.rim.preempt = none ∧ ∀ j, (t.slot j).st = .empty)) ∧
      (s.rim.swapped = [] → (s.runningHere = some l → s.tileTaken = true ∧ s.coreDone = true) →
        ∃ t, exec (.launchEnd ⟨n, none⟩) s = .next t ∧ ended t .done ⟨0, 0, 0, 0, 0⟩)) ∧
    (s.rim.preempt = some (n.val, []) → (∀ j, (s.slot j).st = .empty) → s.core.pg = [] → s.tile.frozen = false →
      ∃ t, exec .swapOut s = .next t ∧ t.rim.preempt = none ∧ (∀ j, (t.slot j).st = .empty) ∧
        (∀ l ∈ t.waiting, (s.clk + 1, Instr.launchStart (.ofNat 64 l.stand)) ∈ t.clkAgenda) ∧
        (s.core.ltn < s.rim.held → (t.keyOf s.core.ltn).st = .swapped) ∧
        t.rim.swapped = s.rim.swapped ++ [⟨s.standNo, [], { s.imageOf with mem := [] }, s.rim.sections, s.rim.mailbox⟩]) ∧
    (∀ x l t, s.rim.swapped = [x] → x.slots = [] → x.mailbox = [] → s.firstWaiting = none → s.tileFree = true → s.core.pg = [] →
      s.rim.launches.find? (fun m => m.stand == x.stand && m.st == .swapped) = some l → s.standAt x.stand = some t →
      s.rim.hbmcap < (l.words.getD 15 0).toNat + 64 → x.image.core.ltn = s.core.ltn → s.core.ltn < s.rim.held →
      ∃ u, exec .swapIn s = .next u ∧ u.core = x.image.core ∧ u.tile.cycle = x.image.tile.cycle ∧ u.rim.swapped = [] ∧
        u.rim.sections = x.sections ∧ (u.keyOf s.core.ltn).st = .bound ∧ u.base.map (·.core) = some x.image.core ∧
        u.rim.launches = s.rim.launches.map fun m => if m == l then { m with st := .running } else m) ∧
    ∃ t l, exec .boostInterval s = .next t ∧ t.rim.fields = boostRound s.rim.bmax l ∧ t.mem = s.mem ∧ t.core = s.core ∧
      l.map (·.1) = s.rim.fields.map (·.1) ∧ (s.clk + 19000, Instr.boostInterval) ∈ t.clkAgenda

/-- 16 R373; 17 R395; 18 R412, R414 to R420. The events of the host, the ports and the management service complete: the tables take what is
written to them, links and ports change state, and an access from outside that an aperture or an export admits writes its line, while one
that is refused is counted for the stand.
18 R421 to R425. The steps of a collective complete. A chunk that arrives in its order is summed or taken once; an acknowledgement
of the last step sent counts; a step without one is sent again while resends are left, and after the last of them the collective fails.
The cycle in which an event falls due is the model's choice (log entry 7). The packet tag's check is any function (log entry 9). -/
def Obligations.HostAndCollectiveEvents : Prop :=
  (∀ (s : State) (n : Fin 64) (p : Fin 32) (w0 w1 : Word) (hbm far : List (Nat × Nat)) (secret : BitVec 128) (members : List Nat)
    (rank addr src : Nat) (data : BitVec 512) (poison : Bool) (body : List Byte),
    let port := s.portAt p.val
    exec .hostLinkDown s = .next { s with rim := { s.rim with hostUp := false } } ∧
    (∀ w ∈ [16, 8, 4], exec (.hostLinkUp w) s = .next { s with rim := { s.rim with hostUp := true, hostWidth := w } }) ∧
    exec (.cxlSnoop addr) s = .next s ∧ exec (.linkRetry p) s = .next s ∧
    exec (.laneRetire p) s = .next (s.setPort p.val { port with lanes := 4 }) ∧
    exec (.portRekey p) s = .next (s.setPort p.val { port with epoch := port.epoch + 1, counter := 0 }) ∧
    exec (.scaleoutPortDown p) s = .next (s.setPort p.val { port with up := false }) ∧
    exec (.scaleoutPortUp p) s = .next (s.setPort p.val { port with up := true }) ∧
    (port.up = true → Config.gcmVerify (s.standOr n.val).secret p.val port.epoch port.counter body = true →
      exec (.scaleoutPacketReceive p n src body) s = .next (s.setPort p.val (if port.counter + 1 < 2 ^ 32
        then { port with counter := port.counter + 1 } else { port with epoch := port.epoch + 1, counter := 0 }))) ∧
    (port.up = true → Config.gcmVerify (s.standOr n.val).secret p.val port.epoch port.counter body = false → n.val = s.standNo →
      s.tileIndex = 0 → s.core.num = 0 → exec (.scaleoutPacketReceive p n src body) s = .next (s.bump 22)) ∧
    exec (.standGrantWrite n hbm far secret) s
      = .next (s.modStandAt n.val fun t => { t with hbm := hbm, far := far.take 8, secret := secret }) ∧
    exec (.hostApertureWrite n w0 w1) s = .next { s with rim := { s.rim with
      apertures := SMap.put n.val (w0 &&& 0xFFC003FFFFFFFFFF, w1 &&& 0x000003FFFFFFFFFF) s.rim.apertures } } ∧
    exec (.peerExportWrite n w0 w1) s = .next { s with rim := { s.rim with
      exports := SMap.put n.val (w0 &&& 0xE1FFFFFFFFFFFFFF, w1 &&& 0xFC000000003FFFFF) s.rim.exports } } ∧
    exec (.podConfigure n members rank) s = .next (s.modStandAt n.val fun t => { t with pod := members.take 64, rank := rank }) ∧
    (∃ t x, exec (.standDelegationWrite n w0 w1) s = .next t ∧ t.standAt n.val = some x ∧ x.keydel = w1 ∧
      x.standdel.getLsbD n.val = false ∧ ∀ k < 64, k ≠ n.val → x.standdel.getLsbD k = w0.getLsbD k) ∧
    (let line := addr / 64 * 64
     s.rim.hostUp = true →
      (∀ w, s.apertureOf line = none → ∃ t x, exec (.hostMemAccess w addr ⟨data, poison⟩) s = .next t ∧ t.mem = s.mem ∧ t.standAt 0 = some x ∧
        x.hostref = (s.standOr 0).hostref + 1) ∧
      (∀ e, s.apertureOf line = some e → s.hostRefused true line (some e) = false → s.MemoryCanonical →
        ∃ t, exec (.hostMemAccess true addr ⟨data, poison⟩) s = .next t ∧ bytesAt t.mem (s.route line) 64 = leBytes 64 data.toNat ∧
          (poison = true → (SMap.find (s.route line / 64) t.poison).isSome = true)) ∧
      (∀ e, s.apertureOf line = some e → s.hostRefused false line (some e) = false →
        exec (.hostMemAccess false addr ⟨data, poison⟩) s = .next s)) ∧
    (let e := SMap.getD s.rim.exports (addr / 2 ^ 22 % 64) (0, 0)
     let va := e.1.toNat % 2 ^ 57 + addr % 2 ^ 22 / 64 * 64
     let stand := e.2.toNat / 2 ^ 58
     (∀ w, e.1.getLsbD 63 = false → ∃ t x, exec (.peerAccess w src addr ⟨data, poison⟩) s = .next t ∧ t.mem = s.mem ∧
        t.standAt stand = some x ∧ x.peerref = (s.standOr stand).peerref + 1) ∧
     (e.1.getLsbD 63 = true → src = e.2.toNat % 2 ^ 22 → ∀ t x, s.standAt stand = some t →
        s.translateIn t t.ranges false va = .ok x →
        (e.1.getLsbD 61 = true → s.checkXlate t x true true = none → s.MemoryCanonical →
          ∃ u, exec (.peerAccess true src addr ⟨data, poison⟩) s = .next u ∧ bytesAt u.mem (s.route x.dpa) 64 = leBytes 64 data.toNat) ∧
        (e.1.getLsbD 62 = true → s.checkXlate t x false true = none → exec (.peerAccess false src addr ⟨data, poison⟩) s = .next s)))) ∧
  (∀ (s : State) (c : Collective) (step chunk : Nat) (data : List (BitVec 16)), s.rim.collectives = [c] → c.ended = false →
    c.stand = s.standNo → c.queued = none →
    let n := (s.podOf c).1
    let rank := (s.podOf c).2
    let size := c.nel / n
    (step = c.applied → step < s.collSteps c → chunk = chunkSent n c.op ((rank + n - 1) % n) step → data.length = size →
      let old := (c.data.drop (size * chunk)).take size
      let new := if reduces n c.op step then old.zipWith sumB16 data else data
      let d := { c with applied := c.applied + 1, data := c.data.take (size * chunk) ++ new ++ c.data.drop (size * chunk + size) }
      exec (.collectiveStepReceive c.tag step chunk data) s
        = .next (({ s with rim := { s.rim with collectives := [d] } } : State).advanceColl d)) ∧
    (step ≠ c.applied → exec (.collectiveStepReceive c.tag step chunk data) s = .next s) ∧
    (c.sentStep = step + 1 → c.ackedStep = step →
      (let d := { c with ackedStep := step + 1 }
       exec (.collectiveStepAck c.tag step) s = .next (({ s with rim := { s.rim with collectives := [d] } } : State).advanceColl d)) ∧
      (c.resends < (s.standOr c.stand).cretry.toNat → exec (.collectiveStepTimeout c.tag step) s
        = .next (({ s with rim := { s.rim with collectives := [{ c with resends := c.resends + 1 }] } } : State).afterClk
            (s.stepTime c) (.collectiveStepTimeout c.tag step))) ∧
      ((s.standOr c.stand).cretry.toNat ≤ c.resends → exec (.collectiveStepTimeout c.tag step) s = .next (s.endColl c (some step)))))


/-- 20 R460 to R480. The events of a tile fault and its recovery complete. The fault freezes the tile and locks its site out for good;
a sapling, or a host to fold on, is chosen; the recovery point is restored and its log replayed; the entry is bound to the new site
and released; traffic meanwhile is kept in order; a recovery that fails ends the launch with TILE_FAULT.
The cycle in which an event falls due is the model's choice (log entry 7). -/
def Obligations.RecoveryEvents : Prop :=
  ∀ (s : State) (kind : FaultKind) (core fpc field row col h : Nat) (c : CatchItem),
    let site := s.siteOf s.core.ltn
    (s.tileTaken = true → s.rim.recovery = none → s.rim.lastFault = none →
      (s.ckp ≠ 2 → ∀ e, (e = Instr.tileFault kind core fpc ∨ (e = .fieldPowerLoss field ∧ fieldOf site = field)
          ∨ (e = .siteUnreachable row col ∧ site = 32 * row + col)) →
        ∃ t r, exec e s = .next t ∧ t.tile.frozen = true ∧ site ∈ t.rim.retired ∧ t.agenda = [] ∧ t.mem = s.mem ∧
          t.rim.recovery = some r ∧ r.stage = .hold ∧ r.oldSite = site ∧ r.fcyc = s.tile.cycle ∧ r.catch_ = [] ∧
          (s.clk + 1, Instr.select) ∈ t.clkAgenda) ∧
      (s.ckp = 2 → ∃ t, exec (.tileFault kind core fpc) s = .next t ∧ t.tile.frozen = true ∧ site ∈ t.rim.retired ∧
        (s.clk, Instr.launchEnd ⟨.ofNat 64 s.standNo, some ⟨0x141, 0, s.core.ltn, core, 0⟩⟩) ∈ t.clkAgenda)) ∧
    (∀ r, s.rim.recovery = some r →
      (r.stage = .hold → ∀ x, s.sapling r.oldSite = some x → ∃ t, exec .select s = .next t ∧
        t.rim.recovery = some { r with stage := .select, newSite := x } ∧ x ∉ t.rim.saplings ∧
        (s.clk + 1, Instr.restore) ∈ t.clkAgenda) ∧
      (r.stage = .hold → s.sapling r.oldSite = none → s.foldHost r.oldSite = some h → ∃ t, exec .select s = .next t ∧
        t.rim.recovery = some { r with stage := .fold, newSite := s.siteOf h } ∧ t.rim.foldMate = some h ∧
        (s.clk + 1, Instr.foldTile) ∈ t.clkAgenda) ∧
      (∀ b p, s.base = some b → s.recovery = some p →
        (r.stage = .select → exec .restore s = .next (((s.restoreImage b p).modRecovery fun x =>
          { x with stage := .restore, folded := false }).afterClk 1 .replay)) ∧
        (r.stage = .fold → exec .foldTile s = .next (((s.restoreImage b p).modRecovery fun x =>
          { x with stage := .restore, folded := true }).afterClk 1 .replay)) ∧
        (s.restoreImage b p).core = p.core ∧ (s.restoreImage b p).tile.cycle = p.tile.cycle ∧
        (s.restoreImage b p).tile.replay = s.tile.notch.prevLog ++ s.tile.notch.log) ∧
      (r.stage = .restore → ∃ t, exec .replay s = .next t ∧ t.tile.frozen = false ∧
        t.rim.recovery = some { r with stage := .replay }) ∧
      (r.stage = .replay → ∃ t, exec .bind s = .next t ∧ t.rim.recovery = some { r with stage := .bind } ∧
        t.rim.sites = SMap.put s.core.ltn r.newSite s.rim.sites ∧ (s.clk + 1, Instr.release) ∈ t.clkAgenda) ∧
      (r.stage = .bind → ∃ t, exec .release s = .next t ∧ t.rim.recovery = none ∧ t.tile.frozen = false ∧ t.tile.replay = [] ∧
        t.tile.notch.recoveries = s.tile.notch.recoveries + 1 ∧ t.mem = s.mem ∧
        ∀ x ∈ r.catch_, (s.tile.cycle, Instr.catchStore x) ∈ t.agenda) ∧
      (r.stage ≠ .replay → exec (.catchStore c) s = .next (s.modRecovery fun x => { x with catch_ := x.catch_ ++ [c] })) ∧
      (∃ t x, exec .recoveryFail s = .next t ∧ t.rim.recovery = some x ∧ x.stage = .fail ∧
        (s.clk, Instr.launchEnd ⟨.ofNat 64 s.standNo, some ⟨0x141, 0, s.core.ltn, r.core, 0⟩⟩) ∈ t.clkAgenda)) ∧
    (s.rim.recovery = none → s.tile.frozen = false →
      (∀ off data poison, ∃ t, exec (.catchStore (.unit s.core.num off data poison)) s = .next t ∧
        t.mem = (s.write none (s.key off.toNat) data poison).mem) ∧
      (∀ k err faddr, ∃ t, exec (.catchStore (.count s.core.num k err faddr)) s = .next t ∧
        t.core.k = (s.raiseCounter k err faddr).core.k) ∧
      (s.rim.foldMate ≠ none → s.rim.resident = false → ∃ t, exec .foldResidencySwitch s = .next t ∧ t.rim.resident = true ∧
        t.tile.frozen = false) ∧
      (s.rim.foldMate ≠ none → s.rim.resident = true → ∃ t, exec .foldResidencySwitch s = .next t ∧ t.rim.resident = false ∧
        t.tile.frozen = true)) ∧
    ∀ n, ∃ t, exec (.hingeAcknowledgement n) s = .next t ∧ t.tile.acked = max s.tile.acked n ∧
      t.tile.waitingAck = s.tile.waitingAck.filter fun w => !decide (w.1 ≤ max s.tile.acked n)

/-- 16 R371; 20 R466; 21 R486 to R499. The events of the years complete: a channel is retired and its stripes move one by one, a die is mapped
out once nothing reaches it, firmware is measured, the audit log frees what is acknowledged, the checkpoint service serves its requests
in order, a restore copies the newest good manifest back, and power comes on with what a module keeps for life.
The cycle in which an event falls due is the model's choice (log entry 7). Digests are any function (log entry 9); which objects the service keeps is the model's choice (log entry 21). -/
def Obligations.YearsEvents : Prop :=
  ∀ (s : State) (ch n : Nat) (image : List Byte) (modid : BitVec 22) (stand : Fin 64),
    (s.rim.retiring = none → ch ∈ s.rim.active → 864 < s.rim.active.length → ∃ t, exec (.channelRetire ch) s = .next t ∧
      t.rim.active = s.rim.active.erase ch ∧ t.rim.retiring = some ch ∧ t.rim.rebuild = 0 ∧ t.rim.flat = true ∧
      (s.clk + 1, Instr.stripeMove) ∈ t.clkAgenda) ∧
    (s.rim.retiring = none → s.rim.active.length ≤ 864 → exec (.channelRetire ch) s = .next s) ∧
    (s.rim.retiring = some ch → ∃ t, exec .stripeMove s = .next t ∧ t.rim.rebuild = s.rim.rebuild + 1 ∧
      t.rim.retiring = (if stripeCount ≤ s.rim.rebuild + 1 then none else some ch) ∧ t.mem = s.mem) ∧
    (s.rim.pending = none → exec .dieMapOut s
      = .next { s with rim := { s.rim with pending := some (s.rim.hbmcap - 4294967296) } }) ∧
    (s.rim.pending = some n → (∀ x ∈ s.rim.stands, ∀ g ∈ x.2.hbm, g.2 < n / 2 ^ 21) → s.rim.apertures = [] →
      exec .mapOutAck s = .next { s with rim := { s.rim with hbmcap := n, dies := s.rim.dies + 1, pending := none } }) ∧
    exec (.firmwareMeasure image) s = .next { s with rim := { s.rim with measured := s.rim.measured ++ [Config.sha384 image] } } ∧
    exec (.auditLogAck n) s = .next { s with rim := { s.rim with audit := SMap.erase n s.rim.audit } } ∧
    (∀ (step : Word) (m : Option (List Byte)) (u : State) (rest : List (Word × Option Launch)), s.rim.jobs = (step, none) :: rest →
      ({ s with rim := { s.rim with jobs := rest } } : State).checkpoint s.standNo step = (m, u) →
      (m = none → exec .jobCheckpointService s = .next u) ∧
      (m ≠ none → exec .jobCheckpointService s = .next (u.afterClk 1 (.catchStore
        (.count u.core.num (.ofNat 4 (bits (u.standOr s.standNo).jshard.toNat 47 44)) 0 0))))) ∧
    (s.rim.launches = [] → ∀ m, (s.standOr stand.val).manifests = [m] →
      (s.manifestHolds (s.standOr stand.val) m = false → exec (.jobRestore stand) s = .next s) ∧
      (s.manifestHolds (s.standOr stand.val) m = true → ∀ va lines at_ header digest, m.shards = [(va, lines, at_, header, digest)] →
        ∀ data u, s.readVirtual (s.standOr stand.val) (lines + 1) (at_ + 64) (64 * lines) = (data, u) →
        exec (.jobRestore stand) s = .next (u.writeStand (s.standOr stand.val) (lines + 1) va data))) ∧
    ∃ t, exec (.modulePowerOn modid) s = .next t ∧ t.rim.modid = modid ∧ t.rim.stands = [] ∧ t.rim.launches = [] ∧ t.mem = [] ∧
      t.rim.retired = s.rim.retired ∧ t.rim.audit = s.rim.audit ∧ t.rim.lmsleft = s.rim.lmsleft

/-- 05 R124, R126, R127; 06 R145; 02 R51, R57. The floating vector heads, short and long, complete at JO = 0: every enabled element takes
the exact value of the operation rounded once to the format, or for minimum, maximum, absolute value and negation the value chosen;
the flags of the enabled elements are ORed in, and disabled elements stay. A subnormal operand of an enabled element with SUB = 0 traps. -/
def Obligations.VectorFloatResults : Prop :=
  ∀ (s t : State) (fmt : BitVec 3) (d a b : Reg) (la : BitVec 4) (x y : Vec) (op : VecOp) (p q : Instr), fmt.toNat ≤ 2 →
    swJO s.rdSw = 0 →
    (op, p, q) ∈ ([
      (.add, .vadd fmt d a b, .vaddL fmt d a b la), (.sub, .vsub fmt d a b, .vsubL fmt d a b la),
      (.mul, .vmul fmt d a b, .vmulL fmt d a b la), (.div, .vdiv fmt d a b, .vdivL fmt d a b la),
      (.min, .vmin fmt d a b, .vminL fmt d a b la), (.max, .vmax fmt d a b, .vmaxL fmt d a b la),
      (.pow, .vpow fmt d a b, .vpowL fmt d a b la), (.fma, .vfma fmt d a b, .vfmaL fmt d a b la),
      (.fms, .vfms fmt d a b, .vfmsL fmt d a b la), (.sqrt, .vsqrt fmt d a, .vsqrtL fmt d a la),
      (.rsq, .vrsq fmt d a, .vrsqL fmt d a la), (.exp, .vexp fmt d a, .vexpL fmt d a la),
      (.log, .vlog fmt d a, .vlogL fmt d a la), (.sin, .vsin fmt d a, .vsinL fmt d a la),
      (.cos, .vcos fmt d a, .vcosL fmt d a la), (.tanh, .vtanh fmt d a, .vtanhL fmt d a la),
      (.abs, .vabs fmt d a, .vabsL fmt d a la), (.neg, .vneg fmt d a, .vnegL fmt d a la)] : List (VecOp × Instr × Instr)) →
    s.Issues (((if op.accumulates then Opd.vacc d else Opd.vdst d) :: Opd.vsrc a :: if op.twoSources then [Opd.vsrc b] else [])
      ++ if op.rounds then drawOpd s.rdSw else []) →
    (op.twoSources = true → s.readV2 a b = (x, y, t)) → (op.twoSources = false → s.readV a = (x, t)) →
    let c := 8 + fmt.toNat
    let w := fmtWidth c
    let on := laneOn (swVM s.rdSw) w
    let sub := swSUB s.rdSw
    let z := s.regV d.toNat
    (∀ (u v r : Nat → Val) (fu fv fr : Nat → FFlags),
      (∀ i < 256 / w, on i = true → operandF c sub (elemAt w x.toNat i) = some (u i, fu i) ∧
        (op.twoSources = true → operandF c sub (elemAt w y.toNat i) = some (v i, fv i)) ∧
        (op.accumulates = true → operandF c sub (elemAt w z.toNat i) = some (r i, fr i))) →
      (op.twoSources = false → ∀ i, v i = .nan ∧ fv i = 0) → (op.accumulates = false → ∀ i, r i = .nan ∧ fr i = 0) →
      let exact (i : Nat) : Val × FFlags := op.value (s.rnd i).mode (u i) (v i) (r i)
      let code (i : Nat) : Nat × FFlags :=
        if op = .min ∨ op = .max then (exactly c ((Series.pickGroup (op == .max) [u i] [v i]).headD .nan), 0)
        else if op = .abs ∨ op = .neg then (exactly c (exact i).1, 0)
        else ((roundF c (s.rnd i) (exact i).1).1, (exact i).2 ||| (roundF c (s.rnd i) (exact i).1).2)
      ∃ e m, LanesAre w (256 / w) on (fun i => (code i).1) e m ∧
        let after : State := (t.vecTo d e m).flagged (enabledFlags (256 / w) on fun i => fu i ||| fv i ||| fr i ||| (code i).2)
        exec p s = .next after ∧ exec q s = .next after) ∧
    (sub = false → (∃ i < 256 / w, on i = true ∧ isSubnormal c (elemAt w x.toNat i) = true) →
      exec p s = s.raise cSUBNORMAL ∧ exec q s = s.raise cSUBNORMAL)

/-- 05 R124, R129, R131, R134; 03 R74. The integer and bitwise vector heads complete: every enabled element of the size takes the result of
the operation modulo its width and disabled elements stay. `VSEL` selects by bits, `VSHUF` by index, `VSPLAT` copies, `VINS` writes one
element, `VEXT` delivers one. `VRED` of an integer format delivers the sum modulo 2^64, the least or the greatest enabled element. -/
def Obligations.VectorIntegerResults : Prop :=
  ∀ (s t : State) (size : BitVec 2) (n : Bool) (d a b : Reg) (x y : Vec),
    let w := 8 * 2 ^ size.toNat
    let on := laneOn (swVM s.rdSw) w
    let e (i : Nat) : Nat := elemAt w x.toNat i
    let g (i : Nat) : Nat := elemAt w y.toNat i
    let gives (k : Nat) (en : Nat → Bool) (p : Instr) (r : State) (f : Nat → Nat) : Prop :=
      ∃ v m, LanesAre k (256 / k) en f v m ∧ exec p s = .next (r.writeV d (.ofNat 256 v) (.ofNat 256 m))
    (s.readV2 a b = (x, y, t) →
      (s.Issues [.vdst d, .vsrc a, .vsrc b] →
        let whole := laneOn (swVM s.rdSw) 32
        gives 32 whole (.vand d a b) t (fun i => elemAt 32 x.toNat i &&& elemAt 32 y.toNat i) ∧
        gives 32 whole (.vor d a b) t (fun i => elemAt 32 x.toNat i ||| elemAt 32 y.toNat i) ∧
        gives 32 whole (.vxor d a b) t (fun i => elemAt 32 x.toNat i ^^^ elemAt 32 y.toNat i) ∧
        gives w on (.viadd size n d a b) t (fun i => e i + g i) ∧
        gives w on (.visub size n d a b) t (fun i => e i + 2 ^ w - g i) ∧
        gives w on (.vimul size n d a b) t (fun i => e i * g i) ∧
        gives w on (.vshl size n d a b) t (fun i => e i * 2 ^ (g i % w)) ∧
        gives w on (.vshr size n d a b) t (fun i =>
          if n then e i / 2 ^ (g i % w) else wrap w (signed w (e i) / 2 ^ (g i % w))) ∧
        gives w on (.vshuf size d a b) t (fun i => if g i < 256 / w then e (g i) else 0)) ∧
      (s.Issues [.vacc d, .vsrc a, .vsrc b] → exec (.vsel d a b) s = .next (t.writeV d
        ((x &&& s.regV d.toNat) ||| (y &&& ~~~s.regV d.toNat)) (laneMask (swVM s.rdSw))))) ∧
    (∀ z u : Word,
      (s.readW a = (z, t) → s.Issues [.vdst d, .src a] → gives w on (.vsplat size d a) t (fun _ => z.toNat)) ∧
      (s.read2 a b = (z, u, t) → s.Issues [.vacc d, .src a, .src b] →
        gives w (fun i => on i && decide (i = u.toNat % (256 / w))) (.vins size d a b) t (fun _ => z.toNat)) ∧
      (∀ r : State, s.readV a = (x, r) → r.readW b = (u, t) → s.Issues [.dst d, .vsrc a, .src b] →
        exec (.vext size n d a b) s = .next (t.writeW d (if n then w64 (e (u.toNat % (256 / w)))
          else .ofInt 64 (signed w (e (u.toNat % (256 / w)))))))) ∧
    (∀ fmt : BitVec 5, fmt.toNat < 8 → s.readV a = (x, t) → s.Issues [.dst d, .vsrc a] →
      let k := 8 * 2 ^ (fmt.toNat % 4)
      let lanes := (List.range (256 / k)).filter (laneOn (swVM s.rdSw) k)
      let value (i : Nat) : Int := if fmt.toNat < 4 then signed k (elemAt k x.toNat i) else (elemAt k x.toNat i : Nat)
      exec (.vredAdd fmt d a) s = .next (t.writeW d (.ofInt 64 ((lanes.map value).foldl (· + ·) 0))) ∧
      (lanes ≠ [] → ∃ i ∈ lanes, ∃ j ∈ lanes, (∀ k ∈ lanes, value i ≤ value k ∧ value k ≤ value j) ∧
        exec (.vredMin fmt d a) s = .next (t.writeW d (.ofInt 64 (value i))) ∧
        exec (.vredMax fmt d a) s = .next (t.writeW d (.ofInt 64 (value j)))))

/-- 05 R128, R130 to R132, R135; 02 R43, R45, R51; 06 R163. The remaining vector heads complete at JO = 0. `VCMP` writes all ones or
all zeros, sets Z when no enabled element holds and C when all do, and skips; `VDOT` adds four or two products to each lane, exactly for integers and rounded
once for floats; `VRED` of a floating format follows the fixed tree in FP32; `VREDQ` adds a queue word's elements and stays until its count is reached; the
conversions round each enabled element once, of a scaled one the exact product; `VRND` rounds to an integral value. -/
def Obligations.VectorConversionResults : Prop :=
  ∀ (s t : State) (d a b : Reg) (x y : Vec), swJO s.rdSw = 0 →
    let vm := swVM s.rdSw
    let sub := swSUB s.rdSw
    (∀ (k : BitVec 2) (cc : BitVec 3) (fmt : BitVec 2) (u v : Nat → Val) (fu fv : Nat → FFlags), fmt.toNat ≤ 2 →
      s.Issues [.vdst d, .vsrc a, .vsrc b] → s.readV2 a b = (x, y, t) →
      let c := 8 + fmt.toNat
      let w := fmtWidth c
      let on := laneOn vm w
      (∀ i < 256 / w, on i = true → operandF c sub (elemAt w x.toNat i) = some (u i, fu i) ∧
        operandF c sub (elemAt w y.toNat i) = some (v i, fv i)) →
      let holds (i : Nat) : Bool := (relFlags (Val.cmp (u i) (v i))).holds cc
      let lanes := (List.range (256 / w)).filter on
      ∃ e m, LanesAre w (256 / w) on (fun i => if holds i then 2 ^ w - 1 else 0) e m ∧
        exec (.vcmp k cc fmt d a b) s = .next (((((t.vecTo d e m).flagged (enabledFlags (256 / w) on fun i => fu i ||| fv i)).setSw 0xF
          ((if lanes.any holds then 0 else 4) ||| if lanes.all holds then 2 else 0)).skipIf (lanes.all holds) k))) ∧
    (∀ fmt : BitVec 5, s.Issues ([.vacc d, .vsrc a, .vsrc b] ++ if 8 ≤ fmt.toNat then drawOpd s.rdSw else []) → s.readV2 a b = (x, y, t) →
      let c := fmt.toNat
      let w := fmtWidth c
      let on := laneOn vm 32
      let z (i : Nat) : Nat := elemAt 32 (s.regV d.toNat).toNat i
      let elems (v : Vec) (i : Nat) : List Nat := (List.range (32 / w)).map fun j => elemAt w v.toNat (32 / w * i + j)
      (c = 0 ∨ c = 4 →
        let int (v : Nat) : Int := if c = 0 then signed 8 v else v
        let sum (i : Nat) : Int := (List.zipWith (fun p q => int p * int q) (elems x i) (elems y i)).foldl (· + ·) 0
        ∃ e m, LanesAre 32 8 on (fun i => wrap 32 (z i + sum i)) e m ∧
          exec (.vdot fmt d a b) s = .next ((t.writeV d (.ofNat 256 e) (.ofNat 256 m)).flagged 0)) ∧
      (c ∈ [9, 10, 11, 12] → ∀ (xs ys : Nat → List Val) (zs : Nat → Val) (fx fy fz : Nat → FFlags),
        (∀ i < 8, on i = true → operandsF c sub (elems x i) = some (xs i, fx i) ∧ operandsF c sub (elems y i) = some (ys i, fy i) ∧
          operandF cFP32 sub (z i) = some (zs i, fz i)) →
        let total (i : Nat) : Val × FFlags := exactSum (swRM s.rdSw) (List.zipWith Val.mul (xs i) (ys i)) (zs i)
        let code (i : Nat) : Nat × FFlags := roundF cFP32 (s.rnd i) (total i).1
        ∃ e m, LanesAre 32 8 on (fun i => (code i).1) e m ∧ exec (.vdot fmt d a b) s
          = .next ((t.writeV d (.ofNat 256 e) (.ofNat 256 m)).flagged
              (enabledFlags 8 on fun i => fx i ||| fy i ||| fz i ||| (total i).2 ||| (code i).2)))) ∧
    (∀ fmt : BitVec 5, 8 ≤ fmt.toNat → fmt.toNat ≤ 10 → s.readV a = (x, t) →
      let c := fmt.toNat
      let w := fmtWidth c
      ∀ (u : Nat → Val) (fu : Nat → FFlags),
        (∀ i < 256 / w, laneOn vm w i = true → operandF c sub (elemAt w x.toNat i) = some (u i, fu i)) →
        let leaves (op : RedOp) : List (Val × FFlags) :=
          (List.range (256 / w)).map fun i => if laneOn vm w i then (u i, fu i) else (op.floatIdentity, 0)
        let root (op : RedOp) : Val × FFlags := (tree (op.node (s.rnd 0)) 5 (leaves op)).headD (.nan, 0)
        ∀ p ∈ [(RedOp.add, Instr.vredAdd fmt d a), (.min, .vredMin fmt d a), (.max, .vredMax fmt d a)],
          s.Issues ([.dst d, .vsrc a] ++ if p.1 = .add then drawOpd s.rdSw else []) →
            exec p.2 s = .next ((t.writeW d (w64 (exactly cFP32 (root p.1).1))).flagged (root p.1).2)) ∧
    (∀ (fmt : BitVec 5) (q : Fin 8) (n : Word), fmt.toNat ∈ [8, 9, 10, 2, 6, 3, 7] → s.issue.info.pair = false →
      s.issue.info.second = false → s.Issues ([(Opd.acc d).noPort, .src a] ++ if 8 ≤ fmt.toNat then drawOpd s.rdSw else []) →
      s.me.qi = some q → s.readW a = (n, t) → n.toNat ≤ 255 → s.isSpeculative = false →
      (n.toNat ≤ swRIX s.rdSw → exec (.vredq fmt d a) s = .next (t.setSw 0x000000FF00000000 0)) ∧
      (∀ word rest, swRIX s.rdSw < n.toNat → popWords 1 t.core.mq[q] = some ([word], rest) →
        let c := fmt.toNat
        let m := min (64 / fmtWidth c) (n.toNat - swRIX s.rdSw)
        let es := (List.range m).map fun j => elemAt (fmtWidth c) word.toNat j
        (sub = true ∨ ∀ v ∈ es, isSubnormal c v = false) →
        ∀ start : Word × FFlags, (c < 8 → start = (s.regW d.toNat, 0)) →
          (8 ≤ c → ∃ v f, operandF cFP32 sub ((s.regW d.toNat).toNat % 2 ^ 32) = some (v, f) ∧ start = (w64 (exactly cFP32 v), f)) →
        let sum := es.foldl (redqAdd c sub (s.rnd 0)) start
        let popped : State := { t with core := { t.core with mq := t.core.mq.set q rest } }
        let summed := (popped.writeW d sum.1).orSw (swFlags sum.2)
        (n.toNat ≤ swRIX s.rdSw + m → exec (.vredq fmt d a) s = .next (summed.setSw 0x000000FF00000000 0)) ∧
        (swRIX s.rdSw + m < n.toNat → ∃ u, exec (.vredq fmt d a) s = .next u ∧ u.issue.result = .partway ∧
          u.me.pc = s.issue.bpc ∧ u.mem = summed.mem ∧ u.core.mq = summed.core.mq ∧ swRIX u.me.sw = swRIX s.rdSw + m))) ∧
    (∀ (src dst : BitVec 5) (sc : Bool) (c : Reg) (scale : Word) (r : State), src.toNat ≤ 14 → dst.toNat ≤ 14 →
      let ws := fmtWidth src.toNat
      let wd := fmtWidth dst.toNat
      let scaling := if sc then scaleOf scale else none
      let converts (p : Instr) (rs rd n : Nat) : Prop :=
        s.Issues ([if rd = 1 then Opd.vdst d else { Opd.vdst d with n := rd, port := false },
          if rs = 1 then Opd.vsrc a else { Opd.vsrc a with n := rs, port := false }] ++ (if sc then [.src c] else []) ++ drawOpd s.rdSw) →
        spanFits d rd = true → spanFits a rs = true → ∀ (v : Nat), s.readSpan a rs = (v, r) → (sc = true → r.readW c = (scale, t)) →
        (sc = false → t = r) → (sc = true → (scaleOf scale).isSome = true) → ∀ (code : Nat → Nat × FFlags),
        (∀ j < n, laneOn vm wd j = true →
          cvtElem src.toNat dst.toNat sub (s.rnd j) scaling (elemAt ws v j) = some (code j)) → (∀ j, n ≤ j → code j = (0, 0)) →
        ∃ e m, LanesAre wd (rd * 256 / wd) (laneOn vm wd) (fun j => (code j).1) e m ∧
          exec p s = .next (((vecWrites d rd e m).foldl applyWrite t).orSw
            (swFlags (enabledFlags (rd * 256 / wd) (laneOn vm wd) fun j => (code j).2)))
      converts (.vcvt src dst sc d a c) 1 1 (256 / max ws wd) ∧
      (ws ∈ [2 * wd, 4 * wd, 8 * wd] → converts (.vpack src dst sc d a c) (ws / wd) 1 (256 / wd)) ∧
      (wd ∈ [2 * ws, 4 * ws, 8 * ws] → converts (.vunpack src dst sc d a c) 1 (wd / ws) (256 / ws))) ∧
    (∀ (src dst : BitVec 5) (u : Nat → Val) (fu : Nat → FFlags), 8 ≤ src.toNat → src.toNat ≤ 10 → s.Issues ([.vdst d, .vsrc a] ++ drawOpd s.rdSw) →
      s.readV a = (x, t) →
      let c := src.toNat
      let w := fmtWidth c
      (∀ i < 256 / w, laneOn vm w i = true → operandF c sub (elemAt w x.toNat i) = some (u i, fu i)) →
      let integral (i : Nat) : Val := match u i with
        | .fin neg m e => .fin neg (roundAt neg m e 0 (s.rnd i)).1 0
        | v => v
      ∃ e m, LanesAre w (256 / w) (laneOn vm w) (fun i => exactly c (integral i)) e m ∧
        exec (.vrnd src dst d a) s = .next ((t.writeV d (.ofNat 256 e) (.ofNat 256 m)).orSw
          (swFlags (enabledFlags (256 / w) (laneOn vm w) fu))))

/-- 06 R145, R147 to R152, R166. The floating vector heads complete at every JO on the enabled groups of their spans: element k of a group
takes coefficient k of the series that the operation gives the operands' coefficients, and zero above JO; the flags of coefficient k go to its
field of `jf`, all of them to `sw`. At JO from 8 on the result comes at the end of a window, after the latency of the operation. -/
def Obligations.JetOperationResults : Prop :=
  ∀ (s t u : State) (fmt : BitVec 3) (d a b : Reg) (la : BitVec 4) (x y : Nat) (op : VecOp) (p q : Instr), fmt.toNat ≤ 2 →
    (op, p, q) ∈ ([
      (.add, .vadd fmt d a b, .vaddL fmt d a b la), (.sub, .vsub fmt d a b, .vsubL fmt d a b la),
      (.mul, .vmul fmt d a b, .vmulL fmt d a b la), (.div, .vdiv fmt d a b, .vdivL fmt d a b la),
      (.min, .vmin fmt d a b, .vminL fmt d a b la), (.max, .vmax fmt d a b, .vmaxL fmt d a b la),
      (.pow, .vpow fmt d a b, .vpowL fmt d a b la), (.fma, .vfma fmt d a b, .vfmaL fmt d a b la),
      (.fms, .vfms fmt d a b, .vfmsL fmt d a b la), (.sqrt, .vsqrt fmt d a, .vsqrtL fmt d a la),
      (.rsq, .vrsq fmt d a, .vrsqL fmt d a la), (.exp, .vexp fmt d a, .vexpL fmt d a la),
      (.log, .vlog fmt d a, .vlogL fmt d a la), (.sin, .vsin fmt d a, .vsinL fmt d a la),
      (.cos, .vcos fmt d a, .vcosL fmt d a la), (.tanh, .vtanh fmt d a, .vtanhL fmt d a la),
      (.abs, .vabs fmt d a, .vabsL fmt d a la), (.neg, .vneg fmt d a, .vnegL fmt d a la)] : List (VecOp × Instr × Instr)) →
    let c := 8 + fmt.toNat
    let w := fmtWidth c
    let jo := swJO s.rdSw
    let r := spanOf c jo
    let size := groupSize jo
    let on := groupOn (swVM s.rdSw) c jo
    let sub := swSUB s.rdSw
    let operands := (if op.accumulates then Opd.vacc d else Opd.vdst d) :: Opd.vsrc a :: if op.twoSources then [Opd.vsrc b] else []
    s.Issues ((operands.map fun o => o.jet r) ++ if op.rounds then drawOpd s.rdSw else []) → (∀ o ∈ operands, spanFits o.r r = true) →
    s.readSpan a r = (x, u) → (op.twoSources = true → u.readSpan b r = (y, t)) → (op.twoSources = false → t = u) →
    let z := (s.readSpan d r).1
    ∀ (xs ys zs : Nat → List Val) (fx fy fz : Nat → List FFlags),
      (∀ g < groupsOf c jo, on (g * size) = true → groupOperand c sub (groupCoefs c jo x g) = some (xs g, fx g) ∧
        (op.twoSources = true → groupOperand c sub (groupCoefs c jo y g) = some (ys g, fy g)) ∧
        (op.accumulates = true → groupOperand c sub (groupCoefs c jo z g) = some (zs g, fz g))) →
      (op.twoSources = false → ∀ g, ys g = [] ∧ fy g = []) → (op.accumulates = false → ∀ g, zs g = [] ∧ fz g = []) →
      let series (g : Nat) : List Nat × List FFlags := Series.group op c jo (fun k => s.rnd (g * size + k)) (xs g) (ys g) (zs g)
      let flags (g : Nat) : List FFlags := joinFlags (joinFlags (fx g) (fy g)) (joinFlags (fz g) (series g).2)
      let groups := (List.range (groupsOf c jo)).filter fun g => on (g * size)
      ∃ e m, LanesAre w (groupsOf c jo * size) on (fun i => (series (i / size)).1.getD (i % size) 0) e m ∧
        let writes := vecWrites d r e m ++ [.swOr (swFlags (anyFlags (groups.map fun g => anyFlags (flags g)))),
          .jfOr ((groups.map fun g => jfOf 0 (flags g)).foldl (· ||| ·) 0)]
        (jo < 8 → exec p s = .next (writes.foldl applyWrite t) ∧ exec q s = .next (writes.foldl applyWrite t)) ∧
        (8 ≤ jo → s.me.windows.length < 4 → exec p s = .next (t.longResult 0 (if jo < 16 then op.latency.1 else op.latency.2) writes) ∧
          exec q s = .next (t.longResult la (if jo < 16 then op.latency.1 else op.latency.2) writes))

/-- 01 R36; 06 R146, R167 to R171. The jet instructions complete: `JORD` sets JO, `JFRD` delivers a half of `jf` and `JFCLR` clears the fields of a
range of coefficients; at JO below 8 `JSEED`, `JSEEDV`, `JCONST` and `JTRUNC` give every enabled group its coefficients and zeros above them,
and `JEXT` and `JDER` deliver coefficient k of every enabled group, times k! for `JDER`, with zeros in the elements above the groups. -/
def Obligations.JetInstructionResults : Prop :=
  ∀ (s t : State) (d a b : Reg) (la : BitVec 4) (fmt : BitVec 2) (k lo hi : BitVec 5) (h : Bool),
    (s.Issues [] →
      exec (.jord k) s = .next (s.setSw 0x1F0000 (k.setWidth 64 <<< 16)) ∧
      (lo.toNat ≤ hi.toNat → ∃ u, exec (.jfclr lo hi) s = .next u ∧ u.mem = s.mem ∧ ∀ i, i < 128 →
        u.me.jf.getLsbD i = (s.me.jf.getLsbD i && !(decide (4 * lo.toNat ≤ i) && decide (i < 4 * hi.toNat + 4))))) ∧
    (s.Issues [.dst d] → exec (.jfrd d h) s
      = .next (s.writeW d (if h then s.rdJf.extractLsb' 64 64 else s.rdJf.extractLsb' 0 64))) ∧
    (fmt.toNat ≤ 2 → swJO s.rdSw < 8 →
      let c := 8 + fmt.toNat
      let w := fmtWidth c
      let jo := swJO s.rdSw
      let r := spanOf c jo
      let size := groupSize jo
      let n := groupsOf c jo * size
      let on := groupOn (swVM s.rdSw) c jo
      let fills (p : Instr) (coefs : Nat → List Nat) : Prop :=
        ∃ e m, LanesAre w n on (fun i => (coefs (i / size)).getD (i % size) 0) e m ∧
          exec p s = .next ((vecWrites d r e m).foldl applyWrite t)
      (∀ x y : Word, spanFits d r = true → s.read2 a b = (x, y, t) → s.Issues [(Opd.vdst d).jet r, .src a, .src b] →
        fills (.jseed fmt d a b la) fun _ => if jo = 0 then [x.toNat] else [x.toNat, y.toNat]) ∧
      (∀ x y : Vec, spanFits d r = true → s.readV2 a b = (x, y, t) → s.Issues [(Opd.vdst d).jet r, .vsrc a, .vsrc b] →
        fills (.jseedv fmt d a b la) fun g => if jo = 0 then [elemAt w x.toNat g] else [elemAt w x.toNat g, elemAt w y.toNat g]) ∧
      (∀ x : Word, spanFits d r = true → s.readW a = (x, t) → s.Issues [(Opd.vdst d).jet r, .src a] → fills (.jconst fmt d a la) fun _ => [x.toNat]) ∧
      (∀ x : Nat, s.readSpan a r = (x, t) → k.toNat ≤ jo → spanFits a r = true →
        (spanFits d r = true → s.Issues [(Opd.vdst d).jet r, (Opd.vsrc a).jet r] →
          fills (.jtrunc fmt d a k la) fun g => (List.range (k.toNat + 1)).map fun i => elemAt w x (g * size + i)) ∧
        (let enabled (i : Nat) : Bool := if i < groupsOf c jo then on (i * size) else laneOn (swVM s.rdSw) w i
          let coef (i : Nat) : Nat := elemAt w x (i * size + k.toNat)
          let gives (p : Instr) (code : Nat → Nat × FFlags) : Prop :=
            ∃ e m, LanesAre w (perReg c) enabled (fun i => if i < groupsOf c jo then (code i).1 else 0) e m ∧
              let f := enabledFlags (groupsOf c jo) (fun i => on (i * size)) fun i => (code i).2
              exec p s = .next ((((t.vecTo d e m).orSw (swFlags f)).orJf (jfFlags k.toNat f)))
          (s.Issues [(Opd.vsrc a).jet r, .vdst d] → gives (.jext fmt d a k la) (fun i => (coef i, 0))) ∧
          ∀ (u : Nat → Val) (fu : Nat → FFlags), s.Issues ([(Opd.vsrc a).jet r, .vdst d] ++ drawOpd s.rdSw) →
            (∀ i < groupsOf c jo, on (i * size) = true → operandF c (swSUB s.rdSw) (coef i) = some (u i, fu i)) →
            gives (.jder fmt d a k la) fun i =>
              let o := roundF c (s.rnd i) (Val.mul (u i) (.fin false (factorial k.toNat) 0)).1
              (o.1, fu i ||| o.2))))

/-- 05 R136 to R144; 02 R61, R62; 06 R165. The stream forms and the window operations complete with fewer than four windows. A stream whose three operands
are different, aligned and in the slice is given to the stream unit with what it read; `ADDWIN` and `CLRWIN` leave the window's new words to be
written at the end of their window, `RDWIN` brings the rounded value of the window, when no earlier operation on it is pending.
The cycle in which an event falls due is the model's choice (log entry 7). -/
def Obligations.StreamAndWindowResults : Prop :=
  ∀ (s : State) (d a b : Reg) (la : BitVec 4), s.me.windows.length < 4 →
    (∀ (fmt : BitVec 3) (n : Byte) (op : Nat) (p : Instr), fmt.toNat ≤ 2 → spanOf (8 + fmt.toNat) (swJO s.rdSw) = 1 →
      (op, p) ∈ ([(0, .vaddM fmt d a b la n), (1, .vmulM fmt d a b la n), (2, .vfmaM fmt d a b la n)] : List (Nat × Instr)) →
      s.Issues ([(Opd.acc d).noPort, (Opd.src a).noPort, (Opd.src b).noPort] ++ drawOpd s.rdSw) → d ≠ a → d ≠ b → a ≠ b →
      (∀ r ∈ [d, a, b], let at_ := (s.regW r.toNat).toNat
        at_ < 2 ^ 22 ∧ at_ + 32 * (n.toNat + 1) ≤ s.rim.visibleTop ∧ at_ % 32 = 0 ∧ s.bankState (at_ / 2 ^ 20) ≠ 2 ∧
          s.bankState ((at_ + 32 * (n.toNat + 1) - 1) / 2 ^ 20) ≠ 2) →
      ∃ t m, exec p s = .next t ∧ t.mem = s.mem ∧ t.core.streams = s.core.streams ++ [m] ∧ m.op = op ∧ m.fmt = fmt ∧
        m.a = (s.regW a.toNat).toNat ∧ m.b = (s.regW b.toNat).toNat ∧ m.d = (s.regW d.toNat).toNat ∧ m.n = n.toNat + 1 ∧
        m.sw = s.rdSw ∧ m.tag = s.core.nextTag ∧ m.step = 0 ∧ m.ended = false ∧ t.me.windows = s.me.windows ++
          [⟨s.core.nextTag, la.toNat, false, [], .known, none, s.issue.info, none, false, none, none⟩]) ∧
    (∀ (ea : Word) (off : Nat), s.OwnRange ea 128 64 off → s.isSpeculative = false →
      (∀ o ∈ s.core.winOps, o.addr ≠ off) →
      let old := bytesAt s.rdMem (s.key off) 88
      let leaves (p : Instr) (store : Option Nat) (ws : List WinWrite) (now : List Byte) (writes : List (Nat × Word)) (time : Nat) : Prop :=
        ∃ t, exec p s = .next t ∧ t.mem = s.mem ∧ t.core.winOps = s.core.winOps ++
            [⟨s.issue.slot, s.me.strand, s.core.nextTag, off, now, writes, s.tile.cycle + time⟩] ∧
          t.me.windows.map (fun w => (w.tag, w.left, w.writes, w.store)) = s.me.windows.map (fun w => (w.tag, w.left, w.writes, w.store)) ++
            [(s.core.nextTag, la.toNat, ws, store)] ∧
          (s.tile.cycle + time, Instr.longResultArrival s.issue.slot s.core.nextTag) ∈ t.agenda
      let value (writes : List (Nat × Word)) : Nat := (writes.filter fun w => decide (w.1 < 80)).length
      (s.poisoned (s.key off) 88 = false →
        (s.regW d.toNat = ea → ∀ x y : Word,
          (∀ t, s.readW a = (x, t) → s.Issues [(Opd.third d).noPort, .src a] →
            let now := addToWindow old (unpackF cFP32 x.toNat)
            leaves (.addwin false d a b la) (some off) [] now (changedWords old now) (6 + value (changedWords old now))) ∧
          (∀ t, s.read2 a b = (x, y, t) → s.Issues [(Opd.third d).noPort, .src a, .src b] →
            let now := addToWindow old (Val.mul (unpackF cFP32 x.toNat) (unpackF cFP32 y.toNat)).1
            leaves (.addwin true d a b la) (some off) [] now (changedWords old now) (6 + value (changedWords old now)))) ∧
        (∀ fmt : BitVec 5, fmt.toNat = 8 ∨ fmt.toNat = 15 → s.regW a.toNat = ea → s.Issues ([.dst d, (Opd.src a).noPort] ++ drawOpd s.rdSw) →
          let v := readWindow fmt.toNat (s.rnd 0) old
          leaves (.rdwin fmt d a la) none [.reg d (w64 v.1), .swOr (swFlags v.2)] old [] 14)) ∧
      (s.regW a.toNat = ea → s.Issues [(Opd.src a).noPort] →
        leaves (.clrwin a la) (some off) [] (List.replicate 88 0) ((List.range 16).map fun i => (8 * i, 0)) 2))

/-- 10 R241 to R250, R257 to R260. The matrix heads complete. `MCFG` of a tile that no other slot owns sets its configuration and takes it, `MCLR` clears
own tiles, `MRES` delivers a tile's status word and its release gives it back. `MMA`, `MMJ`, `MRD`, `MACC` and `XPKD` on own tiles whose ranges pass the checks start
their operation with what they read: the strand enters MATRIX, and RIX says where the units begin.
That an index quad begins at a multiple of 4 is the model's reading (log entry 35). -/
def Obligations.MatrixHeadResults : Prop :=
  ∀ (s : State) (d a b c : Reg) (tile : BitVec 2) (keep acc : Bool) (afmt bfmt : BitVec 5) (rows cols kb : BitVec 6) (mask : BitVec 4)
    (desc : BitVec 22) (n : Byte),
    let t := tile.toNat
    let m := s.mtile t
    let starts (p : Instr) (u : State) (kind : MatKind) (tiles : List Nat) (units perUnit : Nat) (f : MatOp → Prop) : Prop :=
      swRIX s.rdSw < units → ∃ v o, exec p s = .next v ∧ v.mem = s.mem ∧ v.core.mat = s.core.mat ++ [o] ∧ v.me.st = .matrix ∧
        v.core.mq = u.core.mq ∧ o.kind = kind ∧ o.slot = s.issue.slot ∧ o.tiles = tiles ∧ o.units = units ∧ o.perUnit = perUnit ∧
        o.first = swRIX s.rdSw ∧ o.steps = 0 ∧ o.sw = s.rdSw ∧ o.stop = none ∧ o.info = s.issue.info ∧ f o
    (s.Issues [] → afmt.toNat < 16 → bfmt.toNat < 16 → (matFormat acc afmt.toNat bfmt.toNat).isSome = true →
      m.owner = none ∨ m.owner = some s.issue.slot → ∃ m' : MTile, exec (.mcfg tile keep acc afmt bfmt rows cols) s = .next (s.setMtile t m') ∧
        m'.words = (if keep then m.words else []) ∧ m'.configured = true ∧ m'.acc = acc ∧ m'.afmt = afmt ∧ m'.bfmt = bfmt ∧
        m'.rows = rows.toNat + 1 ∧ m'.cols = cols.toNat + 1 ∧ m'.owner = some s.issue.slot ∧ m'.live = false) ∧
    (s.Issues [] → (∀ i < 4, mask.getLsbD i = true → s.ownTile i = true) → ∃ u, exec (.mclr mask) s = .next u ∧ u.mem = s.mem ∧
      ∀ i < 4, u.mtile i = if mask.getLsbD i then { s.mtile i with words := [] } else s.mtile i) ∧
    (s.Issues [.dst d] →
      exec (.mres d tile) s = .next (s.writeW d (tileStatus t m)) ∧
      (s.ownTile t = true → exec (.mresRelease d tile) s
        = .next ((s.writeW d (tileStatus t m)).setMtile t { m with owner := none, live := false }))) ∧
    (∀ (base steps per : Nat) (mxOk scOk : Bool), s.issue.info.pair = false → a.toNat % 4 = 0 → a.toNat < 16 → s.ownTile t = true →
      s.addrForm (s.regW b.toNat) = some (s.core.ltn, s.core.num, base) →
      matFormat m.acc m.afmt.toNat m.bfmt.toNat = some (steps, per, mxOk, scOk) →
      let blocks := kb.toNat + 1
      let lines := s.indexRows a m.rows
      let rowsA := lines.map fun r => (r, 4 * fmtWidth m.afmt.toNat * blocks, 64)
      (s.rangesFail ((base, 64 * steps * blocks, 64) :: rowsA) = none →
        (s.Issues [indexQuad a, (Opd.src b).noPort] → starts (.mma a b c tile kb false false desc) s .mma [t] blocks steps fun o =>
          o.rowsA = lines ∧ o.base = base ∧ o.mx = false ∧ o.scale = none) ∧
        (∀ k u, scOk = true → s.Issues [indexQuad a, (Opd.src b).noPort, .third c] → s.readW c = (k, u) → (scaleOf k).isSome = true →
          starts (.mma a b c tile kb false true desc) u .mma [t] blocks steps fun o =>
            o.rowsA = lines ∧ o.base = base ∧ o.scale = some (k.setWidth 32))) ∧
      (let word (i : Nat) : Word := w64 (natAt s.rdMem (s.key (desc.toNat + 8 * i)) 8)
       let planeA := planeOf (word 0) (word 1) true
       let planeB := planeOf (word 2) (word 3) false
       mxOk = true → planeA.1 = true → planeB.1 = true → s.rangesFail ((base, 64 * steps * blocks, 64) :: rowsA ++
          [(desc.toNat, 32, 32), (planeA.2, 64 * blocks, 64), (planeB.2, 64 * blocks, 64)]) = none →
        s.bankCheck desc.toNat 32 = none → s.payloadHeld desc.toNat 32 = false → s.bankBusy desc.toNat = false → s.readsExceed 1 = false →
        s.poisoned (s.key desc.toNat) 32 = false → s.Issues [indexQuad a, (Opd.src b).noPort] →
        starts (.mma a b c tile kb true false desc) s .mma [t] blocks steps fun o =>
          o.rowsA = lines ∧ o.base = base ∧ o.mx = true ∧ o.planeA = planeA.2 ∧ o.planeB = planeB.2) ∧
      (∀ strides u, t = 0 → m.acc = false → s.Issues [indexQuad a, (Opd.src b).noPort, .third c] → s.readW c = (strides, u) →
        blocks ≤ 16 → let jo := swJO s.rdSw
        jo ≤ 3 → (∀ i ≤ jo, s.ownTile i = true ∧ (s.mtile i).rows = m.rows ∧ (s.mtile i).cols = m.cols ∧ (s.mtile i).acc = false ∧
          (s.mtile i).afmt = m.afmt ∧ (s.mtile i).bfmt = m.bfmt) →
        let sa := strides.toNat % 2 ^ 32
        let sb := strides.toNat / 2 ^ 32
        sa % 64 = 0 → sb % 64 = 0 → s.rangesFail ((List.range (jo + 1)).flatMap fun i => (base + i * sb, 64 * steps * blocks, 64) ::
          lines.map fun r => (r + i * sa, 4 * fmtWidth m.afmt.toNat * blocks, 64)) = none →
        starts (.mmj a b c kb) u .mmj (List.range (jo + 1)) (blocks * (jetPairs jo).length) steps fun o =>
          o.rowsA = lines ∧ o.base = base ∧ o.sa = sa ∧ o.sb = sb ∧ o.jo = jo)) ∧
    (∀ off : Nat, s.issue.info.pair = false → afmt.toNat < 16 → s.ownTile t = true →
      let pitch := (s.regW b.toNat).toNat
      rowBytes m.cols afmt ≤ pitch → s.addrForm (s.regW a.toNat) = some (s.core.ltn, s.core.num, off) → off % 64 = 0 → pitch % 64 = 0 →
      s.rangesFail ((List.range m.rows).map fun i => (off + i * pitch, rowBytes m.cols afmt, 1)) = none →
      (s.Issues ([(Opd.src a).noPort, (Opd.src b).noPort] ++ drawOpd s.rdSw) →
        afmt.toNat ∈ (if m.acc then [0, 1, 2, 3, 4, 5, 6, 7, 8] else [8, 9, 10, 11, 12, 13]) →
        starts (.mrd a b tile afmt) s .mrd [t] (m.rows * rowLines m.cols afmt) 1 fun o => o.base = off ∧ o.pitch = pitch ∧ o.fmt = afmt) ∧
      (s.Issues [(Opd.src a).noPort, (Opd.src b).noPort] → afmt.toNat ∈ (if m.acc then [2] else [8, 9, 10]) →
        starts (.macc a b tile afmt) s .macc [t] (m.rows * rowLines m.cols afmt) 1 fun o => o.base = off ∧ o.pitch = pitch ∧ o.fmt = afmt)) ∧
    (∀ at0 src : Nat, s.issue.info.pair = false → s.Issues [(Opd.acc d).noPort, (Opd.src a).noPort] → d ≠ a →
      s.addrForm (s.regW d.toNat) = some (s.core.ltn, s.core.num, at0) → s.addrForm (s.regW a.toNat) = some (s.core.ltn, s.core.num, src) →
      s.rangesFail [(at0, 32 * (n.toNat + 1 - swRIX s.rdSw), 32)] = none →
      starts (.xpkd d a n) s .xpkd [] (n.toNat + 1) 1 fun o => o.dst = at0 ∧ o.src = src ∧ o.regs = (d, a))

/-- 05 R137 to R139, R143; 10 R251 to R256. The events of the engines complete. A step of the stream unit whose banks are free performs its elements and
goes on; a stream whose steps are done brings its pointers and flags to its window; the window unit writes the words of an operation. A step of a
matrix operation whose operands are in the latch is counted, and a `MACC` step adds a line; an operation that is complete makes its strand READY with RIX zero, one that stopped traps.
The cycle of each step is the model's choice (log entry 20). -/
def Obligations.EngineEvents : Prop :=
  ∀ (s : State) (i : Fin 16), s.Settled → s.MemoryCanonical → s.issue.snap = none → s.core.commits = [] →
    (∀ m : Stream, s.core.streams = [m] →
      (m.ended = false → m.left = 1 → m.banks = [bankOf (m.a + 32 * m.step)] → s.bankState (bankOf (m.a + 32 * m.step)).val = 0 →
        bankOf (m.a + 32 * m.step) ∉ s.core.served → m.op < 2 →
        (∀ p ∈ [m.a + 32 * m.step, m.b + 32 * m.step], s.poisoned (s.key p) 32 = false) →
        ∀ r, m.compute (natAt s.mem (s.key (m.a + 32 * m.step)) 32) (natAt s.mem (s.key (m.b + 32 * m.step)) 32) 0 = some r →
        ∃ t, exec .streamStep s = .next t ∧
          (∀ k < 32, SMap.getD t.mem (s.key (m.d + 32 * m.step) + k) 0 = if r.mask / 2 ^ (8 * k) % 256 ≠ 0
            then BitVec.ofNat 8 (r.value / 2 ^ (8 * k)) else SMap.getD s.mem (s.key (m.d + 32 * m.step) + k) 0) ∧
          (let m' := { m with step := m.step + 1, left := 0, banks := [], ended := decide (m.n ≤ m.step + 1) }
          t.core.streams = [{ m' with flags := m.flags ||| swFlags r.flags, jf := m.jf ||| r.jf }])) ∧
      (m.ended = true → ∃ t, exec .streamComplete s = .next t ∧ t.core.streams = [] ∧ t.mem = s.mem ∧ (m.stopped = none →
        (t.slot m.slot).windows = (s.slot m.slot).windows.map fun w =>
          let ws : List WinWrite := [.reg m.regs.1 (w64 (m.d + 32 * m.step)), .reg m.regs.2.1 (w64 (m.a + 32 * m.step)),
            .reg m.regs.2.2 (w64 (m.b + 32 * m.step)), .swOr m.flags, .jfOr m.jf]
          if w.tag = m.tag then { w with arrived := true, trap := none, writes := ws } else w))) ∧
    (∀ (o : WinOp) (at_ : Nat) (w : Word), s.core.winOps = [o] → o.slot = i → (s.slot i).strand = o.strand → o.writes = [(at_, w)] →
      ∃ t, exec (.windowUnitWrite i o.tag) s = .next t ∧ t.core.winOps = [] ∧ natAt t.mem (s.key (o.addr + at_)) 8 = w.toNat ∧
        ∀ k, k < s.key (o.addr + at_) ∨ s.key (o.addr + at_) + 8 ≤ k → SMap.getD t.mem k 0 = SMap.getD s.mem k 0) ∧
    (∀ o : MatOp, s.core.mat = [o] → o.slot = i →
      (o.kind = .mma → s.matrixReady i = true → o.steps % o.perUnit + 1 < o.perUnit →
        (∀ l, (∃ k, SMap.find k o.latchA = some l) ∨ (∃ k, SMap.find k o.latchB = some l) → l.bad = none) →
        ∃ t, exec (.matrixStep i) s = .next t ∧ t.core.mat = [{ o with steps := o.steps + 1 }] ∧ t.mem = s.mem ∧
          t.core.perf[17] = s.core.perf[17] + 1 ∧ t.core.tiles = s.core.tiles) ∧
      (o.kind = .macc → s.matrixReady i = true → s.bankState (s.lineOf o o.unitNow / 2 ^ 20) = 0 →
        s.poisoned (s.key (s.lineOf o o.unitNow)) 64 = false → ∃ t, exec (.matrixStep i) s = .next t ∧ t.mem = s.mem ∧
          t.core.mat.map (·.steps) = [o.steps + 1] ∧ swRIX (t.slot i).sw = (o.unitNow + 1) % 256) ∧
      (o.stop = none → o.halt = false → ∃ t, exec (.matrixOpComplete i) s = .next t ∧ t.core.mat = [] ∧ (t.slot i).st = .ready ∧
        swRIX (t.slot i).sw = 0 ∧ t.mem = s.mem ∧ ∀ j ∈ o.tiles, j < 4 → (t.mtile j).live = false) ∧
      (∀ c, o.stop = some c → (s.slot i).handler = none → (s.slot i).emulate = none → ∃ t, exec (.matrixOpComplete i) s = .next t ∧
        t.core.mat = [] ∧ (t.slot i).st = .trapped ∧ (t.slot i).pc = o.info.fpc)) ∧
    (∀ o l, s.core.mat = [o] → o.slot = i → o.stop = none → o.halt = false → o.wantA = [] → o.wantB = [l] → o.allSteps = o.steps + 1 →
      s.bankCheck l 1 = none → s.bankBusy l = false → l % 64 = 0 → s.poisoned (s.key l) 64 = false →
      SMap.find (s.key l / 64) s.core.bufM = none → ∃ t x, exec .gatherFetch s = .next t ∧ t.mem = s.mem ∧
        t.core.mat.map (·.latchB) = [SMap.put o.steps x o.latchB] ∧ t.core.mat.map (·.wantB) = [[]] ∧ x.at_ = s.tile.cycle ∧
        x.bad = none ∧ x.bytes = bytesAt s.mem (s.key l) 64)

/-- 01 R28, R30, R31, R35; 04 R94 to R105, R113 to R115. What scalar heads leave unchanged. A head that completes changes no register but its
destination (a transfer with link: w29; a port: its queue), no flag but those named beside it, and nothing else but the strand's place
in its program; a division or a square root changes nothing before its window ends.
The context of the issue is the model's (log entry 5). -/
def Obligations.ScalarHeadFrames : Prop :=
  ∀ (s : State) (d a b : Reg) (sx : Bool) (p l : BitVec 6) (imm : BitVec 22) (g : BitVec 32) (f : BitVec 3) (f2 k2 : BitVec 2)
    (cc : BitVec 3) (x y : BitVec 5) (n : Byte) (la : BitVec 4) (sz : BitVec 2),
    s.MemoryCanonical → s.WorkspaceUnread →
    let sticky := swFlags (BitVec.allOnes 5)
    let register (r : Reg) (k : Nat) : Prop := r ≠ 31 ∧ s.wKey s.issue.slot r.toNat ≤ k ∧ k < s.wKey s.issue.slot r.toNat + 8
    let frame (i : Instr) (srcs : List Reg) (dest : Option Reg) (flags : Word) (jets : BitVec 128) : Prop :=
      ∀ t, exec i s = .next t → t.issue.result = .done →
        s.Frame t (fun k => ∃ r, dest = some r ∧ register r k) flags jets (srcs.contains 30) (dest == some 31)
    (∀ e : Instr × Word, e ∈ [(.add d a b, 0xF), (.sub d a b, 0xF), (.addx d a b, 0xF), (.mul d a b, 0), (.mulh d a b, 0), (.mulhn d a b, 0),
      (.min d a b, 0), (.max d a b, 0), (.minn d a b, 0), (.maxn d a b, 0), (.and d a b, 0), (.or d a b, 0), (.xor d a b, 0),
      (.andn d a b, 0), (.shl d a b, 0), (.shr d a b, 0), (.sar d a b, 0), (.rol d a b, 0), (.sel d a b, 0), (.rndk d a b, 0),
      (.fadd f d a b, sticky), (.fsub f d a b, sticky), (.fmul f d a b, sticky), (.ffma f d a b, sticky), (.fmin f d a b, sticky),
      (.fmax f d a b, sticky)] → frame e.1 [a, b] (some d) e.2 0) ∧
    (∀ e : Instr × Word, e ∈ [(.mov d a, 0), (.neg d a, 0xF), (.abs d a, 0), (.clz d a, 0), (.ctz d a, 0), (.popc d a, 0), (.bswap d a, 0),
      (.sextI8 d a, 0), (.sextI16 d a, 0), (.sextI32 d a, 0), (.zextN8 d a, 0), (.zextN16 d a, 0), (.zextN32 d a, 0), (.addi d a imm, 0),
      (.lih d a g, 0), (.bfx d a sx p l, 0), (.bfi d a p l, 0), (.fabs f d a, sticky), (.fneg f d a, sticky), (.fclass f d a, 0),
      (.fcvt x y d a, sticky), (.cause d a, 0)] → frame e.1 [a] (some d) e.2 0) ∧
    (∀ i : Instr, i ∈ [.li d imm, .liG d g, .topo d imm, .capr d imm, .perfr d imm, .mres d sz] → frame i [] (some d) 0 0) ∧
    frame (.cmp k2 cc a b) [a, b] none 0x3000000000F 0 ∧ frame (.cmpi k2 cc a imm) [a] none 0x3000000000F 0 ∧
    frame (.tst k2 cc a b) [a, b] none 0x3000000000F 0 ∧ frame (.fcmp k2 cc f2 a b) [a, b] none (0x3000000000F ||| sticky) 0 ∧
    (∀ i : Instr, i ∈ [.nop, .br n imm, .brc cc n imm, .jmp n imm] → frame i [] none 0 0) ∧
    frame (.ret n a) [a] none 0 0 ∧ frame (.call n imm) [] (some 29) 0 0 ∧ frame (.callr n a) [a] (some 29) 0 0 ∧
    (∀ i : Instr, i ∈ [.vredAdd x d a, .vredMin x d a, .vredMax x d a] → frame i [a] (some d) sticky 0xF) ∧
    frame (.vext sz sx d a b) [a, b] (some d) 0 0 ∧
    (∀ i : Instr, i ∈ [.div d a b la, .divn d a b la, .rem d a b la, .remn d a b la, .fdiv f d a b la, .fsqrt f d a la] →
      ∀ t, exec i s = .next t → t.issue.result = .done → t.mem = s.mem ∧ t.tile = s.tile ∧ t.rim = s.rim ∧
        (∀ j, j ≠ s.issue.slot → t.slot j = s.slot j) ∧ (∃ w, t.me = { s.me with windows := s.me.windows ++ [w] }) ∧
        t.core = { s.core with slots := t.core.slots, mq := t.core.mq, nextTag := s.core.nextTag + 1 })

/-- 01 R28, R30, R31, R36; 05 R124 to R135; 06 R147, R149, R152. What vector heads leave unchanged. A head that completes at once changes no
register but those of its destination, no flag of `sw` but those named beside it, in `jf` no flag of a coefficient above JO, and nothing
else; a head that runs long at JO 8 and above changes nothing before its window ends. -/
def Obligations.VectorHeadFrames : Prop :=
  ∀ (s : State) (d a b c : Reg) (sx sc : Bool) (f : BitVec 3) (f2 k2 : BitVec 2) (cc : BitVec 3) (x y : BitVec 5) (la : BitVec 4)
    (sz : BitVec 2), s.MemoryCanonical → s.WorkspaceUnread →
    let sticky := swFlags (BitVec.allOnes 5)
    let jo := swJO s.rdSw
    let orders : BitVec 128 := .ofNat 128 (2 ^ (4 * (jo + 1)) - 1)
    let registers (n k : Nat) : Prop :=
      d ≠ 31 ∧ s.vKey s.issue.slot d.toNat ≤ k ∧ k < s.vKey s.issue.slot d.toNat + 32 * n
    let frame (i : Instr) (srcs : List Reg) (n : Nat) (flags : Word) (jets : BitVec 128) : Prop :=
      ∀ t, exec i s = .next t → t.issue.result = .done → s.Frame t (registers n) flags jets (srcs.contains 30) (d == 31)
    let long (i : Instr) : Prop :=
      ∀ t, exec i s = .next t → t.issue.result = .done → t.mem = s.mem ∧ t.tile = s.tile ∧ t.rim = s.rim ∧
        (∀ j, j ≠ s.issue.slot → t.slot j = s.slot j) ∧ (∃ w, t.me = { s.me with windows := s.me.windows ++ [w] }) ∧
        t.core = { s.core with slots := t.core.slots, mq := t.core.mq, nextTag := s.core.nextTag + 1 }
    let jet (i : Instr) (srcs : List Reg) (form : Nat) (flags : Word) : Prop :=
      (jo < 8 → frame i srcs (spanOf form jo) flags orders) ∧ (8 ≤ jo → long i)
    (∀ i : Instr, i ∈ [.vadd f d a b, .vaddL f d a b la, .vsub f d a b, .vsubL f d a b la, .vmul f d a b, .vmulL f d a b la, .vdiv f d a b,
      .vdivL f d a b la, .vmin f d a b, .vminL f d a b la, .vmax f d a b, .vmaxL f d a b la, .vpow f d a b, .vpowL f d a b la, .vfma f d a b,
      .vfmaL f d a b la, .vfms f d a b, .vfmsL f d a b la] → jet i [a, b] (fmt3 f) sticky) ∧
    (∀ i : Instr, i ∈ [.vsqrt f d a, .vsqrtL f d a la, .vrsq f d a, .vrsqL f d a la, .vexp f d a, .vexpL f d a la, .vlog f d a,
      .vlogL f d a la, .vsin f d a, .vsinL f d a la, .vcos f d a, .vcosL f d a la, .vtanh f d a, .vtanhL f d a la, .vabs f d a, .vabsL f d a la,
      .vneg f d a, .vnegL f d a la] → jet i [a] (fmt3 f) sticky) ∧
    jet (.vcmp k2 cc f2 d a b) [a, b] (fmt2 f2) (0x3000000000F ||| sticky) ∧
    (∀ i : Instr, i ∈ [.vand d a b, .vor d a b, .vxor d a b, .vshl sz sx d a b, .vshr sz sx d a b, .viadd sz sx d a b, .visub sz sx d a b,
      .vimul sz sx d a b, .vsel d a b, .vshuf sz d a b, .vins sz d a b] → frame i [a, b] 1 0 0) ∧
    frame (.vsplat sz d a) [a] 1 0 0 ∧ frame (.vdot x d a b) [a, b] 1 sticky 0xF ∧ frame (.vrnd x y d a) [a] 1 sticky 0 ∧
    (let srcs := a :: if sc then [c] else []
    frame (.vcvt x y sc d a c) srcs 1 sticky 0 ∧ frame (.vpack x y sc d a c) srcs 1 sticky 0 ∧
      frame (.vunpack x y sc d a c) srcs (fmtWidth y.toNat / fmtWidth x.toNat) sticky 0)

/-- 01 R30; 08 R188, R189, R195, R199; 09 R221. What loads and stores leave unchanged. A store changes no byte but those of its access, at
the place that its address names in the own slice (another slice's home performs it later), and of its address register by post-increment;
a load no byte but those of its destination, once the value is there, and of that register. No flag, no other slot, no special register
and no state of an engine changes. -/
def Obligations.MemoryHeadFrames : Prop :=
  ∀ (s : State) (d a b : Reg) (size sc : BitVec 2) (n pi : Bool) (la : BitVec 4) (off : BitVec 18), s.MemoryCanonical → s.Settled →
    let bytes := 2 ^ size.toNat
    let address := formM s a off
    let indexed := s.regW a.toNat + ((s.readW b).1 <<< sc.toNat)
    let scalar (r : Reg) : Nat × Nat := (s.wKey s.issue.slot r.toNat, 8)
    let inside (r : Nat × Nat) (k : Nat) : Prop := r.1 ≤ k ∧ k < r.1 + r.2
    let rest (t : State) (pops : Bool) : Prop :=
      t.me = { s.me with windows := t.me.windows } ∧ (∀ j, j ≠ s.issue.slot → t.slot j = s.slot j) ∧
      (∀ q, (pops = true ∧ s.me.qi = some q) ∨ t.core.mq[q] = s.core.mq[q]) ∧
      (let tags := { s.core with slots := t.core.slots, mq := t.core.mq, nextTag := t.core.nextTag }
      t.core = { tags with reads := t.core.reads, served := t.core.served }) ∧
      t.rim = s.rim ∧ t.metas = s.metas ∧ t.poison = s.poison ∧ t.tile.events = s.tile.events ∧ t.tile.hold = s.tile.hold ∧
      t.clkAgenda = s.clkAgenda ∧ t.inputs = s.inputs ∧ t.issue = s.issue ∧ t.fresh = s.fresh
    let loads (i : Instr) (ea : Word) (size : Nat) (dest : Nat × Nat) (inc pops : Bool) : Prop :=
      ∀ t, exec i s = .next t → t.issue.result = .done → rest t pops ∧
        ∀ k, ¬ ((∃ o, s.checkAddr ea size size = .here o) ∧ inside dest k) → ¬ (inc = true ∧ inside (scalar a) k) →
          SMap.getD t.mem k 0 = SMap.getD s.mem k 0
    let stores (i : Instr) (ea : Word) (size : Nat) (inc pops : Bool) : Prop :=
      ∀ t, exec i s = .next t → t.issue.result = .done → rest t pops ∧
        ∀ k, (∀ o, s.checkAddr ea size size = .here o → ¬ inside (s.key o, size) k) → ¬ (inc = true ∧ inside (scalar a) k) →
          SMap.getD t.mem k 0 = SMap.getD s.mem k 0
    loads (.ld size n pi d a la off) address bytes (scalar d) pi false ∧
    loads (.ldv pi d a la off) address 32 (s.vKey s.issue.slot d.toNat, 32) pi false ∧
    loads (.ldg size n pi d a b la sc) indexed bytes (scalar d) pi (b == 30) ∧
    loads (.lda size n d a b la) (s.regW a.toNat) bytes (scalar d) false (b == 30) ∧
    stores (.st size pi d a off) address bytes pi (d == 30) ∧
    stores (.stv pi d a off) address 32 pi (d == 30) ∧
    (let popped := ((s.readW d).2.readW b).1
    stores (.stg size pi d a b sc) (s.regW a.toNat + (popped <<< sc.toNat)) bytes pi (d == 30 || b == 30)) ∧
    stores (.stl size d a b) (s.regW a.toNat) bytes false (d == 30 || b == 30)

/-- 01 R19; 03 R66 to R71, R77, R79, R80; 04 R109. A step runs the decoded instruction: in a tile that runs, when nothing outside the strands falls due and
the rotation comes to a READY strand with no window to end, no trap to raise and no skip count, the head that it fetches, when its
bits decode to an instruction (under the steps of its loops), is executed in the context of its turn, folded first; then the heads of
open windows and the loops are counted and the cycle ends; the checker finds no mismatch in the cycle. The head fetched is the one
whose bytes stand at the program counter.
The context of the turn is the model's (log entry 5). -/
def Obligations.StepRunsTheDecodedInstruction : Prop :=
  (∀ (s u : State) (i : Fin 16) (h : LineHead) (instr : Instr) (n : Int),
    popDue s.clk s.clkAgenda = none → s.replayOver = false → s.tile.frozen = false → s.recordDue = none → s.notchFirst = none →
    s.popInput s.inputs = none → popDue s.tile.cycle s.agenda = none → s.serveEngine.picked = some i →
    let x := s.slot i
    let e := s.serveEngine
    x.st = .ready → x.bucker = false → s.wpValid x.wp.toNat = true → (∀ c, s.bankCheck x.wp.toNat 768 ≠ some (.trap c)) →
    s.endedWindows i = [] → x.deferred = [] → swSKIP x.sw = 0 → s.upsets.contains s.tile.cycle = false →
    ((e.takeTurn i).beginTurn i).fetchHead i x.pc = .head h u → h.head.getLsbD 15 = false → effective x.loops h = (.ok instr, n) →
    let after := foldHead x.fold h.head
    let sig := if blockEnding h.head then some (sigOf h.head h.tail) else bodyEndSig x.loops h.pc
    sig = none ∨ sig = some after →
    let p := u.prepare i h.pc h false h.next (loopUpdate x.loops h.pc h.next).2 (if x.ends then 0x5A else after)
      (if sig.isSome || x.ends then 0x5A else after) x.emulate n
    ∀ v, exec instr p = .next v →
      (v.issue.result = .done → step s = restOfCycle e.streamDue true (v.finish 1 h (u.slot i))) ∧
      (v.issue.result = .partway ∨ v.issue.result = .slept ∨ (∃ c r d, v.issue.result = .trapped c r d) →
        step s = restOfCycle e.streamDue true v) ∧
      (v.issue.result = .forfeited → step s = andThen
        ((v.modSlot i fun y => { y with waitFrom := some (y.waitFrom.getD s.tile.cycle) }).spareCycle v.core.matRot)
        (restOfCycle e.streamDue true))) ∧
  (∀ (s : State) (i : Fin 16) (pc : BitVec 22) (hs : List LineHead) (h : LineHead),
    let base := pc.toNat / 64 * 64
    let line := lineAt s.rdMem (s.key base)
    (s.slot i).loops = [] → (s.slot i).line = none → pc.getLsbD 0 = false → pc.toNat < s.rim.visibleTop →
    s.bankCheck base 64 = none → s.poisoned (s.key base) 64 = false → lineHeads base line = some hs →
    hs.find? (fun g => g.pc == pc) = some h →
    s.fetchHead i pc = .head h ((s.countReads 1).modSlot i fun x => { x with line := some (.ofNat 22 base, line) }))

/-- 03 R66, R67, R71 to R77. Decoding and encoding agree: every well-formed instruction that has an encoding is decoded from it, with every operand at
every value that its fields admit; the pairing bit is zero and no bit of the tail stands beyond its form; and whatever the decoder
accepts has that encoding again, the pairing bit apart, so that no bit of a head or tail is ignored. -/
def Obligations.DecodeInvertsEncode : Prop :=
  (∀ (i : Instr) (c : Code), i.wf = true → encode i = some c →
    decode c = .ok i ∧ c.head.getLsbD 15 = false ∧ c.tail.toNat < 2 ^ (16 * tailLen c.head)) ∧
  (∀ (i : Instr) (c : Code), c.tail.toNat < 2 ^ (16 * tailLen c.head) → decode c = .ok i →
    i.wf = true ∧ encode i = some ⟨c.head &&& 0x7FFF, c.tail⟩)

/-- 03 R76, R77, R83; 04 R103; 05 R133, R140; 09 R229 to R231; 12 R305, R307; 16 R391; 17 R397, R402; 19 R453, R459; 21 R500. The words that the manual writes out decode to the
instructions it gives them for; the reserved majors are none. -/
def Obligations.WordsOfTheManualDecode : Prop :=
  decode ⟨0x4868, 0x20800000⟩ = .ok (.ld 3 false true 4 2 0 0) ∧ decode ⟨0x2080, 0x2948⟩ = .ok (.add 5 5 4) ∧
  decode ⟨0x4180, 0x18FFFFFF⟩ = .ok (.addi 3 3 0x3FFFFF) ∧ decode ⟨0x4304, 0x00C00000⟩ = .ok (.cmpi 0 1 3 0) ∧
  decode ⟨0x4389, 0xC03FFFF8⟩ = .ok (.brc 1 0xC0 0x3FFFF8) ∧ decode ⟨0x22A8, 0x01C8⟩ = .ok (.cmp 1 2 7 4) ∧
  decode ⟨0x5A84, 0x293C0008⟩ = .ok (.vredq 8 5 4) ∧ decode ⟨0x5C00, 0x30C80102⟩ = .ok (.vaddM 0 6 3 4 1 2) ∧
  decode ⟨0x5302, 0x01900100⟩ = .ok (.ckexcl 6 1 0x100) ∧
  (∀ maj ∈ [0x00, 0x27, 0x28, 0x29, 0x2A, 0x2B, 0x2C, 0x2D, 0x2E, 0x2F, 0x3E, 0x3F], ∀ t : BitVec 2, ∀ m : BitVec 7,
    decode ⟨.ofNat 16 (t.toNat * 8192 + maj * 128 + m.toNat), 0⟩ = .illegal .reservedMajor)

/-- 01 R12, R26, R33, R35, R36; 03 R78; 07 R176; 08 R189, R211; 10 R241; 11 R275, R281; 12 R301; 13 R314; 16 R371; 17 R410; 18 R425; 19 R432, R439; 21 R498, R499. What reset leaves, where the manual gives a
value: every slot EMPTY with the word, flags and fold of a new strand; RMAX 3, every bank ACTIVE, no vector on; counters, tiles, queues,
events and barriers clear; no stand valid; the notch interval 20 and WDL 21; the memory's capacities and the cords of every field; and
memory in its canonical form, with nothing listed. -/
def Obligations.ResetLeaves : Prop :=
  let s := State.reset
  (∀ i, (s.slot i).st = .empty ∧ (s.slot i).sw = 0xFF00 ∧ (s.slot i).jf = 0 ∧ (s.slot i).fold = 0x5A ∧ (s.slot i).windows = [] ∧
    (s.slot i).loops = [] ∧ (s.slot i).qi = none ∧ (s.slot i).qo = none) ∧
  s.core.droop = 3 ∧ s.core.bankpm = 0 ∧ (∀ g : Fin 16, s.core.thv[g] = 0) ∧ (∀ k : Fin 16, s.core.k[k] = ⟨0, 0, 0⟩) ∧
  (∀ t : Fin 4, s.core.tiles[t].words = [] ∧ s.core.tiles[t].configured = false ∧ s.core.tiles[t].owner = none) ∧
  (∀ q : Fin 16, s.core.dq[q].valid = false) ∧ (∀ q : Fin 8, s.core.mq[q] = []) ∧ (∀ n : Fin 64, s.core.perf[n] = 0) ∧
  s.core.bars = [] ∧ s.core.bucker.enabled = false ∧ s.core.pg = [] ∧ (∀ q : Fin 4, s.tile.events[q] = 0) ∧ s.tile.table = [] ∧
  s.tile.hold = [] ∧ s.rim.stands = [] ∧ s.tile.niv = 20 ∧ s.tile.wdl = 21 ∧ s.tile.notch.st = .run ∧ s.tile.notch.n = 1 ∧
  s.rim.visibleTop = 0x2A0000 ∧ s.rim.hbmcap = 2480 * 2 ^ 30 ∧ s.rim.active.length = 1280 ∧ s.rim.bmax = 8 ∧
  s.rim.lmsleft = 2 ^ 30 ∧ (∀ f < 16, (SMap.find f s.rim.fields).map (·.cords) = some 4) ∧
  emptyStand.cretry = 3 ∧ emptyStand.ctmo = 100 ∧ emptyStand.tierctl = 0x100000403E8 ∧
  s.mem = [] ∧ s.metas = [] ∧ s.poison = [] ∧ s.MemoryCanonical

/-- The model's own invariant (08 R188; INVENTORY, Memory and ordering). Every step keeps memory in its canonical form: addresses strictly rising, and no
byte listed that holds what an unlisted address reads as (0: log entry 4, the model's choice for device memory), so that equal
memories are equal data. -/
def Obligations.EveryStepKeepsMemoryCanonical : Prop :=
  ∀ s t : State, s.MemoryCanonical → step s = .next t → t.MemoryCanonical
end

