-- ==== Sys2Proof/Laws/Exec.lean ====
section
/-! SUPPORT. Which meaning each instruction has, as rewriting rules: one per constructor. -/

namespace Sys2Proof.Machine

@[simp] theorem exec_seedUpdateArrival (hi v s) : exec (.seedUpdateArrival hi v) s = execSeedUpdateArrival hi v s := rfl
@[simp] theorem exec_handlerStarved (slot s) : exec (.handlerStarved slot) s = execHandlerStarved slot s := rfl
@[simp] theorem exec_supervisorRoute (slot s) : exec (.supervisorRoute slot) s = execSupervisorRoute slot s := rfl
@[simp] theorem exec_atomicExecute (q s) : exec (.atomicExecute q) s = execAtomicExecute q s := rfl
@[simp] theorem exec_raddUnitAdd (q s) : exec (.raddUnitAdd q) s = execRaddUnitAdd q s := rfl
@[simp] theorem exec_remoteStorePerform (q s) : exec (.remoteStorePerform q) s = execRemoteStorePerform q s := rfl
@[simp] theorem exec_remoteLoadServe (q s) : exec (.remoteLoadServe q) s = execRemoteLoadServe q s := rfl
@[simp] theorem exec_replyArrival (r s) : exec (.replyArrival r) s = execReplyArrival r s := rfl
@[simp] theorem exec_longResultArrival (slot tag s) : exec (.longResultArrival slot tag) s = execLongResultArrival slot tag s := rfl
@[simp] theorem exec_bankWakeDone (bank s) : exec (.bankWakeDone bank) s = execBankWakeDone bank s := rfl
@[simp] theorem exec_prefFill (ea x s) : exec (.prefFill ea x) s = execPrefFill ea x s := rfl
@[simp] theorem exec_putgetUnit (id unit s) : exec (.putgetUnit id unit) s = execPutgetUnit id unit s := rfl
@[simp] theorem exec_putgetEntryComplete (id s) : exec (.putgetEntryComplete id) s = execPutgetEntryComplete id s := rfl
@[simp] theorem exec_remoteCounterIncrement (q s) : exec (.remoteCounterIncrement q) s = execRemoteCounterIncrement q s := rfl
@[simp] theorem exec_translationWalk (va s) : exec (.translationWalk va) s = execTranslationWalk va s := rfl
@[simp] theorem exec_rowSectorEviction (base s) : exec (.rowSectorEviction base) s = execRowSectorEviction base s := rfl
@[simp] theorem exec_taskSettle (slot s) : exec (.taskSettle slot) s = execTaskSettle slot s := rfl
@[simp] theorem exec_taskCommit (slot s) : exec (.taskCommit slot) s = execTaskCommit slot s := rfl
@[simp] theorem exec_frontierChange (s) : exec (.frontierChange) s = execFrontierChange s := rfl
@[simp] theorem exec_matrixStep (slot s) : exec (.matrixStep slot) s = execMatrixStep slot s := rfl
@[simp] theorem exec_gatherFetch (s) : exec (.gatherFetch) s = execGatherFetch s := rfl
@[simp] theorem exec_matrixOpComplete (slot s) : exec (.matrixOpComplete slot) s = execMatrixOpComplete slot s := rfl
@[simp] theorem exec_streamStep (s) : exec (.streamStep) s = execStreamStep s := rfl
@[simp] theorem exec_streamComplete (s) : exec (.streamComplete) s = execStreamComplete s := rfl
@[simp] theorem exec_windowUnitWrite (slot tag s) : exec (.windowUnitWrite slot tag) s = execWindowUnitWrite slot tag s := rfl
@[simp] theorem exec_arrivalReceive (v s) : exec (.arrivalReceive v) s = execArrivalReceive v s := rfl
@[simp] theorem exec_arrivalResend (v s) : exec (.arrivalResend v) s = execArrivalResend v s := rfl
@[simp] theorem exec_slotFill (s) : exec (.slotFill) s = execSlotFill s := rfl
@[simp] theorem exec_stealProbe (found s) : exec (.stealProbe found) s = execStealProbe found s := rfl
@[simp] theorem exec_yieldExpiry (slot s) : exec (.yieldExpiry slot) s = execYieldExpiry slot s := rfl
@[simp] theorem exec_remoteSetevArrival (sltn seq q mask s) : exec (.remoteSetevArrival sltn seq q mask) s = execRemoteSetevArrival sltn seq q mask s := rfl
@[simp] theorem exec_eventUnitCycle (s) : exec (.eventUnitCycle) s = execEventUnitCycle s := rfl
@[simp] theorem exec_barcfgAnswer (slot ok s) : exec (.barcfgAnswer slot ok) s = execBarcfgAnswer slot ok s := rfl
@[simp] theorem exec_barrierCombine (q s) : exec (.barrierCombine q) s = execBarrierCombine q s := rfl
@[simp] theorem exec_barrierReleaseWake (b gen res s) : exec (.barrierReleaseWake b gen res) s = execBarrierReleaseWake b gen res s := rfl
@[simp] theorem exec_messageAccept (m s) : exec (.messageAccept m) s = execMessageAccept m s := rfl
@[simp] theorem exec_redirect (m s) : exec (.redirect m) s = execRedirect m s := rfl
@[simp] theorem exec_rtoResend (id s) : exec (.rtoResend id) s = execRtoResend id s := rfl
@[simp] theorem exec_refusalResend (id s) : exec (.refusalResend id) s = execRefusalResend id s := rfl
@[simp] theorem exec_deadLetterNotice (sltn seq s) : exec (.deadLetterNotice sltn seq) s = execDeadLetterNotice sltn seq s := rfl
@[simp] theorem exec_mailboxWrite (id s) : exec (.mailboxWrite id) s = execMailboxWrite id s := rfl
@[simp] theorem exec_buckerBuck (s) : exec (.buckerBuck) s = execBuckerBuck s := rfl
@[simp] theorem exec_buckerReplay (s) : exec (.buckerReplay) s = execBuckerReplay s := rfl
@[simp] theorem exec_keyringChangeApply (ltn e s) : exec (.keyringChangeApply ltn e) s = execKeyringChangeApply ltn e s := rfl
@[simp] theorem exec_deltaPacketAccept (m s) : exec (.deltaPacketAccept m) s = execDeltaPacketAccept m s := rfl
@[simp] theorem exec_knownFrontierUpdate (t s) : exec (.knownFrontierUpdate t) s = execKnownFrontierUpdate t s := rfl
@[simp] theorem exec_wpsetSwitchDone (slot s) : exec (.wpsetSwitchDone slot) s = execWpsetSwitchDone slot s := rfl
@[simp] theorem exec_parkRequestServe (q s) : exec (.parkRequestServe q) s = execParkRequestServe q s := rfl
@[simp] theorem exec_spill (slot s) : exec (.spill slot) s = execSpill slot s := rfl
@[simp] theorem exec_reload (slot s) : exec (.reload slot) s = execReload slot s := rfl
@[simp] theorem exec_rtsetApply (n e s) : exec (.rtsetApply n e) s = execRtsetApply n e s := rfl
@[simp] theorem exec_tlbinvApply (all va s) : exec (.tlbinvApply all va) s = execTlbinvApply all va s := rfl
@[simp] theorem exec_pgattrComplete (slot s) : exec (.pgattrComplete slot) s = execPgattrComplete slot s := rfl
@[simp] theorem exec_boostInterval (s) : exec (.boostInterval) s = execBoostInterval s := rfl
@[simp] theorem exec_launchRecord (slot s) : exec (.launchRecord slot) s = execLaunchRecord slot s := rfl
@[simp] theorem exec_launchSlotWrite (slot off len data s) : exec (.launchSlotWrite slot off len data) s = execLaunchSlotWrite slot off len data s := rfl
@[simp] theorem exec_launchStart (stand s) : exec (.launchStart stand) s = execLaunchStart stand s := rfl
@[simp] theorem exec_launchEnd (close s) : exec (.launchEnd close) s = execLaunchEnd close s := rfl
@[simp] theorem exec_swapOut (s) : exec (.swapOut) s = execSwapOut s := rfl
@[simp] theorem exec_swapIn (s) : exec (.swapIn) s = execSwapIn s := rfl
@[simp] theorem exec_notchPoint (s) : exec (.notchPoint) s = execNotchPoint s := rfl
@[simp] theorem exec_earlyNotch (s) : exec (.earlyNotch) s = execEarlyNotch s := rfl
@[simp] theorem exec_notchCapture (s) : exec (.notchCapture) s = execNotchCapture s := rfl
@[simp] theorem exec_notchCopyLine (s) : exec (.notchCopyLine) s = execNotchCopyLine s := rfl
@[simp] theorem exec_notchCommit (s) : exec (.notchCommit) s = execNotchCommit s := rfl
@[simp] theorem exec_shadowFold (s) : exec (.shadowFold) s = execShadowFold s := rfl
@[simp] theorem exec_rebase (s) : exec (.rebase) s = execRebase s := rfl
@[simp] theorem exec_waitExpired (slot s) : exec (.waitExpired slot) s = execWaitExpired slot s := rfl
@[simp] theorem exec_tileWatchdog (s) : exec (.tileWatchdog) s = execTileWatchdog s := rfl
@[simp] theorem exec_tileFault (kind core fpc s) : exec (.tileFault kind core fpc) s = execTileFault kind core fpc s := rfl
@[simp] theorem exec_fieldPowerLoss (field s) : exec (.fieldPowerLoss field) s = execFieldPowerLoss field s := rfl
@[simp] theorem exec_siteUnreachable (row col s) : exec (.siteUnreachable row col) s = execSiteUnreachable row col s := rfl
@[simp] theorem exec_select (s) : exec (.select) s = execSelect s := rfl
@[simp] theorem exec_restore (s) : exec (.restore) s = execRestore s := rfl
@[simp] theorem exec_replay (s) : exec (.replay) s = execReplay s := rfl
@[simp] theorem exec_bind (s) : exec (.bind) s = execBind s := rfl
@[simp] theorem exec_release (s) : exec (.release) s = execRelease s := rfl
@[simp] theorem exec_catchStore (c s) : exec (.catchStore c) s = execCatchStore c s := rfl
@[simp] theorem exec_foldTile (s) : exec (.foldTile) s = execFoldTile s := rfl
@[simp] theorem exec_foldResidencySwitch (s) : exec (.foldResidencySwitch) s = execFoldResidencySwitch s := rfl
@[simp] theorem exec_recoveryFail (s) : exec (.recoveryFail) s = execRecoveryFail s := rfl
@[simp] theorem exec_hostMemAccess (w addr data s) :
    exec (.hostMemAccess w addr data) s = execHostMemAccess w addr data s := rfl
@[simp] theorem exec_peerAccess (w src offset data s) :
    exec (.peerAccess w src offset data) s = execPeerAccess w src offset data s := rfl
@[simp] theorem exec_scaleoutPacketReceive (port stand src body s) : exec (.scaleoutPacketReceive port stand src body) s = execScaleoutPacketReceive port stand src body s := rfl
@[simp] theorem exec_laneRetire (port s) : exec (.laneRetire port) s = execLaneRetire port s := rfl
@[simp] theorem exec_portRekey (port s) : exec (.portRekey port) s = execPortRekey port s := rfl
@[simp] theorem exec_collectiveStepReceive (tag step chunk data s) : exec (.collectiveStepReceive tag step chunk data) s = execCollectiveStepReceive tag step chunk data s := rfl
@[simp] theorem exec_collectiveStepAck (tag step s) : exec (.collectiveStepAck tag step) s = execCollectiveStepAck tag step s := rfl
@[simp] theorem exec_collectiveStepTimeout (tag step s) : exec (.collectiveStepTimeout tag step) s = execCollectiveStepTimeout tag step s := rfl
@[simp] theorem exec_tierEpochEnd (s) : exec (.tierEpochEnd) s = execTierEpochEnd s := rfl
@[simp] theorem exec_tierCopyLine (pair s) : exec (.tierCopyLine pair) s = execTierCopyLine pair s := rfl
@[simp] theorem exec_tierSwitch (pair s) : exec (.tierSwitch pair) s = execTierSwitch pair s := rfl
@[simp] theorem exec_jobCheckpointService (s) : exec (.jobCheckpointService) s = execJobCheckpointService s := rfl
@[simp] theorem exec_jobRestore (stand s) : exec (.jobRestore stand) s = execJobRestore stand s := rfl
@[simp] theorem exec_channelRetire (ch s) : exec (.channelRetire ch) s = execChannelRetire ch s := rfl
@[simp] theorem exec_stripeMove (s) : exec (.stripeMove) s = execStripeMove s := rfl
@[simp] theorem exec_dieMapOut (s) : exec (.dieMapOut) s = execDieMapOut s := rfl
@[simp] theorem exec_mapOutAck (s) : exec (.mapOutAck) s = execMapOutAck s := rfl
@[simp] theorem exec_firmwareMeasure (image s) : exec (.firmwareMeasure image) s = execFirmwareMeasure image s := rfl
@[simp] theorem exec_hingeAcknowledgement (n s) : exec (.hingeAcknowledgement n) s = execHingeAcknowledgement n s := rfl
@[simp] theorem exec_scaleoutPortDown (port s) : exec (.scaleoutPortDown port) s = execScaleoutPortDown port s := rfl
@[simp] theorem exec_scaleoutPortUp (port s) : exec (.scaleoutPortUp port) s = execScaleoutPortUp port s := rfl
@[simp] theorem exec_hostLinkDown (s) : exec (.hostLinkDown) s = execHostLinkDown s := rfl
@[simp] theorem exec_hostLinkUp (width s) : exec (.hostLinkUp width) s = execHostLinkUp width s := rfl
@[simp] theorem exec_cxlSnoop (addr s) : exec (.cxlSnoop addr) s = execCxlSnoop addr s := rfl
@[simp] theorem exec_standGrantWrite (stand hbm far secret s) : exec (.standGrantWrite stand hbm far secret) s = execStandGrantWrite stand hbm far secret s := rfl
@[simp] theorem exec_hostApertureWrite (n w0 w1 s) : exec (.hostApertureWrite n w0 w1) s = execHostApertureWrite n w0 w1 s := rfl
@[simp] theorem exec_peerExportWrite (n w0 w1 s) : exec (.peerExportWrite n w0 w1) s = execPeerExportWrite n w0 w1 s := rfl
@[simp] theorem exec_podConfigure (stand members rank s) : exec (.podConfigure stand members rank) s = execPodConfigure stand members rank s := rfl
@[simp] theorem exec_standDelegationWrite (stand stands keys s) : exec (.standDelegationWrite stand stands keys) s = execStandDelegationWrite stand stands keys s := rfl
@[simp] theorem exec_auditLogAck (n s) : exec (.auditLogAck n) s = execAuditLogAck n s := rfl
@[simp] theorem exec_modulePowerOn (modid s) : exec (.modulePowerOn modid) s = execModulePowerOn modid s := rfl
@[simp] theorem exec_linkRetry (port s) : exec (.linkRetry port) s = execLinkRetry port s := rfl
@[simp] theorem exec_add (d a b s) : exec (.add d a b) s = execAdd d a b s := rfl
@[simp] theorem exec_sub (d a b s) : exec (.sub d a b) s = execSub d a b s := rfl
@[simp] theorem exec_mul (d a b s) : exec (.mul d a b) s = execMul d a b s := rfl
@[simp] theorem exec_mulh (d a b s) : exec (.mulh d a b) s = execMulh d a b s := rfl
@[simp] theorem exec_mulhn (d a b s) : exec (.mulhn d a b) s = execMulhn d a b s := rfl
@[simp] theorem exec_div (d a b la s) : exec (.div d a b la) s = execDiv d a b la s := rfl
@[simp] theorem exec_divn (d a b la s) : exec (.divn d a b la) s = execDivn d a b la s := rfl
@[simp] theorem exec_rem (d a b la s) : exec (.rem d a b la) s = execRem d a b la s := rfl
@[simp] theorem exec_remn (d a b la s) : exec (.remn d a b la) s = execRemn d a b la s := rfl
@[simp] theorem exec_min (d a b s) : exec (.min d a b) s = execMin d a b s := rfl
@[simp] theorem exec_max (d a b s) : exec (.max d a b) s = execMax d a b s := rfl
@[simp] theorem exec_minn (d a b s) : exec (.minn d a b) s = execMinn d a b s := rfl
@[simp] theorem exec_maxn (d a b s) : exec (.maxn d a b) s = execMaxn d a b s := rfl
@[simp] theorem exec_and (d a b s) : exec (.and d a b) s = execAnd d a b s := rfl
@[simp] theorem exec_or (d a b s) : exec (.or d a b) s = execOr d a b s := rfl
@[simp] theorem exec_xor (d a b s) : exec (.xor d a b) s = execXor d a b s := rfl
@[simp] theorem exec_andn (d a b s) : exec (.andn d a b) s = execAndn d a b s := rfl
@[simp] theorem exec_shl (d a b s) : exec (.shl d a b) s = execShl d a b s := rfl
@[simp] theorem exec_shr (d a b s) : exec (.shr d a b) s = execShr d a b s := rfl
@[simp] theorem exec_sar (d a b s) : exec (.sar d a b) s = execSar d a b s := rfl
@[simp] theorem exec_rol (d a b s) : exec (.rol d a b) s = execRol d a b s := rfl
@[simp] theorem exec_addx (d a b s) : exec (.addx d a b) s = execAddx d a b s := rfl
@[simp] theorem exec_sel (d a b s) : exec (.sel d a b) s = execSel d a b s := rfl
@[simp] theorem exec_mov (d a s) : exec (.mov d a) s = execMov d a s := rfl
@[simp] theorem exec_neg (d a s) : exec (.neg d a) s = execNeg d a s := rfl
@[simp] theorem exec_abs (d a s) : exec (.abs d a) s = execAbs d a s := rfl
@[simp] theorem exec_clz (d a s) : exec (.clz d a) s = execClz d a s := rfl
@[simp] theorem exec_ctz (d a s) : exec (.ctz d a) s = execCtz d a s := rfl
@[simp] theorem exec_popc (d a s) : exec (.popc d a) s = execPopc d a s := rfl
@[simp] theorem exec_bswap (d a s) : exec (.bswap d a) s = execBswap d a s := rfl
@[simp] theorem exec_sextI8 (d a s) : exec (.sextI8 d a) s = execSextI8 d a s := rfl
@[simp] theorem exec_sextI16 (d a s) : exec (.sextI16 d a) s = execSextI16 d a s := rfl
@[simp] theorem exec_sextI32 (d a s) : exec (.sextI32 d a) s = execSextI32 d a s := rfl
@[simp] theorem exec_zextN8 (d a s) : exec (.zextN8 d a) s = execZextN8 d a s := rfl
@[simp] theorem exec_zextN16 (d a s) : exec (.zextN16 d a) s = execZextN16 d a s := rfl
@[simp] theorem exec_zextN32 (d a s) : exec (.zextN32 d a) s = execZextN32 d a s := rfl
@[simp] theorem exec_addi (d a imm s) : exec (.addi d a imm) s = execAddi d a imm s := rfl
@[simp] theorem exec_li (d imm s) : exec (.li d imm) s = execLi d imm s := rfl
@[simp] theorem exec_liG (d imm s) : exec (.liG d imm) s = execLiG d imm s := rfl
@[simp] theorem exec_lih (d a imm s) : exec (.lih d a imm) s = execLih d a imm s := rfl
@[simp] theorem exec_bfx (d a z pos len1 s) : exec (.bfx d a z pos len1) s = execBfx d a z pos len1 s := rfl
@[simp] theorem exec_bfi (d a pos len1 s) : exec (.bfi d a pos len1) s = execBfi d a pos len1 s := rfl
@[simp] theorem exec_cmp (k cc a b s) : exec (.cmp k cc a b) s = execCmp k cc a b s := rfl
@[simp] theorem exec_cmpi (k cc a imm s) : exec (.cmpi k cc a imm) s = execCmpi k cc a imm s := rfl
@[simp] theorem exec_tst (k cc a b s) : exec (.tst k cc a b) s = execTst k cc a b s := rfl
@[simp] theorem exec_br (sig tgt s) : exec (.br sig tgt) s = execBr sig tgt s := rfl
@[simp] theorem exec_brc (cc sig tgt s) : exec (.brc cc sig tgt) s = execBrc cc sig tgt s := rfl
@[simp] theorem exec_jmp (sig tgt s) : exec (.jmp sig tgt) s = execJmp sig tgt s := rfl
@[simp] theorem exec_call (sig tgt s) : exec (.call sig tgt) s = execCall sig tgt s := rfl
@[simp] theorem exec_callr (sig a s) : exec (.callr sig a) s = execCallr sig a s := rfl
@[simp] theorem exec_ret (sig a s) : exec (.ret sig a) s = execRet sig a s := rfl
@[simp] theorem exec_nop (s) : exec (.nop) s = execNop s := rfl
@[simp] theorem exec_loop (sig sigb a len inc s) : exec (.loop sig sigb a len inc) s = execLoop sig sigb a len inc s := rfl
@[simp] theorem exec_loopi (sig sigb len inc cnt s) : exec (.loopi sig sigb len inc cnt) s = execLoopi sig sigb len inc cnt s := rfl
@[simp] theorem exec_fadd (fmt d a b s) : exec (.fadd fmt d a b) s = execFadd fmt d a b s := rfl
@[simp] theorem exec_fsub (fmt d a b s) : exec (.fsub fmt d a b) s = execFsub fmt d a b s := rfl
@[simp] theorem exec_fmul (fmt d a b s) : exec (.fmul fmt d a b) s = execFmul fmt d a b s := rfl
@[simp] theorem exec_ffma (fmt d a b s) : exec (.ffma fmt d a b) s = execFfma fmt d a b s := rfl
@[simp] theorem exec_fdiv (fmt d a b la s) : exec (.fdiv fmt d a b la) s = execFdiv fmt d a b la s := rfl
@[simp] theorem exec_fsqrt (fmt d a la s) : exec (.fsqrt fmt d a la) s = execFsqrt fmt d a la s := rfl
@[simp] theorem exec_fmin (fmt d a b s) : exec (.fmin fmt d a b) s = execFmin fmt d a b s := rfl
@[simp] theorem exec_fmax (fmt d a b s) : exec (.fmax fmt d a b) s = execFmax fmt d a b s := rfl
@[simp] theorem exec_fabs (fmt d a s) : exec (.fabs fmt d a) s = execFabs fmt d a s := rfl
@[simp] theorem exec_fneg (fmt d a s) : exec (.fneg fmt d a) s = execFneg fmt d a s := rfl
@[simp] theorem exec_fclass (fmt d a s) : exec (.fclass fmt d a) s = execFclass fmt d a s := rfl
@[simp] theorem exec_fcmp (k cc fmt a b s) : exec (.fcmp k cc fmt a b) s = execFcmp k cc fmt a b s := rfl
@[simp] theorem exec_fcvt (src dst d a s) : exec (.fcvt src dst d a) s = execFcvt src dst d a s := rfl
@[simp] theorem exec_topo (d n s) : exec (.topo d n) s = execTopo d n s := rfl
@[simp] theorem exec_capr (d n s) : exec (.capr d n) s = execCapr d n s := rfl
@[simp] theorem exec_srd (d n s) : exec (.srd d n) s = execSrd d n s := rfl
@[simp] theorem exec_swr (a n s) : exec (.swr a n) s = execSwr a n s := rfl
@[simp] theorem exec_sysSwWrite (a s) : exec (.sysSwWrite a) s = execSysSwWrite a s := rfl
@[simp] theorem exec_sseedWrite (hi a s) : exec (.sseedWrite hi a) s = execSseedWrite hi a s := rfl
@[simp] theorem exec_bankpmWrite (a s) : exec (.bankpmWrite a) s = execBankpmWrite a s := rfl
@[simp] theorem exec_nivWrite (a s) : exec (.nivWrite a) s = execNivWrite a s := rfl
@[simp] theorem exec_ptrootWrite (a s) : exec (.ptrootWrite a) s = execPtrootWrite a s := rfl
@[simp] theorem exec_collectiveStart (a s) : exec (.collectiveStart a) s = execCollectiveStart a s := rfl
@[simp] theorem exec_jckptWrite (a s) : exec (.jckptWrite a) s = execJckptWrite a s := rfl
@[simp] theorem exec_perfr (d n s) : exec (.perfr d n) s = execPerfr d n s := rfl
@[simp] theorem exec_rndk (d a b s) : exec (.rndk d a b) s = execRndk d a b s := rfl
@[simp] theorem exec_trap (code s) : exec (.trap code) s = execTrap code s := rfl
@[simp] theorem exec_rett (sig a s) : exec (.rett sig a) s = execRett sig a s := rfl
@[simp] theorem exec_seth (a g s) : exec (.seth a g) s = execSeth a g s := rfl
@[simp] theorem exec_cause (d a s) : exec (.cause d a) s = execCause d a s := rfl
@[simp] theorem exec_smode (m s) : exec (.smode m) s = execSmode m s := rfl
@[simp] theorem exec_smodeServed (m s) : exec (.smodeServed m) s = execSmodeServed m s := rfl
@[simp] theorem exec_ld (size n pi d a la off s) : exec (.ld size n pi d a la off) s = execLd size n pi d a la off s := rfl
@[simp] theorem exec_st (size pi d a off s) : exec (.st size pi d a off) s = execSt size pi d a off s := rfl
@[simp] theorem exec_ldv (pi d a la off s) : exec (.ldv pi d a la off) s = execLdv pi d a la off s := rfl
@[simp] theorem exec_stv (pi d a off s) : exec (.stv pi d a off) s = execStv pi d a off s := rfl
@[simp] theorem exec_ldg (size n pi d a b la z s) : exec (.ldg size n pi d a b la z) s = execLdg size n pi d a b la z s := rfl
@[simp] theorem exec_stg (size pi d a b z s) : exec (.stg size pi d a b z) s = execStg size pi d a b z s := rfl
@[simp] theorem exec_lda (size n d a b la s) : exec (.lda size n d a b la) s = execLda size n d a b la s := rfl
@[simp] theorem exec_stl (size d a b s) : exec (.stl size d a b) s = execStl size d a b s := rfl
@[simp] theorem exec_atomAdd (w64 n d a b la s) : exec (.atomAdd w64 n d a b la) s = execAtomAdd w64 n d a b la s := rfl
@[simp] theorem exec_atomAnd (w64 n d a b la s) : exec (.atomAnd w64 n d a b la) s = execAtomAnd w64 n d a b la s := rfl
@[simp] theorem exec_atomOr (w64 n d a b la s) : exec (.atomOr w64 n d a b la) s = execAtomOr w64 n d a b la s := rfl
@[simp] theorem exec_atomXor (w64 n d a b la s) : exec (.atomXor w64 n d a b la) s = execAtomXor w64 n d a b la s := rfl
@[simp] theorem exec_atomMin (w64 n d a b la s) : exec (.atomMin w64 n d a b la) s = execAtomMin w64 n d a b la s := rfl
@[simp] theorem exec_atomMax (w64 n d a b la s) : exec (.atomMax w64 n d a b la) s = execAtomMax w64 n d a b la s := rfl
@[simp] theorem exec_atomSwap (w64 n d a b la s) : exec (.atomSwap w64 n d a b la) s = execAtomSwap w64 n d a b la s := rfl
@[simp] theorem exec_atomCas (w64 n d a b c la s) : exec (.atomCas w64 n d a b c la) s = execAtomCas w64 n d a b c la s := rfl
@[simp] theorem exec_raddF32 (a b k n s) : exec (.raddF32 a b k n) s = execRaddF32 a b k n s := rfl
@[simp] theorem exec_raddB16 (a b k n s) : exec (.raddB16 a b k n) s = execRaddB16 a b k n s := rfl
@[simp] theorem exec_ldmeta (pi d a off s) : exec (.ldmeta pi d a off) s = execLdmeta pi d a off s := rfl
@[simp] theorem exec_stmeta (pi d a off s) : exec (.stmeta pi d a off) s = execStmeta pi d a off s := rfl
@[simp] theorem exec_pref (x a off s) : exec (.pref x a off) s = execPref x a off s := rfl
@[simp] theorem exec_put (a b f len s) : exec (.put a b f len) s = execPut a b f len s := rfl
@[simp] theorem exec_get (a b f len s) : exec (.get a b f len) s = execGet a b f len s := rfl
@[simp] theorem exec_getTransposed (a b c f es len s) : exec (.getTransposed a b c f es len) s = execGetTransposed a b c f es len s := rfl
@[simp] theorem exec_putn (d a b c f len s) : exec (.putn d a b c f len) s = execPutn d a b c f len s := rfl
@[simp] theorem exec_getn (d a b c f len s) : exec (.getn d a b c f len) s = execGetn d a b c f len s := rfl
@[simp] theorem exec_waitk (d a k s) : exec (.waitk d a k) s = execWaitk d a k s := rfl
@[simp] theorem exec_waita (d a b q s) : exec (.waita d a b q) s = execWaita d a b q s := rfl
@[simp] theorem exec_fenceR (a s) : exec (.fenceR a) s = execFenceR a s := rfl
@[simp] theorem exec_fenceO (obs s) : exec (.fenceO obs) s = execFenceO obs s := rfl
@[simp] theorem exec_fenceX (src dst s) : exec (.fenceX src dst) s = execFenceX src dst s := rfl
@[simp] theorem exec_fenceL (s) : exec (.fenceL) s = execFenceL s := rfl
@[simp] theorem exec_spawn (a b pc s) : exec (.spawn a b pc) s = execSpawn a b pc s := rfl
@[simp] theorem exec_spawnS (a b c pc s) : exec (.spawnS a b c pc) s = execSpawnS a b c pc s := rfl
@[simp] theorem exec_quit (sig s) : exec (.quit sig) s = execQuit sig s := rfl
@[simp] theorem exec_fork (tgt s) : exec (.fork tgt) s = execFork tgt s := rfl
@[simp] theorem exec_join (a s) : exec (.join a) s = execJoin a s := rfl
@[simp] theorem exec_yield (s) : exec (.yield) s = execYield s := rfl
@[simp] theorem exec_migrate (a s) : exec (.migrate a) s = execMigrate a s := rfl
@[simp] theorem exec_task (a b c pc wq sq s) : exec (.task a b c pc wq sq) s = execTask a b c pc wq sq s := rfl
@[simp] theorem exec_setev (a q rt ltn s) : exec (.setev a q rt ltn) s = execSetev a q rt ltn s := rfl
@[simp] theorem exec_clrev (a q s) : exec (.clrev a q) s = execClrev a q s := rfl
@[simp] theorem exec_waitev (d a q any s) : exec (.waitev d a q any) s = execWaitev d a q any s := rfl
@[simp] theorem exec_barcfg (scope a b s) : exec (.barcfg scope a b) s = execBarcfg scope a b s := rfl
@[simp] theorem exec_bar (scope b s) : exec (.bar scope b) s = execBar scope b s := rfl
@[simp] theorem exec_bara (scope d a b s) : exec (.bara scope d a b) s = execBara scope d a b s := rfl
@[simp] theorem exec_barw (scope d a b s) : exec (.barw scope d a b) s = execBarw scope d a b s := rfl
@[simp] theorem exec_barred (scope d a b s) : exec (.barred scope d a b) s = execBarred scope d a b s := rfl
@[simp] theorem exec_send (a b n s) : exec (.send a b n) s = execSend a b n s := rfl
@[simp] theorem exec_sendv (a b r s) : exec (.sendv a b r) s = execSendv a b r s := rfl
@[simp] theorem exec_recv (d a b q s) : exec (.recv d a b q) s = execRecv d a b q s := rfl
@[simp] theorem exec_recvv (d q s) : exec (.recvv d q) s = execRecvv d q s := rfl
@[simp] theorem exec_qbindQi (q s) : exec (.qbindQi q) s = execQbindQi q s := rfl
@[simp] theorem exec_qbindQo (a l s) : exec (.qbindQo a l) s = execQbindQo a l s := rfl
@[simp] theorem exec_qbindQiOff (s) : exec (.qbindQiOff) s = execQbindQiOff s := rfl
@[simp] theorem exec_qbindQoOff (s) : exec (.qbindQoOff) s = execQbindQoOff s := rfl
@[simp] theorem exec_mqstat (d q s) : exec (.mqstat d q) s = execMqstat d q s := rfl
@[simp] theorem exec_peek (d a q s) : exec (.peek d a q) s = execPeek d a q s := rfl
@[simp] theorem exec_dqpush (a b n s) : exec (.dqpush a b n) s = execDqpush a b n s := rfl
@[simp] theorem exec_dqpop (d a b la nb q s) : exec (.dqpop d a b la nb q) s = execDqpop d a b la nb q s := rfl
@[simp] theorem exec_dqcons (d a b s) : exec (.dqcons d a b) s = execDqcons d a b s := rfl
@[simp] theorem exec_arupd (a b n s) : exec (.arupd a b n) s = execArupd a b n s := rfl
@[simp] theorem exec_arjoin (d a b c vs s) : exec (.arjoin d a b c vs) s = execArjoin d a b c vs s := rfl
@[simp] theorem exec_arscan (d a b c k s) : exec (.arscan d a b c k) s = execArscan d a b c k s := rfl
@[simp] theorem exec_arcompact (a b s) : exec (.arcompact a b) s = execArcompact a b s := rfl
@[simp] theorem exec_frontadv (a p s) : exec (.frontadv a p) s = execFrontadv a p s := rfl
@[simp] theorem exec_frontrd (d z s) : exec (.frontrd d z) s = execFrontrd d z s := rfl
@[simp] theorem exec_dqwaitf (d a s) : exec (.dqwaitf d a) s = execDqwaitf d a s := rfl
@[simp] theorem exec_wpset (d a z s) : exec (.wpset d a z) s = execWpset d a z s := rfl
@[simp] theorem exec_park (d a z s) : exec (.park d a z) s = execPark d a z s := rfl
@[simp] theorem exec_unpark (d a z s) : exec (.unpark d a z) s = execUnpark d a z s := rfl
@[simp] theorem exec_standcfg (a b n s) : exec (.standcfg a b n) s = execStandcfg a b n s := rfl
@[simp] theorem exec_rtset (a n s) : exec (.rtset a n) s = execRtset a n s := rfl
@[simp] theorem exec_tlbinvAddr (a s) : exec (.tlbinvAddr a) s = execTlbinvAddr a s := rfl
@[simp] theorem exec_tlbinvAll (a s) : exec (.tlbinvAll a) s = execTlbinvAll a s := rfl
@[simp] theorem exec_pgattr (d a b mask s) : exec (.pgattr d a b mask) s = execPgattr d a b mask s := rfl
@[simp] theorem exec_keyselLoad (d a s) : exec (.keyselLoad d a) s = execKeyselLoad d a s := rfl
@[simp] theorem exec_keyselErase (d s) : exec (.keyselErase d) s = execKeyselErase d s := rfl
@[simp] theorem exec_keyselStatus (d s) : exec (.keyselStatus d) s = execKeyselStatus d s := rfl
@[simp] theorem exec_poisonqReadLocal (d a s) : exec (.poisonqReadLocal d a) s = execPoisonqReadLocal d a s := rfl
@[simp] theorem exec_poisonqClearLocal (d a s) : exec (.poisonqClearLocal d a) s = execPoisonqClearLocal d a s := rfl
@[simp] theorem exec_poisonqReadDevice (d a s) : exec (.poisonqReadDevice d a) s = execPoisonqReadDevice d a s := rfl
@[simp] theorem exec_poisonqClearDevice (d a s) : exec (.poisonqClearDevice d a) s = execPoisonqClearDevice d a s := rfl
@[simp] theorem exec_boost (lvl s) : exec (.boost lvl) s = execBoost lvl s := rfl
@[simp] theorem exec_notch (s) : exec (.notch) s = execNotch s := rfl
@[simp] theorem exec_notchrd (d n s) : exec (.notchrd d n) s = execNotchrd d n s := rfl
@[simp] theorem exec_ckexcl (a r n s) : exec (.ckexcl a r n) s = execCkexcl a r n s := rfl
@[simp] theorem exec_wdpet (s) : exec (.wdpet) s = execWdpet s := rfl
@[simp] theorem exec_vadd (fmt d a b s) : exec (.vadd fmt d a b) s = execVadd fmt d a b s := rfl
@[simp] theorem exec_vaddL (fmt d a b la s) : exec (.vaddL fmt d a b la) s = execVaddL fmt d a b la s := rfl
@[simp] theorem exec_vsub (fmt d a b s) : exec (.vsub fmt d a b) s = execVsub fmt d a b s := rfl
@[simp] theorem exec_vsubL (fmt d a b la s) : exec (.vsubL fmt d a b la) s = execVsubL fmt d a b la s := rfl
@[simp] theorem exec_vmul (fmt d a b s) : exec (.vmul fmt d a b) s = execVmul fmt d a b s := rfl
@[simp] theorem exec_vmulL (fmt d a b la s) : exec (.vmulL fmt d a b la) s = execVmulL fmt d a b la s := rfl
@[simp] theorem exec_vdiv (fmt d a b s) : exec (.vdiv fmt d a b) s = execVdiv fmt d a b s := rfl
@[simp] theorem exec_vdivL (fmt d a b la s) : exec (.vdivL fmt d a b la) s = execVdivL fmt d a b la s := rfl
@[simp] theorem exec_vmin (fmt d a b s) : exec (.vmin fmt d a b) s = execVmin fmt d a b s := rfl
@[simp] theorem exec_vminL (fmt d a b la s) : exec (.vminL fmt d a b la) s = execVminL fmt d a b la s := rfl
@[simp] theorem exec_vmax (fmt d a b s) : exec (.vmax fmt d a b) s = execVmax fmt d a b s := rfl
@[simp] theorem exec_vmaxL (fmt d a b la s) : exec (.vmaxL fmt d a b la) s = execVmaxL fmt d a b la s := rfl
@[simp] theorem exec_vpow (fmt d a b s) : exec (.vpow fmt d a b) s = execVpow fmt d a b s := rfl
@[simp] theorem exec_vpowL (fmt d a b la s) : exec (.vpowL fmt d a b la) s = execVpowL fmt d a b la s := rfl
@[simp] theorem exec_vfma (fmt d a b s) : exec (.vfma fmt d a b) s = execVfma fmt d a b s := rfl
@[simp] theorem exec_vfmaL (fmt d a b la s) : exec (.vfmaL fmt d a b la) s = execVfmaL fmt d a b la s := rfl
@[simp] theorem exec_vfms (fmt d a b s) : exec (.vfms fmt d a b) s = execVfms fmt d a b s := rfl
@[simp] theorem exec_vfmsL (fmt d a b la s) : exec (.vfmsL fmt d a b la) s = execVfmsL fmt d a b la s := rfl
@[simp] theorem exec_vsqrt (fmt d a s) : exec (.vsqrt fmt d a) s = execVsqrt fmt d a s := rfl
@[simp] theorem exec_vsqrtL (fmt d a la s) : exec (.vsqrtL fmt d a la) s = execVsqrtL fmt d a la s := rfl
@[simp] theorem exec_vrsq (fmt d a s) : exec (.vrsq fmt d a) s = execVrsq fmt d a s := rfl
@[simp] theorem exec_vrsqL (fmt d a la s) : exec (.vrsqL fmt d a la) s = execVrsqL fmt d a la s := rfl
@[simp] theorem exec_vexp (fmt d a s) : exec (.vexp fmt d a) s = execVexp fmt d a s := rfl
@[simp] theorem exec_vexpL (fmt d a la s) : exec (.vexpL fmt d a la) s = execVexpL fmt d a la s := rfl
@[simp] theorem exec_vlog (fmt d a s) : exec (.vlog fmt d a) s = execVlog fmt d a s := rfl
@[simp] theorem exec_vlogL (fmt d a la s) : exec (.vlogL fmt d a la) s = execVlogL fmt d a la s := rfl
@[simp] theorem exec_vsin (fmt d a s) : exec (.vsin fmt d a) s = execVsin fmt d a s := rfl
@[simp] theorem exec_vsinL (fmt d a la s) : exec (.vsinL fmt d a la) s = execVsinL fmt d a la s := rfl
@[simp] theorem exec_vcos (fmt d a s) : exec (.vcos fmt d a) s = execVcos fmt d a s := rfl
@[simp] theorem exec_vcosL (fmt d a la s) : exec (.vcosL fmt d a la) s = execVcosL fmt d a la s := rfl
@[simp] theorem exec_vtanh (fmt d a s) : exec (.vtanh fmt d a) s = execVtanh fmt d a s := rfl
@[simp] theorem exec_vtanhL (fmt d a la s) : exec (.vtanhL fmt d a la) s = execVtanhL fmt d a la s := rfl
@[simp] theorem exec_vabs (fmt d a s) : exec (.vabs fmt d a) s = execVabs fmt d a s := rfl
@[simp] theorem exec_vabsL (fmt d a la s) : exec (.vabsL fmt d a la) s = execVabsL fmt d a la s := rfl
@[simp] theorem exec_vneg (fmt d a s) : exec (.vneg fmt d a) s = execVneg fmt d a s := rfl
@[simp] theorem exec_vnegL (fmt d a la s) : exec (.vnegL fmt d a la) s = execVnegL fmt d a la s := rfl
@[simp] theorem exec_vcmp (k cc fmt d a b s) : exec (.vcmp k cc fmt d a b) s = execVcmp k cc fmt d a b s := rfl
@[simp] theorem exec_vand (d a b s) : exec (.vand d a b) s = execVand d a b s := rfl
@[simp] theorem exec_vor (d a b s) : exec (.vor d a b) s = execVor d a b s := rfl
@[simp] theorem exec_vxor (d a b s) : exec (.vxor d a b) s = execVxor d a b s := rfl
@[simp] theorem exec_vshl (size n d a b s) : exec (.vshl size n d a b) s = execVshl size n d a b s := rfl
@[simp] theorem exec_vshr (size n d a b s) : exec (.vshr size n d a b) s = execVshr size n d a b s := rfl
@[simp] theorem exec_viadd (size n d a b s) : exec (.viadd size n d a b) s = execViadd size n d a b s := rfl
@[simp] theorem exec_visub (size n d a b s) : exec (.visub size n d a b) s = execVisub size n d a b s := rfl
@[simp] theorem exec_vimul (size n d a b s) : exec (.vimul size n d a b) s = execVimul size n d a b s := rfl
@[simp] theorem exec_vsel (d a b s) : exec (.vsel d a b) s = execVsel d a b s := rfl
@[simp] theorem exec_vdot (fmt d a b s) : exec (.vdot fmt d a b) s = execVdot fmt d a b s := rfl
@[simp] theorem exec_vredAdd (fmt d a s) : exec (.vredAdd fmt d a) s = execVredAdd fmt d a s := rfl
@[simp] theorem exec_vredMin (fmt d a s) : exec (.vredMin fmt d a) s = execVredMin fmt d a s := rfl
@[simp] theorem exec_vredMax (fmt d a s) : exec (.vredMax fmt d a) s = execVredMax fmt d a s := rfl
@[simp] theorem exec_vredq (fmt d a s) : exec (.vredq fmt d a) s = execVredq fmt d a s := rfl
@[simp] theorem exec_vshuf (size d a b s) : exec (.vshuf size d a b) s = execVshuf size d a b s := rfl
@[simp] theorem exec_vsplat (size d a s) : exec (.vsplat size d a) s = execVsplat size d a s := rfl
@[simp] theorem exec_vins (size d a b s) : exec (.vins size d a b) s = execVins size d a b s := rfl
@[simp] theorem exec_vext (size n d a b s) : exec (.vext size n d a b) s = execVext size n d a b s := rfl
@[simp] theorem exec_vcvt (src dst sc d a c s) : exec (.vcvt src dst sc d a c) s = execVcvt src dst sc d a c s := rfl
@[simp] theorem exec_vpack (src dst sc d a c s) : exec (.vpack src dst sc d a c) s = execVpack src dst sc d a c s := rfl
@[simp] theorem exec_vunpack (src dst sc d a c s) : exec (.vunpack src dst sc d a c) s = execVunpack src dst sc d a c s := rfl
@[simp] theorem exec_vrnd (src dst d a s) : exec (.vrnd src dst d a) s = execVrnd src dst d a s := rfl
@[simp] theorem exec_vaddM (fmt d a b la x s) : exec (.vaddM fmt d a b la x) s = execVaddM fmt d a b la x s := rfl
@[simp] theorem exec_vmulM (fmt d a b la x s) : exec (.vmulM fmt d a b la x) s = execVmulM fmt d a b la x s := rfl
@[simp] theorem exec_vfmaM (fmt d a b la x s) : exec (.vfmaM fmt d a b la x) s = execVfmaM fmt d a b la x s := rfl
@[simp] theorem exec_addwin (p d a b la s) : exec (.addwin p d a b la) s = execAddwin p d a b la s := rfl
@[simp] theorem exec_rdwin (fmt d a la s) : exec (.rdwin fmt d a la) s = execRdwin fmt d a la s := rfl
@[simp] theorem exec_clrwin (a la s) : exec (.clrwin a la) s = execClrwin a la s := rfl
@[simp] theorem exec_jord (n s) : exec (.jord n) s = execJord n s := rfl
@[simp] theorem exec_jseed (fmt d a b la s) : exec (.jseed fmt d a b la) s = execJseed fmt d a b la s := rfl
@[simp] theorem exec_jseedv (fmt d a b la s) : exec (.jseedv fmt d a b la) s = execJseedv fmt d a b la s := rfl
@[simp] theorem exec_jconst (fmt d a la s) : exec (.jconst fmt d a la) s = execJconst fmt d a la s := rfl
@[simp] theorem exec_jext (fmt d a k la s) : exec (.jext fmt d a k la) s = execJext fmt d a k la s := rfl
@[simp] theorem exec_jder (fmt d a k la s) : exec (.jder fmt d a k la) s = execJder fmt d a k la s := rfl
@[simp] theorem exec_jtrunc (fmt d a k la s) : exec (.jtrunc fmt d a k la) s = execJtrunc fmt d a k la s := rfl
@[simp] theorem exec_jfrd (d h s) : exec (.jfrd d h) s = execJfrd d h s := rfl
@[simp] theorem exec_jfclr (lo hi s) : exec (.jfclr lo hi) s = execJfclr lo hi s := rfl
@[simp] theorem exec_mcfg (tile keep acc afmt bfmt rows1 cols1 s) : exec (.mcfg tile keep acc afmt bfmt rows1 cols1) s = execMcfg tile keep acc afmt bfmt rows1 cols1 s := rfl
@[simp] theorem exec_mclr (mask s) : exec (.mclr mask) s = execMclr mask s := rfl
@[simp] theorem exec_mres (d tile s) : exec (.mres d tile) s = execMres d tile s := rfl
@[simp] theorem exec_mresRelease (d tile s) : exec (.mresRelease d tile) s = execMresRelease d tile s := rfl
@[simp] theorem exec_mma (a b c tile kb1 mx sc desc s) : exec (.mma a b c tile kb1 mx sc desc) s = execMma a b c tile kb1 mx sc desc s := rfl
@[simp] theorem exec_mmj (a b c kb1 s) : exec (.mmj a b c kb1) s = execMmj a b c kb1 s := rfl
@[simp] theorem exec_mrd (a b tile fmt s) : exec (.mrd a b tile fmt) s = execMrd a b tile fmt s := rfl
@[simp] theorem exec_macc (a b tile fmt s) : exec (.macc a b tile fmt) s = execMacc a b tile fmt s := rfl
@[simp] theorem exec_xpkd (d a x s) : exec (.xpkd d a x) s = execXpkd d a x s := rfl

end Sys2Proof.Machine
end

