-- ==== Sys2Proof/Laws/Memory.lean ====
section
/-! SUPPORT. Memory: what a write leaves to be read, and that every write keeps the canonical form. -/

namespace Sys2Proof.Machine

namespace SMap
variable {α : Type} [DecidableEq α] {d : α}

/-- A table whose keys begin above a bound has keys above a lower one. -/
theorem wfFrom_of_le {lo lo' : Nat} (h : lo' ≤ lo) {m : SMap α} (hm : wfFrom d lo m = true) : wfFrom d lo' m = true := by
  cases m with
  | nil => rfl
  | cons e m =>
    simp only [wfFrom, Bool.and_eq_true, decide_eq_true_eq] at hm ⊢
    exact ⟨⟨by omega, hm.1.2⟩, hm.2⟩

/-- A key below the first has no entry. -/
theorem find_eq_none_of_lt {lo k : Nat} {m : SMap α} (hm : wfFrom d lo m = true) (h : k < lo) : find k m = none := by
  cases m with
  | nil => rfl
  | cons e m =>
    simp only [wfFrom, Bool.and_eq_true, decide_eq_true_eq] at hm
    have : k < e.1 := by omega
    simp [find, this]

omit [DecidableEq α] in
theorem find_put_self (k : Nat) (v : α) (m : SMap α) : find k (put k v m) = some v := by
  induction m with
  | nil => simp [put, find]
  | cons e m ih =>
    obtain ⟨j, x⟩ := e
    by_cases h : k < j
    · simp [put, h, find]
    · by_cases e : j = k
      · simp [put, e, find]
      · simp [put, h, e, find, ih]

theorem find_put_of_ne {j k : Nat} (hk : j ≠ k) (v : α) {lo : Nat} {m : SMap α} (hm : wfFrom d lo m = true) :
    find j (put k v m) = find j m := by
  induction m generalizing lo with
  | nil =>
    by_cases h : j < k
    · simp [put, find, h]
    · simp [put, find, Ne.symm hk]
  | cons e m ih =>
    obtain ⟨i, x⟩ := e
    simp only [wfFrom, Bool.and_eq_true, decide_eq_true_eq] at hm
    by_cases h : k < i
    · by_cases h' : j < k
      · have : j < i := by omega
        simp [put, find, h, h', this]
      · simp [put, find, h, h', Ne.symm hk]
    · by_cases e : i = k
      · subst e
        by_cases h' : j < i
        · simp [put, find, h']
        · simp [put, find, h', Ne.symm hk]
      · by_cases h' : j < i
        · simp [put, find, h, e, h']
        · by_cases e' : i = j
          · subst e'
            simp [put, find, h, e]
          · simp [put, find, h, e, h', e', ih hm.2]

theorem find_erase_self {k lo : Nat} {m : SMap α} (hm : wfFrom d lo m = true) : find k (erase k m) = none := by
  induction m generalizing lo with
  | nil => rfl
  | cons e m ih =>
    obtain ⟨i, x⟩ := e
    simp only [wfFrom, Bool.and_eq_true, decide_eq_true_eq] at hm
    by_cases h : k < i
    · simp [erase, find, h]
    · by_cases e : i = k
      · simp only [erase, e, Nat.lt_irrefl, if_true, if_false]
        exact find_eq_none_of_lt hm.2 (by omega)
      · simp [erase, find, h, e, ih hm.2]

theorem find_erase_of_ne {j k lo : Nat} (hk : j ≠ k) {m : SMap α} (hm : wfFrom d lo m = true) : find j (erase k m) = find j m := by
  induction m generalizing lo with
  | nil => rfl
  | cons e m ih =>
    obtain ⟨i, x⟩ := e
    simp only [wfFrom, Bool.and_eq_true, decide_eq_true_eq] at hm
    by_cases h : k < i
    · simp [erase, h]
    · by_cases e : i = k
      · simp only [erase, e, Nat.lt_irrefl, if_true, if_false]
        by_cases h' : j < k
        · rw [find_eq_none_of_lt hm.2 (by omega)]; simp [find, h']
        · simp [find, h', Ne.symm hk]
      · by_cases h' : j < i
        · simp [erase, find, h, e, h']
        · by_cases e' : i = j
          · subst e'
            simp [erase, find, h, e]
          · simp [erase, find, h, e, h', e', ih hm.2]

theorem wfFrom_put {k lo : Nat} {v : α} (hv : v ≠ d) (hk : lo ≤ k) {m : SMap α} (hm : wfFrom d lo m = true) :
    wfFrom d lo (put k v m) = true := by
  induction m generalizing lo with
  | nil => simp [put, wfFrom, hk, hv]
  | cons e m ih =>
    obtain ⟨i, x⟩ := e
    simp only [wfFrom, Bool.and_eq_true, decide_eq_true_eq] at hm
    by_cases h : k < i
    · simp only [put, h, if_true, wfFrom, Bool.and_eq_true, decide_eq_true_eq]
      exact ⟨⟨hk, hv⟩, ⟨⟨by omega, hm.1.2⟩, hm.2⟩⟩
    · by_cases e : i = k
      · subst e
        simp only [put, Nat.lt_irrefl, if_true, if_false, wfFrom, Bool.and_eq_true, decide_eq_true_eq]
        exact ⟨⟨hk, hv⟩, hm.2⟩
      · simp only [put, h, e, if_false, wfFrom, Bool.and_eq_true, decide_eq_true_eq]
        exact ⟨hm.1, ih (by omega) hm.2⟩

theorem wfFrom_erase (k : Nat) {lo : Nat} {m : SMap α} (hm : wfFrom d lo m = true) : wfFrom d lo (erase k m) = true := by
  induction m generalizing lo with
  | nil => exact hm
  | cons e m ih =>
    obtain ⟨i, x⟩ := e
    have hm' := hm
    simp only [wfFrom, Bool.and_eq_true, decide_eq_true_eq] at hm'
    by_cases h : k < i
    · simpa [erase, h] using hm
    · by_cases e : i = k
      · simp only [erase, e, Nat.lt_irrefl, if_true, if_false]
        exact wfFrom_of_le (by omega) hm'.2
      · simp only [erase, h, e, if_false, wfFrom, Bool.and_eq_true, decide_eq_true_eq]
        exact ⟨hm'.1, ih hm'.2⟩

/-- A write keeps the canonical form. -/
theorem wfFrom_set (k : Nat) (v : α) {m : SMap α} (hm : wfFrom d 0 m = true) : wfFrom d 0 (set d k v m) = true := by
  unfold set
  split
  · exact wfFrom_erase k hm
  · exact wfFrom_put ‹_› (Nat.zero_le k) hm

/-- What has been written is read. -/
theorem getD_set_self (k : Nat) (v : α) {lo : Nat} {m : SMap α} (hm : wfFrom d lo m = true) : getD (set d k v m) k d = v := by
  unfold getD set
  split
  · rw [find_erase_self hm]; simp [*]
  · rw [find_put_self]; rfl

/-- A write leaves every other key alone. -/
theorem getD_set_of_ne {j k : Nat} (h : j ≠ k) (v : α) {lo : Nat} {m : SMap α} (hm : wfFrom d lo m = true) :
    getD (set d k v m) j d = getD m j d := by
  unfold getD set
  split
  · rw [find_erase_of_ne h hm]
  · rw [find_put_of_ne h v hm]

end SMap

/-! ## Bytes -/

theorem leBytes_length (n v : Nat) : (leBytes n v).length = n := by
  induction n generalizing v with
  | zero => rfl
  | succ n ih => simp [leBytes, ih]

theorem bytesAt_length (m : List Host.Cell) (k n : Nat) : (bytesAt m k n).length = n := by
  induction n generalizing k with
  | zero => rfl
  | succ n ih => simp [bytesAt, ih]

/-- The bytes of a number that fits give it back. -/
theorem leNat_leBytes (n v : Nat) : leNat (leBytes n v) = v % 256 ^ n := by
  induction n generalizing v with
  | zero => simp [leBytes, leNat, Nat.mod_one]
  | succ n ih =>
    have h : v % 256 ^ (n + 1) = v % 256 + 256 * (v / 256 % 256 ^ n) := by
      rw [Nat.pow_succ, Nat.mul_comm, Nat.mod_mul]
    rw [leBytes, leNat, ih, BitVec.toNat_ofNat, h]

/-- Writes of bytes keep the canonical form. -/
theorem wf_putBytes (bs : List Byte) (k : Nat) {m : List Host.Cell} (hm : Memory.wf m = true) : Memory.wf (putBytes m k bs) = true := by
  induction bs generalizing k m with
  | nil => exact hm
  | cons b bs ih => exact ih (k + 1) (SMap.wfFrom_set k b hm)

theorem wf_putMasked (bs : List (Bool × Byte)) (k : Nat) {m : List Host.Cell} (hm : Memory.wf m = true) :
    Memory.wf (putMasked m k bs) = true := by
  induction bs generalizing k m with
  | nil => exact hm
  | cons e bs ih =>
    obtain ⟨c, b⟩ := e
    cases c with
    | false => exact ih (k + 1) hm
    | true => exact ih (k + 1) (SMap.wfFrom_set k b hm)

/-- Enabled bytes that are all of them are bytes. -/
theorem putMasked_allOn (bs : List Byte) (k : Nat) (m : List Host.Cell) :
    putMasked m k (bs.map fun b => (true, b)) = putBytes m k bs := by
  induction bs generalizing k m with
  | nil => rfl
  | cons b bs ih => simp [putMasked, putBytes, ih]

/-- A write of bytes leaves every address outside them alone. -/
theorem getD_putBytes_of_outside (bs : List Byte) {j k : Nat} (h : j < k ∨ k + bs.length ≤ j) {m : List Host.Cell}
    (hm : Memory.wf m = true) : SMap.getD (putBytes m k bs) j 0 = SMap.getD m j 0 := by
  induction bs generalizing k m with
  | nil => rfl
  | cons b bs ih =>
    simp only [List.length_cons] at h
    rw [putBytes, ih (by omega) (SMap.wfFrom_set k b hm), SMap.getD_set_of_ne (by omega) b hm]

/-- A write of bytes is read back. -/
theorem getD_putBytes_of_inside (bs : List Byte) {i k : Nat} (h : i < bs.length) {m : List Host.Cell} (hm : Memory.wf m = true) :
    SMap.getD (putBytes m k bs) (k + i) 0 = bs.getD i 0 := by
  induction bs generalizing i k m with
  | nil => simp at h
  | cons b bs ih =>
    cases i with
    | zero =>
      rw [putBytes, getD_putBytes_of_outside bs (by omega) (SMap.wfFrom_set k b hm)]
      simpa using SMap.getD_set_self k b hm
    | succ i =>
      rw [putBytes, show k + (i + 1) = k + 1 + i by omega, ih (by simpa using h) (SMap.wfFrom_set k b hm)]
      simp

theorem getD_putMasked_of_outside (bs : List (Bool × Byte)) {j k : Nat} (h : j < k ∨ k + bs.length ≤ j) {m : List Host.Cell}
    (hm : Memory.wf m = true) : SMap.getD (putMasked m k bs) j 0 = SMap.getD m j 0 := by
  induction bs generalizing k m with
  | nil => rfl
  | cons e bs ih =>
    obtain ⟨c, b⟩ := e
    simp only [List.length_cons] at h
    cases c with
    | false => rw [putMasked, if_neg (by simp), ih (by omega) hm]
    | true => rw [putMasked, if_pos rfl, ih (by omega) (SMap.wfFrom_set k b hm), SMap.getD_set_of_ne (by omega) b hm]

/-- A byte of an enabled write is read back, and one that is not enabled stays. -/
theorem getD_putMasked_of_inside (bs : List (Bool × Byte)) {i k : Nat} (h : i < bs.length) {m : List Host.Cell}
    (hm : Memory.wf m = true) :
    SMap.getD (putMasked m k bs) (k + i) 0 =
      if (bs.getD i (false, 0)).1 then (bs.getD i (false, 0)).2 else SMap.getD m (k + i) 0 := by
  induction bs generalizing i k m with
  | nil => simp at h
  | cons e bs ih =>
    obtain ⟨c, b⟩ := e
    cases i with
    | zero =>
      cases c with
      | false => rw [putMasked, if_neg (by simp), getD_putMasked_of_outside bs (by omega) hm]; simp
      | true =>
        rw [putMasked, if_pos rfl, getD_putMasked_of_outside bs (by omega) (SMap.wfFrom_set k b hm)]
        simpa using SMap.getD_set_self k b hm
    | succ i =>
      have e : k + (i + 1) = k + 1 + i := by omega
      cases c with
      | false => rw [putMasked, if_neg (by simp), e, ih (by simpa using h) hm]; simp
      | true =>
        rw [putMasked, if_pos rfl, e, ih (by simpa using h) (SMap.wfFrom_set k b hm), SMap.getD_set_of_ne (by omega) b hm]
        simp

/-- The bytes read at an address depend on them alone. -/
theorem bytesAt_congr {m m' : List Host.Cell} {k n : Nat} (h : ∀ i < n, SMap.getD m (k + i) 0 = SMap.getD m' (k + i) 0) :
    bytesAt m k n = bytesAt m' k n := by
  induction n generalizing k with
  | zero => rfl
  | succ n ih =>
    rw [bytesAt, bytesAt, show SMap.getD m k 0 = SMap.getD m' k 0 from by simpa using h 0 (by omega), ih]
    intro i hi
    have := h (i + 1) (by omega)
    rwa [show k + (i + 1) = k + 1 + i by omega] at this

/-- Bytes that have been written are read. -/
theorem bytesAt_putBytes_self (bs : List Byte) (k : Nat) {m : List Host.Cell} (hm : Memory.wf m = true) :
    bytesAt (putBytes m k bs) k bs.length = bs := by
  induction bs generalizing k m with
  | nil => rfl
  | cons b bs ih =>
    rw [List.length_cons, bytesAt, putBytes, ih (k + 1) (SMap.wfFrom_set k b hm),
      getD_putBytes_of_outside bs (by omega) (SMap.wfFrom_set k b hm)]
    have := SMap.getD_set_self k b hm
    rw [this]

/-- Bytes elsewhere are read as before. -/
theorem bytesAt_putBytes_of_outside (bs : List Byte) {j k n : Nat} (h : j + n ≤ k ∨ k + bs.length ≤ j) {m : List Host.Cell}
    (hm : Memory.wf m = true) : bytesAt (putBytes m k bs) j n = bytesAt m j n :=
  bytesAt_congr fun i hi => getD_putBytes_of_outside bs (by omega) hm

/-- A number that has been written is read. -/
theorem natAt_putBytes_self (n v k : Nat) {m : List Host.Cell} (hm : Memory.wf m = true) :
    natAt (putBytes m k (leBytes n v)) k n = v % 256 ^ n := by
  have := bytesAt_putBytes_self (leBytes n v) k hm
  rw [leBytes_length] at this
  rw [natAt, this, leNat_leBytes]

theorem natAt_putBytes_of_outside (bs : List Byte) {j k n : Nat} (h : j + n ≤ k ∨ k + bs.length ≤ j) {m : List Host.Cell}
    (hm : Memory.wf m = true) : natAt (putBytes m k bs) j n = natAt m j n := by
  rw [natAt, bytesAt_putBytes_of_outside bs h hm, natAt]

/-- Memory at reset has its canonical form. -/
theorem reset_memoryCanonical : State.reset.MemoryCanonical := rfl

end Sys2Proof.Machine
end

