-- ==== Sys2Proof/Laws/Operands.lean ====
section
/-! SUPPORT. What a head's checks do: a head that is ready to issue takes its own effect. -/

namespace Sys2Proof.Machine

namespace State

theorem find?_poisoned_eq_none {s : State} {os : List Opd}
    (h : ∀ r ∈ s.opdRanges os, s.poisoned (s.key r.1) r.2 = false) :
    (s.opdRanges os).find? (fun r => s.poisoned (s.key r.1) r.2) = none := by
  rw [List.find?_eq_none]
  intro r hr
  simp [h r hr]

theorem any_payloadHeld_eq_false {s : State} {os : List Opd}
    (h : ∀ r ∈ s.opdRanges os, s.payloadHeld r.1 r.2 = false) :
    (s.opdRanges os).any (fun r => s.payloadHeld r.1 r.2) = false := by
  rw [List.any_eq_false]
  intro r hr
  simp [h r hr]

/-- A head whose ports are ready goes on. -/
theorem portsReady_of_issues {s : State} {os : List Opd} (h : s.Issues os) (k : Unit → Result) :
    s.portsReady os k = k () := by
  obtain ⟨-, hpop, hpush, hspec, hpois, hheld⟩ := h
  have hp := find?_poisoned_eq_none hpois
  have hh := any_payloadHeld_eq_false hheld
  have h3 : ((s.speculative s.issue.slot).isSome && decide (0 < qiNeed os + qoPush os)) = false := by
    rcases hspec with hs | ⟨hs, ht⟩
    · rw [Option.isNone_iff_eq_none] at hs; simp [hs]
    · simp [hs, ht]
  have hq : (if qiNeed os = 0 then some true else s.me.qi.map fun q => decide (qiNeed os ≤ queueWords s.core.mq[q])) = some true := by
    rcases hpop with h0 | ⟨q, hq, hn⟩
    · simp [h0]
    · by_cases h0 : qiNeed os = 0
      · simp [h0]
      · simpa [h0, hq] using hn
  unfold portsReady
  simp only [hq, h3, hp, hh]
  rcases hpush with h0 | ⟨b, hb, hfull, hforms, hdead⟩
  · simp [h0]
  · by_cases h0 : qoPush os = 0
    · simp [h0]
    · have h1 : (decide (64 < b.buf.length + qoPush os) && decide (qoPush os = 4)) = false := by
        by_cases h4 : qoPush os = 4
        · have := hfull h4
          simp [h4]; omega
        · simp [h4]
      have h2 : (if (qoForms b (qoPush os)).1 = 0 then none else s.qoDead s.issue.slot) = none := by
        by_cases h : (qoForms b (qoPush os)).1 = 0
        · simp [h]
        · simp [h, hdead (by omega)]
      have h4 : decide (s.holdFree < (qoForms b (qoPush os)).1) = false := by simpa using hforms
      simp [h0, hb, h1, h2, h4]

/-- A head that is ready to issue, whose formats the wafer has and whose privilege its strand holds, takes its own
effect. -/
theorem issueHead_of_issues {s : State} {os : List Opd} {formats : List (BitVec 5 × Bool)} {privileged : Bool}
    {extra : Bool} (h : s.Issues os) (k : State → Result) (hf : s.Accepts formats = true)
    (hp : privileged = true → s.me.priv = true) (he : extra = true) :
    s.issueHead os formats privileged k extra = k s := by
  subst he
  obtain ⟨⟨hl, hc⟩, -⟩ := id h
  have hf' : formats.find? (fun f => !f.2 && !(s.me.emulate.isSome && decide (f.1.toNat < 16))) = none := by
    rw [List.find?_eq_none]
    intro f hm
    have := List.all_eq_true.mp hf f hm
    simp only [Bool.or_eq_true] at this
    rcases this with h | h <;> simp [h]
  unfold issueHead
  rw [hl, hc, hf']
  cases privileged with
  | false => simp [portsReady_of_issues h]
  | true => simp [portsReady_of_issues h, hp rfl]

end State

end Sys2Proof.Machine
end

