-- ==== Sys2Proof/Laws/State.lean ====
section
/-! SUPPORT. What each named update of the state leaves in every field: rewriting rules, one per field and update. -/

namespace Sys2Proof.Machine

namespace State

/-! ## setSlot -/

@[simp] theorem tile_setSlot (s : State) (i : Fin 16) (x : Slot) : (s.setSlot i x).tile = s.tile := rfl
@[simp] theorem rim_setSlot (s : State) (i : Fin 16) (x : Slot) : (s.setSlot i x).rim = s.rim := rfl
@[simp] theorem mem_setSlot (s : State) (i : Fin 16) (x : Slot) : (s.setSlot i x).mem = s.mem := rfl
@[simp] theorem metas_setSlot (s : State) (i : Fin 16) (x : Slot) : (s.setSlot i x).metas = s.metas := rfl
@[simp] theorem poison_setSlot (s : State) (i : Fin 16) (x : Slot) : (s.setSlot i x).poison = s.poison := rfl
@[simp] theorem base_setSlot (s : State) (i : Fin 16) (x : Slot) : (s.setSlot i x).base = s.base := rfl
@[simp] theorem recovery_setSlot (s : State) (i : Fin 16) (x : Slot) : (s.setSlot i x).recovery = s.recovery := rfl
@[simp] theorem captured_setSlot (s : State) (i : Fin 16) (x : Slot) : (s.setSlot i x).captured = s.captured := rfl
@[simp] theorem clk_setSlot (s : State) (i : Fin 16) (x : Slot) : (s.setSlot i x).clk = s.clk := rfl
@[simp] theorem agenda_setSlot (s : State) (i : Fin 16) (x : Slot) : (s.setSlot i x).agenda = s.agenda := rfl
@[simp] theorem clkAgenda_setSlot (s : State) (i : Fin 16) (x : Slot) : (s.setSlot i x).clkAgenda = s.clkAgenda := rfl
@[simp] theorem inputs_setSlot (s : State) (i : Fin 16) (x : Slot) : (s.setSlot i x).inputs = s.inputs := rfl
@[simp] theorem upsets_setSlot (s : State) (i : Fin 16) (x : Slot) : (s.setSlot i x).upsets = s.upsets := rfl
@[simp] theorem errors_setSlot (s : State) (i : Fin 16) (x : Slot) : (s.setSlot i x).errors = s.errors := rfl
@[simp] theorem outside_setSlot (s : State) (i : Fin 16) (x : Slot) : (s.setSlot i x).outside = s.outside := rfl
@[simp] theorem probes_setSlot (s : State) (i : Fin 16) (x : Slot) : (s.setSlot i x).probes = s.probes := rfl
@[simp] theorem barResets_setSlot (s : State) (i : Fin 16) (x : Slot) : (s.setSlot i x).barResets = s.barResets := rfl
@[simp] theorem farExp_setSlot (s : State) (i : Fin 16) (x : Slot) : (s.setSlot i x).farExp = s.farExp := rfl
@[simp] theorem fresh_setSlot (s : State) (i : Fin 16) (x : Slot) : (s.setSlot i x).fresh = s.fresh := rfl
@[simp] theorem issue_setSlot (s : State) (i : Fin 16) (x : Slot) : (s.setSlot i x).issue = s.issue := rfl

/-! ## modSlot -/

@[simp] theorem tile_modSlot (s : State) (i : Fin 16) (f : Slot → Slot) : (s.modSlot i f).tile = s.tile := rfl
@[simp] theorem rim_modSlot (s : State) (i : Fin 16) (f : Slot → Slot) : (s.modSlot i f).rim = s.rim := rfl
@[simp] theorem mem_modSlot (s : State) (i : Fin 16) (f : Slot → Slot) : (s.modSlot i f).mem = s.mem := rfl
@[simp] theorem metas_modSlot (s : State) (i : Fin 16) (f : Slot → Slot) : (s.modSlot i f).metas = s.metas := rfl
@[simp] theorem poison_modSlot (s : State) (i : Fin 16) (f : Slot → Slot) : (s.modSlot i f).poison = s.poison := rfl
@[simp] theorem base_modSlot (s : State) (i : Fin 16) (f : Slot → Slot) : (s.modSlot i f).base = s.base := rfl
@[simp] theorem recovery_modSlot (s : State) (i : Fin 16) (f : Slot → Slot) : (s.modSlot i f).recovery = s.recovery := rfl
@[simp] theorem captured_modSlot (s : State) (i : Fin 16) (f : Slot → Slot) : (s.modSlot i f).captured = s.captured := rfl
@[simp] theorem clk_modSlot (s : State) (i : Fin 16) (f : Slot → Slot) : (s.modSlot i f).clk = s.clk := rfl
@[simp] theorem agenda_modSlot (s : State) (i : Fin 16) (f : Slot → Slot) : (s.modSlot i f).agenda = s.agenda := rfl
@[simp] theorem clkAgenda_modSlot (s : State) (i : Fin 16) (f : Slot → Slot) : (s.modSlot i f).clkAgenda = s.clkAgenda := rfl
@[simp] theorem inputs_modSlot (s : State) (i : Fin 16) (f : Slot → Slot) : (s.modSlot i f).inputs = s.inputs := rfl
@[simp] theorem upsets_modSlot (s : State) (i : Fin 16) (f : Slot → Slot) : (s.modSlot i f).upsets = s.upsets := rfl
@[simp] theorem errors_modSlot (s : State) (i : Fin 16) (f : Slot → Slot) : (s.modSlot i f).errors = s.errors := rfl
@[simp] theorem outside_modSlot (s : State) (i : Fin 16) (f : Slot → Slot) : (s.modSlot i f).outside = s.outside := rfl
@[simp] theorem probes_modSlot (s : State) (i : Fin 16) (f : Slot → Slot) : (s.modSlot i f).probes = s.probes := rfl
@[simp] theorem barResets_modSlot (s : State) (i : Fin 16) (f : Slot → Slot) : (s.modSlot i f).barResets = s.barResets := rfl
@[simp] theorem farExp_modSlot (s : State) (i : Fin 16) (f : Slot → Slot) : (s.modSlot i f).farExp = s.farExp := rfl
@[simp] theorem fresh_modSlot (s : State) (i : Fin 16) (f : Slot → Slot) : (s.modSlot i f).fresh = s.fresh := rfl
@[simp] theorem issue_modSlot (s : State) (i : Fin 16) (f : Slot → Slot) : (s.modSlot i f).issue = s.issue := rfl

/-! ## modMe -/

@[simp] theorem tile_modMe (s : State) (f : Slot → Slot) : (s.modMe f).tile = s.tile := rfl
@[simp] theorem rim_modMe (s : State) (f : Slot → Slot) : (s.modMe f).rim = s.rim := rfl
@[simp] theorem mem_modMe (s : State) (f : Slot → Slot) : (s.modMe f).mem = s.mem := rfl
@[simp] theorem metas_modMe (s : State) (f : Slot → Slot) : (s.modMe f).metas = s.metas := rfl
@[simp] theorem poison_modMe (s : State) (f : Slot → Slot) : (s.modMe f).poison = s.poison := rfl
@[simp] theorem base_modMe (s : State) (f : Slot → Slot) : (s.modMe f).base = s.base := rfl
@[simp] theorem recovery_modMe (s : State) (f : Slot → Slot) : (s.modMe f).recovery = s.recovery := rfl
@[simp] theorem captured_modMe (s : State) (f : Slot → Slot) : (s.modMe f).captured = s.captured := rfl
@[simp] theorem clk_modMe (s : State) (f : Slot → Slot) : (s.modMe f).clk = s.clk := rfl
@[simp] theorem agenda_modMe (s : State) (f : Slot → Slot) : (s.modMe f).agenda = s.agenda := rfl
@[simp] theorem clkAgenda_modMe (s : State) (f : Slot → Slot) : (s.modMe f).clkAgenda = s.clkAgenda := rfl
@[simp] theorem inputs_modMe (s : State) (f : Slot → Slot) : (s.modMe f).inputs = s.inputs := rfl
@[simp] theorem upsets_modMe (s : State) (f : Slot → Slot) : (s.modMe f).upsets = s.upsets := rfl
@[simp] theorem errors_modMe (s : State) (f : Slot → Slot) : (s.modMe f).errors = s.errors := rfl
@[simp] theorem outside_modMe (s : State) (f : Slot → Slot) : (s.modMe f).outside = s.outside := rfl
@[simp] theorem probes_modMe (s : State) (f : Slot → Slot) : (s.modMe f).probes = s.probes := rfl
@[simp] theorem barResets_modMe (s : State) (f : Slot → Slot) : (s.modMe f).barResets = s.barResets := rfl
@[simp] theorem farExp_modMe (s : State) (f : Slot → Slot) : (s.modMe f).farExp = s.farExp := rfl
@[simp] theorem fresh_modMe (s : State) (f : Slot → Slot) : (s.modMe f).fresh = s.fresh := rfl
@[simp] theorem issue_modMe (s : State) (f : Slot → Slot) : (s.modMe f).issue = s.issue := rfl

/-! ## bump -/

@[simp] theorem tile_bump (s : State) (n : Fin 64) : (s.bump n).tile = s.tile := rfl
@[simp] theorem rim_bump (s : State) (n : Fin 64) : (s.bump n).rim = s.rim := rfl
@[simp] theorem mem_bump (s : State) (n : Fin 64) : (s.bump n).mem = s.mem := rfl
@[simp] theorem metas_bump (s : State) (n : Fin 64) : (s.bump n).metas = s.metas := rfl
@[simp] theorem poison_bump (s : State) (n : Fin 64) : (s.bump n).poison = s.poison := rfl
@[simp] theorem base_bump (s : State) (n : Fin 64) : (s.bump n).base = s.base := rfl
@[simp] theorem recovery_bump (s : State) (n : Fin 64) : (s.bump n).recovery = s.recovery := rfl
@[simp] theorem captured_bump (s : State) (n : Fin 64) : (s.bump n).captured = s.captured := rfl
@[simp] theorem clk_bump (s : State) (n : Fin 64) : (s.bump n).clk = s.clk := rfl
@[simp] theorem agenda_bump (s : State) (n : Fin 64) : (s.bump n).agenda = s.agenda := rfl
@[simp] theorem clkAgenda_bump (s : State) (n : Fin 64) : (s.bump n).clkAgenda = s.clkAgenda := rfl
@[simp] theorem inputs_bump (s : State) (n : Fin 64) : (s.bump n).inputs = s.inputs := rfl
@[simp] theorem upsets_bump (s : State) (n : Fin 64) : (s.bump n).upsets = s.upsets := rfl
@[simp] theorem errors_bump (s : State) (n : Fin 64) : (s.bump n).errors = s.errors := rfl
@[simp] theorem outside_bump (s : State) (n : Fin 64) : (s.bump n).outside = s.outside := rfl
@[simp] theorem probes_bump (s : State) (n : Fin 64) : (s.bump n).probes = s.probes := rfl
@[simp] theorem barResets_bump (s : State) (n : Fin 64) : (s.bump n).barResets = s.barResets := rfl
@[simp] theorem farExp_bump (s : State) (n : Fin 64) : (s.bump n).farExp = s.farExp := rfl
@[simp] theorem fresh_bump (s : State) (n : Fin 64) : (s.bump n).fresh = s.fresh := rfl
@[simp] theorem issue_bump (s : State) (n : Fin 64) : (s.bump n).issue = s.issue := rfl

/-! ## after -/

@[simp] theorem tile_after (s : State) (n : Nat) (i : Instr) : (s.after n i).tile = s.tile := rfl
@[simp] theorem rim_after (s : State) (n : Nat) (i : Instr) : (s.after n i).rim = s.rim := rfl
@[simp] theorem mem_after (s : State) (n : Nat) (i : Instr) : (s.after n i).mem = s.mem := rfl
@[simp] theorem metas_after (s : State) (n : Nat) (i : Instr) : (s.after n i).metas = s.metas := rfl
@[simp] theorem poison_after (s : State) (n : Nat) (i : Instr) : (s.after n i).poison = s.poison := rfl
@[simp] theorem base_after (s : State) (n : Nat) (i : Instr) : (s.after n i).base = s.base := rfl
@[simp] theorem recovery_after (s : State) (n : Nat) (i : Instr) : (s.after n i).recovery = s.recovery := rfl
@[simp] theorem captured_after (s : State) (n : Nat) (i : Instr) : (s.after n i).captured = s.captured := rfl
@[simp] theorem clk_after (s : State) (n : Nat) (i : Instr) : (s.after n i).clk = s.clk := rfl
@[simp] theorem clkAgenda_after (s : State) (n : Nat) (i : Instr) : (s.after n i).clkAgenda = s.clkAgenda := rfl
@[simp] theorem inputs_after (s : State) (n : Nat) (i : Instr) : (s.after n i).inputs = s.inputs := rfl
@[simp] theorem upsets_after (s : State) (n : Nat) (i : Instr) : (s.after n i).upsets = s.upsets := rfl
@[simp] theorem errors_after (s : State) (n : Nat) (i : Instr) : (s.after n i).errors = s.errors := rfl
@[simp] theorem outside_after (s : State) (n : Nat) (i : Instr) : (s.after n i).outside = s.outside := rfl
@[simp] theorem probes_after (s : State) (n : Nat) (i : Instr) : (s.after n i).probes = s.probes := rfl
@[simp] theorem barResets_after (s : State) (n : Nat) (i : Instr) : (s.after n i).barResets = s.barResets := rfl
@[simp] theorem farExp_after (s : State) (n : Nat) (i : Instr) : (s.after n i).farExp = s.farExp := rfl
@[simp] theorem fresh_after (s : State) (n : Nat) (i : Instr) : (s.after n i).fresh = s.fresh := rfl
@[simp] theorem issue_after (s : State) (n : Nat) (i : Instr) : (s.after n i).issue = s.issue := rfl

/-! ## afterClk -/

@[simp] theorem tile_afterClk (s : State) (n : Nat) (i : Instr) : (s.afterClk n i).tile = s.tile := rfl
@[simp] theorem rim_afterClk (s : State) (n : Nat) (i : Instr) : (s.afterClk n i).rim = s.rim := rfl
@[simp] theorem mem_afterClk (s : State) (n : Nat) (i : Instr) : (s.afterClk n i).mem = s.mem := rfl
@[simp] theorem metas_afterClk (s : State) (n : Nat) (i : Instr) : (s.afterClk n i).metas = s.metas := rfl
@[simp] theorem poison_afterClk (s : State) (n : Nat) (i : Instr) : (s.afterClk n i).poison = s.poison := rfl
@[simp] theorem base_afterClk (s : State) (n : Nat) (i : Instr) : (s.afterClk n i).base = s.base := rfl
@[simp] theorem recovery_afterClk (s : State) (n : Nat) (i : Instr) : (s.afterClk n i).recovery = s.recovery := rfl
@[simp] theorem captured_afterClk (s : State) (n : Nat) (i : Instr) : (s.afterClk n i).captured = s.captured := rfl
@[simp] theorem clk_afterClk (s : State) (n : Nat) (i : Instr) : (s.afterClk n i).clk = s.clk := rfl
@[simp] theorem agenda_afterClk (s : State) (n : Nat) (i : Instr) : (s.afterClk n i).agenda = s.agenda := rfl
@[simp] theorem inputs_afterClk (s : State) (n : Nat) (i : Instr) : (s.afterClk n i).inputs = s.inputs := rfl
@[simp] theorem upsets_afterClk (s : State) (n : Nat) (i : Instr) : (s.afterClk n i).upsets = s.upsets := rfl
@[simp] theorem errors_afterClk (s : State) (n : Nat) (i : Instr) : (s.afterClk n i).errors = s.errors := rfl
@[simp] theorem outside_afterClk (s : State) (n : Nat) (i : Instr) : (s.afterClk n i).outside = s.outside := rfl
@[simp] theorem probes_afterClk (s : State) (n : Nat) (i : Instr) : (s.afterClk n i).probes = s.probes := rfl
@[simp] theorem barResets_afterClk (s : State) (n : Nat) (i : Instr) : (s.afterClk n i).barResets = s.barResets := rfl
@[simp] theorem farExp_afterClk (s : State) (n : Nat) (i : Instr) : (s.afterClk n i).farExp = s.farExp := rfl
@[simp] theorem fresh_afterClk (s : State) (n : Nat) (i : Instr) : (s.afterClk n i).fresh = s.fresh := rfl
@[simp] theorem issue_afterClk (s : State) (n : Nat) (i : Instr) : (s.afterClk n i).issue = s.issue := rfl

/-! ## setSw -/

@[simp] theorem tile_setSw (s : State) (m v : Word) : (s.setSw m v).tile = s.tile := rfl
@[simp] theorem rim_setSw (s : State) (m v : Word) : (s.setSw m v).rim = s.rim := rfl
@[simp] theorem mem_setSw (s : State) (m v : Word) : (s.setSw m v).mem = s.mem := rfl
@[simp] theorem metas_setSw (s : State) (m v : Word) : (s.setSw m v).metas = s.metas := rfl
@[simp] theorem poison_setSw (s : State) (m v : Word) : (s.setSw m v).poison = s.poison := rfl
@[simp] theorem base_setSw (s : State) (m v : Word) : (s.setSw m v).base = s.base := rfl
@[simp] theorem recovery_setSw (s : State) (m v : Word) : (s.setSw m v).recovery = s.recovery := rfl
@[simp] theorem captured_setSw (s : State) (m v : Word) : (s.setSw m v).captured = s.captured := rfl
@[simp] theorem clk_setSw (s : State) (m v : Word) : (s.setSw m v).clk = s.clk := rfl
@[simp] theorem agenda_setSw (s : State) (m v : Word) : (s.setSw m v).agenda = s.agenda := rfl
@[simp] theorem clkAgenda_setSw (s : State) (m v : Word) : (s.setSw m v).clkAgenda = s.clkAgenda := rfl
@[simp] theorem inputs_setSw (s : State) (m v : Word) : (s.setSw m v).inputs = s.inputs := rfl
@[simp] theorem upsets_setSw (s : State) (m v : Word) : (s.setSw m v).upsets = s.upsets := rfl
@[simp] theorem errors_setSw (s : State) (m v : Word) : (s.setSw m v).errors = s.errors := rfl
@[simp] theorem outside_setSw (s : State) (m v : Word) : (s.setSw m v).outside = s.outside := rfl
@[simp] theorem probes_setSw (s : State) (m v : Word) : (s.setSw m v).probes = s.probes := rfl
@[simp] theorem barResets_setSw (s : State) (m v : Word) : (s.setSw m v).barResets = s.barResets := rfl
@[simp] theorem farExp_setSw (s : State) (m v : Word) : (s.setSw m v).farExp = s.farExp := rfl
@[simp] theorem fresh_setSw (s : State) (m v : Word) : (s.setSw m v).fresh = s.fresh := rfl
@[simp] theorem issue_setSw (s : State) (m v : Word) : (s.setSw m v).issue = s.issue := rfl

/-! ## setFlags -/

@[simp] theorem tile_setFlags (s : State) (f : NZCV) : (s.setFlags f).tile = s.tile := rfl
@[simp] theorem rim_setFlags (s : State) (f : NZCV) : (s.setFlags f).rim = s.rim := rfl
@[simp] theorem mem_setFlags (s : State) (f : NZCV) : (s.setFlags f).mem = s.mem := rfl
@[simp] theorem metas_setFlags (s : State) (f : NZCV) : (s.setFlags f).metas = s.metas := rfl
@[simp] theorem poison_setFlags (s : State) (f : NZCV) : (s.setFlags f).poison = s.poison := rfl
@[simp] theorem base_setFlags (s : State) (f : NZCV) : (s.setFlags f).base = s.base := rfl
@[simp] theorem recovery_setFlags (s : State) (f : NZCV) : (s.setFlags f).recovery = s.recovery := rfl
@[simp] theorem captured_setFlags (s : State) (f : NZCV) : (s.setFlags f).captured = s.captured := rfl
@[simp] theorem clk_setFlags (s : State) (f : NZCV) : (s.setFlags f).clk = s.clk := rfl
@[simp] theorem agenda_setFlags (s : State) (f : NZCV) : (s.setFlags f).agenda = s.agenda := rfl
@[simp] theorem clkAgenda_setFlags (s : State) (f : NZCV) : (s.setFlags f).clkAgenda = s.clkAgenda := rfl
@[simp] theorem inputs_setFlags (s : State) (f : NZCV) : (s.setFlags f).inputs = s.inputs := rfl
@[simp] theorem upsets_setFlags (s : State) (f : NZCV) : (s.setFlags f).upsets = s.upsets := rfl
@[simp] theorem errors_setFlags (s : State) (f : NZCV) : (s.setFlags f).errors = s.errors := rfl
@[simp] theorem outside_setFlags (s : State) (f : NZCV) : (s.setFlags f).outside = s.outside := rfl
@[simp] theorem probes_setFlags (s : State) (f : NZCV) : (s.setFlags f).probes = s.probes := rfl
@[simp] theorem barResets_setFlags (s : State) (f : NZCV) : (s.setFlags f).barResets = s.barResets := rfl
@[simp] theorem farExp_setFlags (s : State) (f : NZCV) : (s.setFlags f).farExp = s.farExp := rfl
@[simp] theorem fresh_setFlags (s : State) (f : NZCV) : (s.setFlags f).fresh = s.fresh := rfl
@[simp] theorem issue_setFlags (s : State) (f : NZCV) : (s.setFlags f).issue = s.issue := rfl

/-! ## orSw -/

@[simp] theorem tile_orSw (s : State) (f : Word) : (s.orSw f).tile = s.tile := rfl
@[simp] theorem rim_orSw (s : State) (f : Word) : (s.orSw f).rim = s.rim := rfl
@[simp] theorem mem_orSw (s : State) (f : Word) : (s.orSw f).mem = s.mem := rfl
@[simp] theorem metas_orSw (s : State) (f : Word) : (s.orSw f).metas = s.metas := rfl
@[simp] theorem poison_orSw (s : State) (f : Word) : (s.orSw f).poison = s.poison := rfl
@[simp] theorem base_orSw (s : State) (f : Word) : (s.orSw f).base = s.base := rfl
@[simp] theorem recovery_orSw (s : State) (f : Word) : (s.orSw f).recovery = s.recovery := rfl
@[simp] theorem captured_orSw (s : State) (f : Word) : (s.orSw f).captured = s.captured := rfl
@[simp] theorem clk_orSw (s : State) (f : Word) : (s.orSw f).clk = s.clk := rfl
@[simp] theorem agenda_orSw (s : State) (f : Word) : (s.orSw f).agenda = s.agenda := rfl
@[simp] theorem clkAgenda_orSw (s : State) (f : Word) : (s.orSw f).clkAgenda = s.clkAgenda := rfl
@[simp] theorem inputs_orSw (s : State) (f : Word) : (s.orSw f).inputs = s.inputs := rfl
@[simp] theorem upsets_orSw (s : State) (f : Word) : (s.orSw f).upsets = s.upsets := rfl
@[simp] theorem errors_orSw (s : State) (f : Word) : (s.orSw f).errors = s.errors := rfl
@[simp] theorem outside_orSw (s : State) (f : Word) : (s.orSw f).outside = s.outside := rfl
@[simp] theorem probes_orSw (s : State) (f : Word) : (s.orSw f).probes = s.probes := rfl
@[simp] theorem barResets_orSw (s : State) (f : Word) : (s.orSw f).barResets = s.barResets := rfl
@[simp] theorem farExp_orSw (s : State) (f : Word) : (s.orSw f).farExp = s.farExp := rfl
@[simp] theorem fresh_orSw (s : State) (f : Word) : (s.orSw f).fresh = s.fresh := rfl
@[simp] theorem issue_orSw (s : State) (f : Word) : (s.orSw f).issue = s.issue := rfl

/-! ## orJf -/

@[simp] theorem tile_orJf (s : State) (f : BitVec 128) : (s.orJf f).tile = s.tile := rfl
@[simp] theorem rim_orJf (s : State) (f : BitVec 128) : (s.orJf f).rim = s.rim := rfl
@[simp] theorem mem_orJf (s : State) (f : BitVec 128) : (s.orJf f).mem = s.mem := rfl
@[simp] theorem metas_orJf (s : State) (f : BitVec 128) : (s.orJf f).metas = s.metas := rfl
@[simp] theorem poison_orJf (s : State) (f : BitVec 128) : (s.orJf f).poison = s.poison := rfl
@[simp] theorem base_orJf (s : State) (f : BitVec 128) : (s.orJf f).base = s.base := rfl
@[simp] theorem recovery_orJf (s : State) (f : BitVec 128) : (s.orJf f).recovery = s.recovery := rfl
@[simp] theorem captured_orJf (s : State) (f : BitVec 128) : (s.orJf f).captured = s.captured := rfl
@[simp] theorem clk_orJf (s : State) (f : BitVec 128) : (s.orJf f).clk = s.clk := rfl
@[simp] theorem agenda_orJf (s : State) (f : BitVec 128) : (s.orJf f).agenda = s.agenda := rfl
@[simp] theorem clkAgenda_orJf (s : State) (f : BitVec 128) : (s.orJf f).clkAgenda = s.clkAgenda := rfl
@[simp] theorem inputs_orJf (s : State) (f : BitVec 128) : (s.orJf f).inputs = s.inputs := rfl
@[simp] theorem upsets_orJf (s : State) (f : BitVec 128) : (s.orJf f).upsets = s.upsets := rfl
@[simp] theorem errors_orJf (s : State) (f : BitVec 128) : (s.orJf f).errors = s.errors := rfl
@[simp] theorem outside_orJf (s : State) (f : BitVec 128) : (s.orJf f).outside = s.outside := rfl
@[simp] theorem probes_orJf (s : State) (f : BitVec 128) : (s.orJf f).probes = s.probes := rfl
@[simp] theorem barResets_orJf (s : State) (f : BitVec 128) : (s.orJf f).barResets = s.barResets := rfl
@[simp] theorem farExp_orJf (s : State) (f : BitVec 128) : (s.orJf f).farExp = s.farExp := rfl
@[simp] theorem fresh_orJf (s : State) (f : BitVec 128) : (s.orJf f).fresh = s.fresh := rfl
@[simp] theorem issue_orJf (s : State) (f : BitVec 128) : (s.orJf f).issue = s.issue := rfl

/-! ## serve -/

@[simp] theorem tile_serve (s : State) (o : Nat) : (s.serve o).tile = s.tile := rfl
@[simp] theorem rim_serve (s : State) (o : Nat) : (s.serve o).rim = s.rim := rfl
@[simp] theorem mem_serve (s : State) (o : Nat) : (s.serve o).mem = s.mem := rfl
@[simp] theorem metas_serve (s : State) (o : Nat) : (s.serve o).metas = s.metas := rfl
@[simp] theorem poison_serve (s : State) (o : Nat) : (s.serve o).poison = s.poison := rfl
@[simp] theorem base_serve (s : State) (o : Nat) : (s.serve o).base = s.base := rfl
@[simp] theorem recovery_serve (s : State) (o : Nat) : (s.serve o).recovery = s.recovery := rfl
@[simp] theorem captured_serve (s : State) (o : Nat) : (s.serve o).captured = s.captured := rfl
@[simp] theorem clk_serve (s : State) (o : Nat) : (s.serve o).clk = s.clk := rfl
@[simp] theorem agenda_serve (s : State) (o : Nat) : (s.serve o).agenda = s.agenda := rfl
@[simp] theorem clkAgenda_serve (s : State) (o : Nat) : (s.serve o).clkAgenda = s.clkAgenda := rfl
@[simp] theorem inputs_serve (s : State) (o : Nat) : (s.serve o).inputs = s.inputs := rfl
@[simp] theorem upsets_serve (s : State) (o : Nat) : (s.serve o).upsets = s.upsets := rfl
@[simp] theorem errors_serve (s : State) (o : Nat) : (s.serve o).errors = s.errors := rfl
@[simp] theorem outside_serve (s : State) (o : Nat) : (s.serve o).outside = s.outside := rfl
@[simp] theorem probes_serve (s : State) (o : Nat) : (s.serve o).probes = s.probes := rfl
@[simp] theorem barResets_serve (s : State) (o : Nat) : (s.serve o).barResets = s.barResets := rfl
@[simp] theorem farExp_serve (s : State) (o : Nat) : (s.serve o).farExp = s.farExp := rfl
@[simp] theorem fresh_serve (s : State) (o : Nat) : (s.serve o).fresh = s.fresh := rfl
@[simp] theorem issue_serve (s : State) (o : Nat) : (s.serve o).issue = s.issue := rfl

/-! ## countReads -/

@[simp] theorem tile_countReads (s : State) (n : Nat) : (s.countReads n).tile = s.tile := rfl
@[simp] theorem rim_countReads (s : State) (n : Nat) : (s.countReads n).rim = s.rim := rfl
@[simp] theorem mem_countReads (s : State) (n : Nat) : (s.countReads n).mem = s.mem := rfl
@[simp] theorem metas_countReads (s : State) (n : Nat) : (s.countReads n).metas = s.metas := rfl
@[simp] theorem poison_countReads (s : State) (n : Nat) : (s.countReads n).poison = s.poison := rfl
@[simp] theorem base_countReads (s : State) (n : Nat) : (s.countReads n).base = s.base := rfl
@[simp] theorem recovery_countReads (s : State) (n : Nat) : (s.countReads n).recovery = s.recovery := rfl
@[simp] theorem captured_countReads (s : State) (n : Nat) : (s.countReads n).captured = s.captured := rfl
@[simp] theorem clk_countReads (s : State) (n : Nat) : (s.countReads n).clk = s.clk := rfl
@[simp] theorem agenda_countReads (s : State) (n : Nat) : (s.countReads n).agenda = s.agenda := rfl
@[simp] theorem clkAgenda_countReads (s : State) (n : Nat) : (s.countReads n).clkAgenda = s.clkAgenda := rfl
@[simp] theorem inputs_countReads (s : State) (n : Nat) : (s.countReads n).inputs = s.inputs := rfl
@[simp] theorem upsets_countReads (s : State) (n : Nat) : (s.countReads n).upsets = s.upsets := rfl
@[simp] theorem errors_countReads (s : State) (n : Nat) : (s.countReads n).errors = s.errors := rfl
@[simp] theorem outside_countReads (s : State) (n : Nat) : (s.countReads n).outside = s.outside := rfl
@[simp] theorem probes_countReads (s : State) (n : Nat) : (s.countReads n).probes = s.probes := rfl
@[simp] theorem barResets_countReads (s : State) (n : Nat) : (s.countReads n).barResets = s.barResets := rfl
@[simp] theorem farExp_countReads (s : State) (n : Nat) : (s.countReads n).farExp = s.farExp := rfl
@[simp] theorem fresh_countReads (s : State) (n : Nat) : (s.countReads n).fresh = s.fresh := rfl
@[simp] theorem issue_countReads (s : State) (n : Nat) : (s.countReads n).issue = s.issue := rfl

/-! ## jump -/

@[simp] theorem tile_jump (s : State) (pc : BitVec 22) : (s.jump pc).tile = s.tile := rfl
@[simp] theorem rim_jump (s : State) (pc : BitVec 22) : (s.jump pc).rim = s.rim := rfl
@[simp] theorem mem_jump (s : State) (pc : BitVec 22) : (s.jump pc).mem = s.mem := rfl
@[simp] theorem metas_jump (s : State) (pc : BitVec 22) : (s.jump pc).metas = s.metas := rfl
@[simp] theorem poison_jump (s : State) (pc : BitVec 22) : (s.jump pc).poison = s.poison := rfl
@[simp] theorem base_jump (s : State) (pc : BitVec 22) : (s.jump pc).base = s.base := rfl
@[simp] theorem recovery_jump (s : State) (pc : BitVec 22) : (s.jump pc).recovery = s.recovery := rfl
@[simp] theorem captured_jump (s : State) (pc : BitVec 22) : (s.jump pc).captured = s.captured := rfl
@[simp] theorem clk_jump (s : State) (pc : BitVec 22) : (s.jump pc).clk = s.clk := rfl
@[simp] theorem agenda_jump (s : State) (pc : BitVec 22) : (s.jump pc).agenda = s.agenda := rfl
@[simp] theorem clkAgenda_jump (s : State) (pc : BitVec 22) : (s.jump pc).clkAgenda = s.clkAgenda := rfl
@[simp] theorem inputs_jump (s : State) (pc : BitVec 22) : (s.jump pc).inputs = s.inputs := rfl
@[simp] theorem upsets_jump (s : State) (pc : BitVec 22) : (s.jump pc).upsets = s.upsets := rfl
@[simp] theorem errors_jump (s : State) (pc : BitVec 22) : (s.jump pc).errors = s.errors := rfl
@[simp] theorem outside_jump (s : State) (pc : BitVec 22) : (s.jump pc).outside = s.outside := rfl
@[simp] theorem probes_jump (s : State) (pc : BitVec 22) : (s.jump pc).probes = s.probes := rfl
@[simp] theorem barResets_jump (s : State) (pc : BitVec 22) : (s.jump pc).barResets = s.barResets := rfl
@[simp] theorem farExp_jump (s : State) (pc : BitVec 22) : (s.jump pc).farExp = s.farExp := rfl
@[simp] theorem fresh_jump (s : State) (pc : BitVec 22) : (s.jump pc).fresh = s.fresh := rfl
@[simp] theorem issue_jump (s : State) (pc : BitVec 22) : (s.jump pc).issue = s.issue := rfl

/-! ## setMtile -/

@[simp] theorem tile_setMtile (s : State) (t : Nat) (m : MTile) : (s.setMtile t m).tile = s.tile := rfl
@[simp] theorem rim_setMtile (s : State) (t : Nat) (m : MTile) : (s.setMtile t m).rim = s.rim := rfl
@[simp] theorem mem_setMtile (s : State) (t : Nat) (m : MTile) : (s.setMtile t m).mem = s.mem := rfl
@[simp] theorem metas_setMtile (s : State) (t : Nat) (m : MTile) : (s.setMtile t m).metas = s.metas := rfl
@[simp] theorem poison_setMtile (s : State) (t : Nat) (m : MTile) : (s.setMtile t m).poison = s.poison := rfl
@[simp] theorem base_setMtile (s : State) (t : Nat) (m : MTile) : (s.setMtile t m).base = s.base := rfl
@[simp] theorem recovery_setMtile (s : State) (t : Nat) (m : MTile) : (s.setMtile t m).recovery = s.recovery := rfl
@[simp] theorem captured_setMtile (s : State) (t : Nat) (m : MTile) : (s.setMtile t m).captured = s.captured := rfl
@[simp] theorem clk_setMtile (s : State) (t : Nat) (m : MTile) : (s.setMtile t m).clk = s.clk := rfl
@[simp] theorem agenda_setMtile (s : State) (t : Nat) (m : MTile) : (s.setMtile t m).agenda = s.agenda := rfl
@[simp] theorem clkAgenda_setMtile (s : State) (t : Nat) (m : MTile) : (s.setMtile t m).clkAgenda = s.clkAgenda := rfl
@[simp] theorem inputs_setMtile (s : State) (t : Nat) (m : MTile) : (s.setMtile t m).inputs = s.inputs := rfl
@[simp] theorem upsets_setMtile (s : State) (t : Nat) (m : MTile) : (s.setMtile t m).upsets = s.upsets := rfl
@[simp] theorem errors_setMtile (s : State) (t : Nat) (m : MTile) : (s.setMtile t m).errors = s.errors := rfl
@[simp] theorem outside_setMtile (s : State) (t : Nat) (m : MTile) : (s.setMtile t m).outside = s.outside := rfl
@[simp] theorem probes_setMtile (s : State) (t : Nat) (m : MTile) : (s.setMtile t m).probes = s.probes := rfl
@[simp] theorem barResets_setMtile (s : State) (t : Nat) (m : MTile) : (s.setMtile t m).barResets = s.barResets := rfl
@[simp] theorem farExp_setMtile (s : State) (t : Nat) (m : MTile) : (s.setMtile t m).farExp = s.farExp := rfl
@[simp] theorem fresh_setMtile (s : State) (t : Nat) (m : MTile) : (s.setMtile t m).fresh = s.fresh := rfl
@[simp] theorem issue_setMtile (s : State) (t : Nat) (m : MTile) : (s.setMtile t m).issue = s.issue := rfl

/-! ## openWindow -/

@[simp] theorem tile_openWindow (s : State) (la : BitVec 4) (w : Window) : (s.openWindow la w).tile = s.tile := rfl
@[simp] theorem rim_openWindow (s : State) (la : BitVec 4) (w : Window) : (s.openWindow la w).rim = s.rim := rfl
@[simp] theorem mem_openWindow (s : State) (la : BitVec 4) (w : Window) : (s.openWindow la w).mem = s.mem := rfl
@[simp] theorem metas_openWindow (s : State) (la : BitVec 4) (w : Window) : (s.openWindow la w).metas = s.metas := rfl
@[simp] theorem poison_openWindow (s : State) (la : BitVec 4) (w : Window) : (s.openWindow la w).poison = s.poison := rfl
@[simp] theorem base_openWindow (s : State) (la : BitVec 4) (w : Window) : (s.openWindow la w).base = s.base := rfl
@[simp] theorem recovery_openWindow (s : State) (la : BitVec 4) (w : Window) : (s.openWindow la w).recovery = s.recovery := rfl
@[simp] theorem captured_openWindow (s : State) (la : BitVec 4) (w : Window) : (s.openWindow la w).captured = s.captured := rfl
@[simp] theorem clk_openWindow (s : State) (la : BitVec 4) (w : Window) : (s.openWindow la w).clk = s.clk := rfl
@[simp] theorem agenda_openWindow (s : State) (la : BitVec 4) (w : Window) : (s.openWindow la w).agenda = s.agenda := rfl
@[simp] theorem clkAgenda_openWindow (s : State) (la : BitVec 4) (w : Window) : (s.openWindow la w).clkAgenda = s.clkAgenda := rfl
@[simp] theorem inputs_openWindow (s : State) (la : BitVec 4) (w : Window) : (s.openWindow la w).inputs = s.inputs := rfl
@[simp] theorem upsets_openWindow (s : State) (la : BitVec 4) (w : Window) : (s.openWindow la w).upsets = s.upsets := rfl
@[simp] theorem errors_openWindow (s : State) (la : BitVec 4) (w : Window) : (s.openWindow la w).errors = s.errors := rfl
@[simp] theorem outside_openWindow (s : State) (la : BitVec 4) (w : Window) : (s.openWindow la w).outside = s.outside := rfl
@[simp] theorem probes_openWindow (s : State) (la : BitVec 4) (w : Window) : (s.openWindow la w).probes = s.probes := rfl
@[simp] theorem barResets_openWindow (s : State) (la : BitVec 4) (w : Window) : (s.openWindow la w).barResets = s.barResets := rfl
@[simp] theorem farExp_openWindow (s : State) (la : BitVec 4) (w : Window) : (s.openWindow la w).farExp = s.farExp := rfl
@[simp] theorem fresh_openWindow (s : State) (la : BitVec 4) (w : Window) : (s.openWindow la w).fresh = s.fresh := rfl
@[simp] theorem issue_openWindow (s : State) (la : BitVec 4) (w : Window) : (s.openWindow la w).issue = s.issue := rfl

/-! ## modWindow -/

@[simp] theorem tile_modWindow (s : State) (i : Fin 16) (tag : Nat) (f : Window → Window) : (s.modWindow i tag f).tile = s.tile := rfl
@[simp] theorem rim_modWindow (s : State) (i : Fin 16) (tag : Nat) (f : Window → Window) : (s.modWindow i tag f).rim = s.rim := rfl
@[simp] theorem mem_modWindow (s : State) (i : Fin 16) (tag : Nat) (f : Window → Window) : (s.modWindow i tag f).mem = s.mem := rfl
@[simp] theorem metas_modWindow (s : State) (i : Fin 16) (tag : Nat) (f : Window → Window) : (s.modWindow i tag f).metas = s.metas := rfl
@[simp] theorem poison_modWindow (s : State) (i : Fin 16) (tag : Nat) (f : Window → Window) : (s.modWindow i tag f).poison = s.poison := rfl
@[simp] theorem base_modWindow (s : State) (i : Fin 16) (tag : Nat) (f : Window → Window) : (s.modWindow i tag f).base = s.base := rfl
@[simp] theorem recovery_modWindow (s : State) (i : Fin 16) (tag : Nat) (f : Window → Window) : (s.modWindow i tag f).recovery = s.recovery := rfl
@[simp] theorem captured_modWindow (s : State) (i : Fin 16) (tag : Nat) (f : Window → Window) : (s.modWindow i tag f).captured = s.captured := rfl
@[simp] theorem clk_modWindow (s : State) (i : Fin 16) (tag : Nat) (f : Window → Window) : (s.modWindow i tag f).clk = s.clk := rfl
@[simp] theorem agenda_modWindow (s : State) (i : Fin 16) (tag : Nat) (f : Window → Window) : (s.modWindow i tag f).agenda = s.agenda := rfl
@[simp] theorem clkAgenda_modWindow (s : State) (i : Fin 16) (tag : Nat) (f : Window → Window) : (s.modWindow i tag f).clkAgenda = s.clkAgenda := rfl
@[simp] theorem inputs_modWindow (s : State) (i : Fin 16) (tag : Nat) (f : Window → Window) : (s.modWindow i tag f).inputs = s.inputs := rfl
@[simp] theorem upsets_modWindow (s : State) (i : Fin 16) (tag : Nat) (f : Window → Window) : (s.modWindow i tag f).upsets = s.upsets := rfl
@[simp] theorem errors_modWindow (s : State) (i : Fin 16) (tag : Nat) (f : Window → Window) : (s.modWindow i tag f).errors = s.errors := rfl
@[simp] theorem outside_modWindow (s : State) (i : Fin 16) (tag : Nat) (f : Window → Window) : (s.modWindow i tag f).outside = s.outside := rfl
@[simp] theorem probes_modWindow (s : State) (i : Fin 16) (tag : Nat) (f : Window → Window) : (s.modWindow i tag f).probes = s.probes := rfl
@[simp] theorem barResets_modWindow (s : State) (i : Fin 16) (tag : Nat) (f : Window → Window) : (s.modWindow i tag f).barResets = s.barResets := rfl
@[simp] theorem farExp_modWindow (s : State) (i : Fin 16) (tag : Nat) (f : Window → Window) : (s.modWindow i tag f).farExp = s.farExp := rfl
@[simp] theorem fresh_modWindow (s : State) (i : Fin 16) (tag : Nat) (f : Window → Window) : (s.modWindow i tag f).fresh = s.fresh := rfl
@[simp] theorem issue_modWindow (s : State) (i : Fin 16) (tag : Nat) (f : Window → Window) : (s.modWindow i tag f).issue = s.issue := rfl

/-! ## claim -/

@[simp] theorem tile_claim (s : State) (o n : Nat) : (s.claim o n).tile = s.tile := rfl
@[simp] theorem rim_claim (s : State) (o n : Nat) : (s.claim o n).rim = s.rim := rfl
@[simp] theorem mem_claim (s : State) (o n : Nat) : (s.claim o n).mem = s.mem := rfl
@[simp] theorem metas_claim (s : State) (o n : Nat) : (s.claim o n).metas = s.metas := rfl
@[simp] theorem poison_claim (s : State) (o n : Nat) : (s.claim o n).poison = s.poison := rfl
@[simp] theorem base_claim (s : State) (o n : Nat) : (s.claim o n).base = s.base := rfl
@[simp] theorem recovery_claim (s : State) (o n : Nat) : (s.claim o n).recovery = s.recovery := rfl
@[simp] theorem captured_claim (s : State) (o n : Nat) : (s.claim o n).captured = s.captured := rfl
@[simp] theorem clk_claim (s : State) (o n : Nat) : (s.claim o n).clk = s.clk := rfl
@[simp] theorem agenda_claim (s : State) (o n : Nat) : (s.claim o n).agenda = s.agenda := rfl
@[simp] theorem clkAgenda_claim (s : State) (o n : Nat) : (s.claim o n).clkAgenda = s.clkAgenda := rfl
@[simp] theorem inputs_claim (s : State) (o n : Nat) : (s.claim o n).inputs = s.inputs := rfl
@[simp] theorem upsets_claim (s : State) (o n : Nat) : (s.claim o n).upsets = s.upsets := rfl
@[simp] theorem errors_claim (s : State) (o n : Nat) : (s.claim o n).errors = s.errors := rfl
@[simp] theorem outside_claim (s : State) (o n : Nat) : (s.claim o n).outside = s.outside := rfl
@[simp] theorem probes_claim (s : State) (o n : Nat) : (s.claim o n).probes = s.probes := rfl
@[simp] theorem barResets_claim (s : State) (o n : Nat) : (s.claim o n).barResets = s.barResets := rfl
@[simp] theorem farExp_claim (s : State) (o n : Nat) : (s.claim o n).farExp = s.farExp := rfl
@[simp] theorem fresh_claim (s : State) (o n : Nat) : (s.claim o n).fresh = s.fresh := rfl
@[simp] theorem issue_claim (s : State) (o n : Nat) : (s.claim o n).issue = s.issue := rfl

/-! ## land -/

@[simp] theorem tile_land (s : State) (l : Landing) : (s.land l).tile = s.tile := rfl
@[simp] theorem rim_land (s : State) (l : Landing) : (s.land l).rim = s.rim := rfl
@[simp] theorem mem_land (s : State) (l : Landing) : (s.land l).mem = s.mem := rfl
@[simp] theorem metas_land (s : State) (l : Landing) : (s.land l).metas = s.metas := rfl
@[simp] theorem poison_land (s : State) (l : Landing) : (s.land l).poison = s.poison := rfl
@[simp] theorem base_land (s : State) (l : Landing) : (s.land l).base = s.base := rfl
@[simp] theorem recovery_land (s : State) (l : Landing) : (s.land l).recovery = s.recovery := rfl
@[simp] theorem captured_land (s : State) (l : Landing) : (s.land l).captured = s.captured := rfl
@[simp] theorem clk_land (s : State) (l : Landing) : (s.land l).clk = s.clk := rfl
@[simp] theorem agenda_land (s : State) (l : Landing) : (s.land l).agenda = s.agenda := rfl
@[simp] theorem clkAgenda_land (s : State) (l : Landing) : (s.land l).clkAgenda = s.clkAgenda := rfl
@[simp] theorem inputs_land (s : State) (l : Landing) : (s.land l).inputs = s.inputs := rfl
@[simp] theorem upsets_land (s : State) (l : Landing) : (s.land l).upsets = s.upsets := rfl
@[simp] theorem errors_land (s : State) (l : Landing) : (s.land l).errors = s.errors := rfl
@[simp] theorem outside_land (s : State) (l : Landing) : (s.land l).outside = s.outside := rfl
@[simp] theorem probes_land (s : State) (l : Landing) : (s.land l).probes = s.probes := rfl
@[simp] theorem barResets_land (s : State) (l : Landing) : (s.land l).barResets = s.barResets := rfl
@[simp] theorem farExp_land (s : State) (l : Landing) : (s.land l).farExp = s.farExp := rfl
@[simp] theorem fresh_land (s : State) (l : Landing) : (s.land l).fresh = s.fresh := rfl
@[simp] theorem issue_land (s : State) (l : Landing) : (s.land l).issue = s.issue := rfl

/-! ## modEntry -/

@[simp] theorem tile_modEntry (s : State) (id : Nat) (f : PgEntry → PgEntry) : (s.modEntry id f).tile = s.tile := rfl
@[simp] theorem rim_modEntry (s : State) (id : Nat) (f : PgEntry → PgEntry) : (s.modEntry id f).rim = s.rim := rfl
@[simp] theorem mem_modEntry (s : State) (id : Nat) (f : PgEntry → PgEntry) : (s.modEntry id f).mem = s.mem := rfl
@[simp] theorem metas_modEntry (s : State) (id : Nat) (f : PgEntry → PgEntry) : (s.modEntry id f).metas = s.metas := rfl
@[simp] theorem poison_modEntry (s : State) (id : Nat) (f : PgEntry → PgEntry) : (s.modEntry id f).poison = s.poison := rfl
@[simp] theorem base_modEntry (s : State) (id : Nat) (f : PgEntry → PgEntry) : (s.modEntry id f).base = s.base := rfl
@[simp] theorem recovery_modEntry (s : State) (id : Nat) (f : PgEntry → PgEntry) : (s.modEntry id f).recovery = s.recovery := rfl
@[simp] theorem captured_modEntry (s : State) (id : Nat) (f : PgEntry → PgEntry) : (s.modEntry id f).captured = s.captured := rfl
@[simp] theorem clk_modEntry (s : State) (id : Nat) (f : PgEntry → PgEntry) : (s.modEntry id f).clk = s.clk := rfl
@[simp] theorem agenda_modEntry (s : State) (id : Nat) (f : PgEntry → PgEntry) : (s.modEntry id f).agenda = s.agenda := rfl
@[simp] theorem clkAgenda_modEntry (s : State) (id : Nat) (f : PgEntry → PgEntry) : (s.modEntry id f).clkAgenda = s.clkAgenda := rfl
@[simp] theorem inputs_modEntry (s : State) (id : Nat) (f : PgEntry → PgEntry) : (s.modEntry id f).inputs = s.inputs := rfl
@[simp] theorem upsets_modEntry (s : State) (id : Nat) (f : PgEntry → PgEntry) : (s.modEntry id f).upsets = s.upsets := rfl
@[simp] theorem errors_modEntry (s : State) (id : Nat) (f : PgEntry → PgEntry) : (s.modEntry id f).errors = s.errors := rfl
@[simp] theorem outside_modEntry (s : State) (id : Nat) (f : PgEntry → PgEntry) : (s.modEntry id f).outside = s.outside := rfl
@[simp] theorem probes_modEntry (s : State) (id : Nat) (f : PgEntry → PgEntry) : (s.modEntry id f).probes = s.probes := rfl
@[simp] theorem barResets_modEntry (s : State) (id : Nat) (f : PgEntry → PgEntry) : (s.modEntry id f).barResets = s.barResets := rfl
@[simp] theorem farExp_modEntry (s : State) (id : Nat) (f : PgEntry → PgEntry) : (s.modEntry id f).farExp = s.farExp := rfl
@[simp] theorem fresh_modEntry (s : State) (id : Nat) (f : PgEntry → PgEntry) : (s.modEntry id f).fresh = s.fresh := rfl
@[simp] theorem issue_modEntry (s : State) (id : Nat) (f : PgEntry → PgEntry) : (s.modEntry id f).issue = s.issue := rfl

/-! ## setBar -/

@[simp] theorem tile_setBar (s : State) (b : BitVec 7) (x : Bar) : (s.setBar b x).tile = s.tile := rfl
@[simp] theorem rim_setBar (s : State) (b : BitVec 7) (x : Bar) : (s.setBar b x).rim = s.rim := rfl
@[simp] theorem mem_setBar (s : State) (b : BitVec 7) (x : Bar) : (s.setBar b x).mem = s.mem := rfl
@[simp] theorem metas_setBar (s : State) (b : BitVec 7) (x : Bar) : (s.setBar b x).metas = s.metas := rfl
@[simp] theorem poison_setBar (s : State) (b : BitVec 7) (x : Bar) : (s.setBar b x).poison = s.poison := rfl
@[simp] theorem base_setBar (s : State) (b : BitVec 7) (x : Bar) : (s.setBar b x).base = s.base := rfl
@[simp] theorem recovery_setBar (s : State) (b : BitVec 7) (x : Bar) : (s.setBar b x).recovery = s.recovery := rfl
@[simp] theorem captured_setBar (s : State) (b : BitVec 7) (x : Bar) : (s.setBar b x).captured = s.captured := rfl
@[simp] theorem clk_setBar (s : State) (b : BitVec 7) (x : Bar) : (s.setBar b x).clk = s.clk := rfl
@[simp] theorem agenda_setBar (s : State) (b : BitVec 7) (x : Bar) : (s.setBar b x).agenda = s.agenda := rfl
@[simp] theorem clkAgenda_setBar (s : State) (b : BitVec 7) (x : Bar) : (s.setBar b x).clkAgenda = s.clkAgenda := rfl
@[simp] theorem inputs_setBar (s : State) (b : BitVec 7) (x : Bar) : (s.setBar b x).inputs = s.inputs := rfl
@[simp] theorem upsets_setBar (s : State) (b : BitVec 7) (x : Bar) : (s.setBar b x).upsets = s.upsets := rfl
@[simp] theorem errors_setBar (s : State) (b : BitVec 7) (x : Bar) : (s.setBar b x).errors = s.errors := rfl
@[simp] theorem outside_setBar (s : State) (b : BitVec 7) (x : Bar) : (s.setBar b x).outside = s.outside := rfl
@[simp] theorem probes_setBar (s : State) (b : BitVec 7) (x : Bar) : (s.setBar b x).probes = s.probes := rfl
@[simp] theorem barResets_setBar (s : State) (b : BitVec 7) (x : Bar) : (s.setBar b x).barResets = s.barResets := rfl
@[simp] theorem farExp_setBar (s : State) (b : BitVec 7) (x : Bar) : (s.setBar b x).farExp = s.farExp := rfl
@[simp] theorem fresh_setBar (s : State) (b : BitVec 7) (x : Bar) : (s.setBar b x).fresh = s.fresh := rfl
@[simp] theorem issue_setBar (s : State) (b : BitVec 7) (x : Bar) : (s.setBar b x).issue = s.issue := rfl

/-! ## setHold -/

@[simp] theorem rim_setHold (s : State) (id : Nat) (st : HoldState) : (s.setHold id st).rim = s.rim := rfl
@[simp] theorem mem_setHold (s : State) (id : Nat) (st : HoldState) : (s.setHold id st).mem = s.mem := rfl
@[simp] theorem metas_setHold (s : State) (id : Nat) (st : HoldState) : (s.setHold id st).metas = s.metas := rfl
@[simp] theorem poison_setHold (s : State) (id : Nat) (st : HoldState) : (s.setHold id st).poison = s.poison := rfl
@[simp] theorem base_setHold (s : State) (id : Nat) (st : HoldState) : (s.setHold id st).base = s.base := rfl
@[simp] theorem recovery_setHold (s : State) (id : Nat) (st : HoldState) : (s.setHold id st).recovery = s.recovery := rfl
@[simp] theorem captured_setHold (s : State) (id : Nat) (st : HoldState) : (s.setHold id st).captured = s.captured := rfl
@[simp] theorem clk_setHold (s : State) (id : Nat) (st : HoldState) : (s.setHold id st).clk = s.clk := rfl
@[simp] theorem agenda_setHold (s : State) (id : Nat) (st : HoldState) : (s.setHold id st).agenda = s.agenda := rfl
@[simp] theorem clkAgenda_setHold (s : State) (id : Nat) (st : HoldState) : (s.setHold id st).clkAgenda = s.clkAgenda := rfl
@[simp] theorem inputs_setHold (s : State) (id : Nat) (st : HoldState) : (s.setHold id st).inputs = s.inputs := rfl
@[simp] theorem upsets_setHold (s : State) (id : Nat) (st : HoldState) : (s.setHold id st).upsets = s.upsets := rfl
@[simp] theorem errors_setHold (s : State) (id : Nat) (st : HoldState) : (s.setHold id st).errors = s.errors := rfl
@[simp] theorem outside_setHold (s : State) (id : Nat) (st : HoldState) : (s.setHold id st).outside = s.outside := rfl
@[simp] theorem probes_setHold (s : State) (id : Nat) (st : HoldState) : (s.setHold id st).probes = s.probes := rfl
@[simp] theorem barResets_setHold (s : State) (id : Nat) (st : HoldState) : (s.setHold id st).barResets = s.barResets := rfl
@[simp] theorem farExp_setHold (s : State) (id : Nat) (st : HoldState) : (s.setHold id st).farExp = s.farExp := rfl
@[simp] theorem fresh_setHold (s : State) (id : Nat) (st : HoldState) : (s.setHold id st).fresh = s.fresh := rfl
@[simp] theorem issue_setHold (s : State) (id : Nat) (st : HoldState) : (s.setHold id st).issue = s.issue := rfl

/-! ## Slots -/

@[simp] theorem core_setSlot (s : State) (i : Fin 16) (x : Slot) :
    (s.setSlot i x).core = { s.core with slots := s.core.slots.set i x } := rfl

@[simp] theorem core_after (s : State) (n : Nat) (i : Instr) : (s.after n i).core = s.core := rfl
@[simp] theorem core_afterClk (s : State) (n : Nat) (i : Instr) : (s.afterClk n i).core = s.core := rfl
@[simp] theorem slot_after (s : State) (n : Nat) (e : Instr) (i : Fin 16) : (s.after n e).slot i = s.slot i := rfl
@[simp] theorem slot_afterClk (s : State) (n : Nat) (e : Instr) (i : Fin 16) : (s.afterClk n e).slot i = s.slot i := rfl
@[simp] theorem slot_bump (s : State) (n : Fin 64) (i : Fin 16) : (s.bump n).slot i = s.slot i := rfl
@[simp] theorem slot_serve (s : State) (o : Nat) (i : Fin 16) : (s.serve o).slot i = s.slot i := rfl
@[simp] theorem slot_countReads (s : State) (n : Nat) (i : Fin 16) : (s.countReads n).slot i = s.slot i := rfl
@[simp] theorem core_setHold (s : State) (id : Nat) (st : HoldState) : (s.setHold id st).core = s.core := rfl
@[simp] theorem slot_setHold (s : State) (id : Nat) (st : HoldState) (i : Fin 16) : (s.setHold id st).slot i = s.slot i := rfl
@[simp] theorem slot_claim (s : State) (o n : Nat) (i : Fin 16) : (s.claim o n).slot i = s.slot i := rfl
@[simp] theorem slot_land (s : State) (l : Landing) (i : Fin 16) : (s.land l).slot i = s.slot i := rfl
@[simp] theorem slot_modEntry (s : State) (id : Nat) (f : PgEntry → PgEntry) (i : Fin 16) : (s.modEntry id f).slot i = s.slot i := rfl
@[simp] theorem slot_setBar (s : State) (b : BitVec 7) (x : Bar) (i : Fin 16) : (s.setBar b x).slot i = s.slot i := rfl
@[simp] theorem slot_setMtile (s : State) (t : Nat) (m : MTile) (i : Fin 16) : (s.setMtile t m).slot i = s.slot i := rfl

@[simp] theorem slot_setSlot_self (s : State) (i : Fin 16) (x : Slot) : (s.setSlot i x).slot i = x := by
  simp [slot]

theorem slot_setSlot_of_ne (s : State) {i j : Fin 16} (h : i ≠ j) (x : Slot) : (s.setSlot i x).slot j = s.slot j := by
  have : (i : Nat) ≠ j := fun e => h (Fin.ext e)
  simp [slot, this]

@[simp] theorem slot_modSlot_self (s : State) (i : Fin 16) (f : Slot → Slot) : (s.modSlot i f).slot i = f (s.slot i) :=
  slot_setSlot_self ..

theorem slot_modSlot_of_ne (s : State) {i j : Fin 16} (h : i ≠ j) (f : Slot → Slot) : (s.modSlot i f).slot j = s.slot j :=
  slot_setSlot_of_ne s h _

@[simp] theorem me_modMe (s : State) (f : Slot → Slot) : (s.modMe f).me = f s.me := slot_setSlot_self ..

theorem slot_modMe_of_ne (s : State) {j : Fin 16} (h : s.issue.slot ≠ j) (f : Slot → Slot) : (s.modMe f).slot j = s.slot j :=
  slot_setSlot_of_ne s h _

@[simp] theorem me_setSw (s : State) (m v : Word) : (s.setSw m v).me = { s.me with sw := (v &&& m) ||| (s.me.sw &&& ~~~m) } :=
  me_modMe ..

@[simp] theorem me_orSw (s : State) (f : Word) : (s.orSw f).me = { s.me with sw := s.me.sw ||| f } := me_modMe ..

@[simp] theorem me_orJf (s : State) (f : BitVec 128) : (s.orJf f).me = { s.me with jf := s.me.jf ||| f } := me_modMe ..

@[simp] theorem me_jump (s : State) (pc : BitVec 22) : (s.jump pc).me = { s.me with pc := pc, line := none } := me_modMe ..

/-! ## Keys -/

@[simp] theorem key_setSlot (s : State) (i : Fin 16) (x : Slot) (o : Nat) : (s.setSlot i x).key o = s.key o := rfl
@[simp] theorem key_modMe (s : State) (f : Slot → Slot) (o : Nat) : (s.modMe f).key o = s.key o := rfl
@[simp] theorem key_serve (s : State) (p o : Nat) : (s.serve p).key o = s.key o := rfl
@[simp] theorem key_countReads (s : State) (n o : Nat) : (s.countReads n).key o = s.key o := rfl

end State

end Sys2Proof.Machine
end

