-- ==== Sys2Proof/Laws/Operations.lean ====
section
/-! SUPPORT. What the shared operations do, said once: writes of memory and registers, sources, accesses of a strand, and the
issue of writes of system registers. -/

namespace Sys2Proof.Machine

namespace State

/-! ## Writes -/

/-- A line that is about to be written changes only what tracks lines. -/
theorem touchLine_eq (s : State) (l : Nat) : ∃ n, s.touchLine l = { s with tile := { s.tile with notch := n } } := by
  unfold touchLine
  split
  · exact ⟨_, rfl⟩
  · exact ⟨s.tile.notch, rfl⟩

/-- No speculative reader of a line, no abort. -/
theorem conflict_eq {s : State} {w : Option (Fin 16)} {l : Nat}
    (h : ∀ i t, some i ≠ w → s.speculative i = some t → l ∉ t.reads) : s.conflict w l = s := by
  unfold conflict
  have step : ∀ is : List (Fin 16), is.foldl (fun s i =>
      match s.speculative i with
      | none => s
      | some t =>
        if some i = w || !t.reads.contains l then s
        else match w.bind fun w => (s.slot w).task with
          | some u => if u.key.lt t.key then s.abortTask i else s
          | none => s.abortTask i) s = s := by
    intro is
    induction is with
    | nil => rfl
    | cons i is ih =>
      rw [List.foldl_cons]
      have : (match s.speculative i with
          | none => s
          | some t =>
            if some i = w || !t.reads.contains l then s
            else match w.bind fun w => (s.slot w).task with
              | some u => if u.key.lt t.key then s.abortTask i else s
              | none => s.abortTask i) = s := by
        cases e : s.speculative i with
        | none => rfl
        | some t =>
          by_cases hi : some i = w
          · simp [hi]
          · have := h i t hi e
            simp [this]
      rw [this, ih]
  exact step allSlots

/-- Tracking and conflicts of lines that no speculative task of another has read leave only what tracks lines changed. -/
theorem foldl_touch_eq {w : Option (Fin 16)} (ls : List Nat) {s : State}
    (h : ∀ l ∈ ls, ∀ i t, some i ≠ w → s.speculative i = some t → l ∉ t.reads) :
    ∃ n, ls.foldl (fun s l => (s.touchLine l).conflict w l) s = { s with tile := { s.tile with notch := n } } := by
  induction ls generalizing s with
  | nil => exact ⟨s.tile.notch, rfl⟩
  | cons l ls ih =>
    obtain ⟨n, hn⟩ := s.touchLine_eq l
    have hc : (s.touchLine l).conflict w l = { s with tile := { s.tile with notch := n } } := by
      rw [hn]
      exact conflict_eq (fun i t hi ht => h l (by simp) i t hi ht)
    rw [List.foldl_cons, hc]
    obtain ⟨n', hn'⟩ := ih (s := { s with tile := { s.tile with notch := n } })
      (fun l' hl' i t hi ht => h l' (by simp [hl']) i t hi ht)
    exact ⟨n', by rw [hn']⟩

/-- A write whose lines no speculative task of another slot has read, and that sets no line whole: the bytes change, and what
tracks the lines. -/
theorem write_eq {s : State} {w : Option (Fin 16)} {k : Nat} {data : List Byte} (hl : data.length < 64)
    (h : ∀ i t, some i ≠ w → s.speculative i = some t → ∀ l ∈ t.reads, l * 64 + 64 ≤ k ∨ k + data.length ≤ l * 64) :
    ∃ n, s.write w k data = { s with mem := putBytes s.mem k data, tile := { s.tile with notch := n } } := by
  have hp : ∀ (ls : List Nat) (p : SMap Unit), ls.foldl (fun p l =>
      if decide (k ≤ l * 64) && decide (l * 64 + 64 ≤ k + data.length) then SMap.erase l p else p) p = p := by
    intro ls
    induction ls with
    | nil => intro p; rfl
    | cons l ls ih =>
      intro p
      have : (decide (k ≤ l * 64) && decide (l * 64 + 64 ≤ k + data.length)) = false := by
        rw [Bool.and_eq_false_iff, decide_eq_false_iff_not, decide_eq_false_iff_not]; omega
      rw [List.foldl_cons, this]
      exact ih p
  cases data with
  | nil =>
    refine ⟨s.tile.notch, ?_⟩
    simp [write, putBytes]
  | cons b bs =>
    have hm : ∀ l ∈ (List.range ((k + (b :: bs).length - 1) / 64 + 1 - k / 64)).map (k / 64 + ·),
        ∀ i t, some i ≠ w → s.speculative i = some t → l ∉ t.reads := by
      intro l hl' i t hi ht hr
      obtain ⟨j, hj, rfl⟩ := List.mem_map.mp hl'
      rw [List.mem_range] at hj
      have := h i t hi ht _ hr
      simp only [List.length_cons] at hj this
      omega
    obtain ⟨n, hn⟩ := foldl_touch_eq _ hm
    refine ⟨n, ?_⟩
    have e : (b :: bs).isEmpty = false := rfl
    simp only [write, e]
    simp only [Bool.false_eq_true, if_false] at hn ⊢
    rw [hn]
    simp only [hp]

/-- A write keeps the canonical form of memory, aborts apart. -/
theorem write_memoryCanonical {s : State} {w : Option (Fin 16)} {k : Nat} {data : List Byte} (hl : data.length < 64)
    (h : ∀ i t, some i ≠ w → s.speculative i = some t → ∀ l ∈ t.reads, l * 64 + 64 ≤ k ∨ k + data.length ≤ l * 64)
    (hm : s.MemoryCanonical) : (s.write w k data).MemoryCanonical := by
  obtain ⟨n, hn⟩ := write_eq hl h
  rw [hn]
  exact wf_putBytes data k hm

/-- With no speculative task, an aborted line is none. -/
theorem write_eq_of_settled {s : State} (hs : s.Settled) (w : Option (Fin 16)) (k : Nat) {data : List Byte} (hl : data.length < 64) :
    ∃ n, s.write w k data = { s with mem := putBytes s.mem k data, tile := { s.tile with notch := n } } :=
  write_eq hl fun i t _ ht => by simp [hs i] at ht

/-- A write of a scalar register of the issuing strand changes its eight bytes, and what tracks their lines. -/
theorem setW_eq {s : State} (h : s.WorkspaceUnread) {r : Nat} (hr : r < 32) (v : Word) :
    ∃ n, s.setW s.issue.slot r v = { s with
      mem := putBytes s.mem (s.wKey s.issue.slot r) (leBytes 8 v.toNat), tile := { s.tile with notch := n } } := by
  refine write_eq (by simp [leBytes_length]) fun i t hi ht l hl => ?_
  have := h i t (fun e => hi (by rw [e])) ht l hl
  simp only [wKey, key, leBytes_length] at this ⊢
  omega

/-- A write of a vector register of the issuing strand changes its thirty-two bytes, and what tracks their lines. -/
theorem setV_eq {s : State} (h : s.WorkspaceUnread) {r : Nat} (hr : r < 16) (v mask : Vec) :
    ∃ n bs, bs.length = 32 ∧ s.setV s.issue.slot r v mask = { s with
      mem := putBytes s.mem (s.vKey s.issue.slot r) bs, tile := { s.tile with notch := n } } := by
  have hw : ∀ bs : List Byte, bs.length = 32 → ∃ n, s.write (some s.issue.slot) (s.vKey s.issue.slot r) bs = { s with
      mem := putBytes s.mem (s.vKey s.issue.slot r) bs, tile := { s.tile with notch := n } } := by
    intro bs hb
    refine write_eq (by omega) fun i t hi ht l hl => ?_
    have := h i t (fun e => hi (by rw [e])) ht l hl
    simp only [wKey, vKey, key] at this ⊢
    omega
  obtain ⟨n, hn⟩ := hw _ (leBytes_length 32 _)
  exact ⟨n, _, leBytes_length 32 _, hn⟩

/-! ## Sources -/

/-- A source that is no port is read from its register and changes nothing. -/
theorem readW_of_ne (s : State) {r : Reg} (h : r ≠ 30) : s.readW r = (s.regW r.toNat, s) := by
  have e : (r == 30) = false := beq_eq_false_iff_ne.mpr h
  simp only [readW, e, Bool.false_eq_true, if_false]

theorem readV_of_ne (s : State) {r : Reg} (h : r ≠ 30) : s.readV r = (s.regV r.toNat, s) := by
  have e : (r == 30) = false := beq_eq_false_iff_ne.mpr h
  simp only [readV, e, Bool.false_eq_true, if_false]

/-- A source changes at most the queue bound to `qi`. -/
theorem readW_eq {s t : State} {r : Reg} {x : Word} (h : s.readW r = (x, t)) :
    t = { s with core := { s.core with mq := t.core.mq } } ∧ ∀ q, (r = 30 ∧ s.me.qi = some q) ∨ t.core.mq[q] = s.core.mq[q] := by
  unfold readW at h
  split at h
  · next hr =>
    have hr : r = 30 := by simpa using hr
    split at h
    · next q hq =>
      split at h
      · next ws m hm =>
        obtain ⟨-, rfl⟩ := Prod.mk.inj h
        refine ⟨rfl, fun q' => ?_⟩
        by_cases e : q = q'
        · exact Or.inl ⟨hr, by rw [hq, e]⟩
        · refine Or.inr ?_
          have : (q : Nat) ≠ q' := fun e' => e (Fin.ext e')
          simp [this]
      · obtain ⟨-, rfl⟩ := Prod.mk.inj h
        exact ⟨rfl, fun _ => Or.inr rfl⟩
    · obtain ⟨-, rfl⟩ := Prod.mk.inj h
      exact ⟨rfl, fun _ => Or.inr rfl⟩
  · obtain ⟨-, rfl⟩ := Prod.mk.inj h
    exact ⟨rfl, fun _ => Or.inr rfl⟩

/-! ## Accesses -/

theorem access_own {s : State} {ea : Word} {n m off : Nat} {read : Bool} (h : s.OwnPlace ea n m off read)
    (own : Nat → Result) (far : Nat → Nat → Nat → Result) : s.access ea n m read own far = own off := by
  obtain ⟨h₁, h₂, h₃, h₄⟩ := h
  cases read with
  | false => simp [access, h₁, h₂, h₃]
  | true => simp [access, h₁, h₂, h₃, h₄ rfl]

theorem grant_own {s : State} {ea : Word} {n m off : Nat} {read : Bool} (h : s.OwnAccess ea n m off read) :
    s.grant off read = .ok (s.served off read) := by
  obtain ⟨-, h₅, h₆⟩ := h
  cases read with
  | false => simp [grant, served, h₅]
  | true => simp [grant, served, h₅, h₆ rfl]

theorem lowerBuffers_of_settled {s : State} (h : s.isSpeculative = false) (l : Nat) : s.lowerBuffers l = false := by
  simp only [isSpeculative, Option.isSome_eq_false_iff, Option.isNone_iff_eq_none] at h
  simp [lowerBuffers, lowerBuffersOf, h]

theorem access_far {s : State} {ea : Word} {n m ltn core off : Nat} (h : s.FarAccess ea n m ltn core off) (read : Bool)
    (own : Nat → Result) (far : Nat → Nat → Nat → Result) : s.access ea n m read own far = far ltn core off := by
  obtain ⟨h₁, h₂, h₃, h₄⟩ := h
  by_cases e : ltn = s.core.ltn
  · subst e
    simp [access, h₁, h₂, lowerBuffers_of_settled h₃, h₄ rfl]
  · simp [access, h₁, h₂, settledOr, h₃, e]

/-! ## Writes of system registers -/

/-- A strand that may write a system register, and does not speculate, writes it. -/
theorem writes_of_issues {s t : State} {a : Reg} {v : Word} {prv ok : Bool} (h : s.Issues [.src a]) (hr : s.readW a = (v, t))
    (hs : s.isSpeculative = false) (hp : prv = true → s.me.priv = true) (hok : ok = true) (k : State → Word → State → Result) :
    s.writes a prv ok k = k s v t := by
  unfold writes
  rw [issueHead_of_issues h _ rfl hp hok]
  simp [hr, settledOr, hs]

end State

/-! ## Fields of a code -/

/-- The fields of a head or tail are read back from their packing. -/
theorem unpack_pack : ∀ (ws vs : List Nat), ws.length = vs.length → (∀ p ∈ ws.zip vs, p.2 < 2 ^ p.1) → unpack ws (pack ws vs) = vs
  | [], [], _, _ => rfl
  | w :: ws, v :: vs, hl, h => by
    have hv : v < 2 ^ w := h (w, v) (by simp)
    have hrest : ∀ p ∈ ws.zip vs, p.2 < 2 ^ p.1 := fun p hp => h p (by simp [hp])
    have hb : pack ws vs < 2 ^ total ws := pack_lt ws vs hrest
    have ih := unpack_pack ws vs (by simpa using hl) hrest
    rw [pack, unpack]
    have e₁ : (v * 2 ^ total ws + pack ws vs) / 2 ^ total ws = v := by
      rw [Nat.mul_comm, Nat.mul_add_div (Nat.two_pow_pos _), Nat.div_eq_of_lt hb, Nat.add_zero]
    have e₂ : (v * 2 ^ total ws + pack ws vs) % 2 ^ total ws = pack ws vs := by
      rw [Nat.mul_comm, Nat.mul_add_mod, Nat.mod_eq_of_lt hb]
    rw [e₁, e₂, ih, Nat.mod_eq_of_lt hv]
where
  /-- Fields that fit their widths fit together. -/
  pack_lt : ∀ (ws vs : List Nat), (∀ p ∈ ws.zip vs, p.2 < 2 ^ p.1) → pack ws vs < 2 ^ total ws
    | [], _, _ => by simp [pack, total]
    | _ :: ws, [], _ => by simp [pack, Nat.two_pow_pos]
    | w :: ws, v :: vs, h => by
      have hv : v < 2 ^ w := h (w, v) (by simp)
      have hb : pack ws vs < 2 ^ total ws := pack_lt ws vs fun p hp => h p (by simp [hp])
      rw [pack, total, Nat.pow_add]
      calc v * 2 ^ total ws + pack ws vs < v * 2 ^ total ws + 2 ^ total ws := by omega
        _ = (v + 1) * 2 ^ total ws := by rw [Nat.add_mul, Nat.one_mul]
        _ ≤ 2 ^ w * 2 ^ total ws := Nat.mul_le_mul_right _ hv

end Sys2Proof.Machine
end

