-- ==== Sys2Proof/Laws/Issue.lean ====
section
/-! SUPPORT. How an issue ends: a head that has its own effect has passed every check; a trap, a forfeit, a wait and a bubble
say so in the issue context. -/

namespace Sys2Proof.Machine

namespace State

/-! ## The issue context is no one else's -/

theorem issue_touchLine (s : State) (l : Nat) : (s.touchLine l).issue = s.issue := by
  unfold touchLine
  split <;> rfl

theorem issue_touchRange (s : State) (k n : Nat) : (s.touchRange k n).issue = s.issue := by
  unfold touchRange
  generalize List.range ((k % 64 + n + 63) / 64) = is
  induction is generalizing s with
  | nil => rfl
  | cons i is ih => rw [List.foldl_cons, ih, issue_touchLine]

theorem issue_abortTask (s : State) (i : Fin 16) : (s.abortTask i).issue = s.issue := by
  unfold abortTask
  split
  · rfl
  · next t _ =>
    have h : ∀ u : State, (u.workspaceAgain t).issue = u.issue := fun _ => rfl
    have h' : (s.beginAgain i t).issue = s.issue := rfl
    rw [h, issue_touchRange, h']

theorem issue_conflict (s : State) (w : Option (Fin 16)) (l : Nat) : (s.conflict w l).issue = s.issue := by
  unfold conflict
  generalize allSlots = is
  induction is generalizing s with
  | nil => rfl
  | cons i is ih =>
    rw [List.foldl_cons, ih]
    split
    · rfl
    · split
      · rfl
      · split
        · split
          · exact issue_abortTask ..
          · rfl
        · exact issue_abortTask ..

theorem issue_foldl_touch (w : Option (Fin 16)) (ls : List Nat) (s : State) :
    (ls.foldl (fun s l => (s.touchLine l).conflict w l) s).issue = s.issue := by
  induction ls generalizing s with
  | nil => rfl
  | cons l ls ih => rw [List.foldl_cons, ih, issue_conflict, issue_touchLine]

theorem issue_write (s : State) (w : Option (Fin 16)) (k : Nat) (data : List Byte) (p : Bool) :
    (s.write w k data p).issue = s.issue := issue_foldl_touch ..

theorem issue_usedPoison (s : State) : s.usedPoison.issue = s.issue := by
  unfold usedPoison
  simp only
  split <;> rfl

theorem issue_stopSlot (s : State) (i : Fin 16) (c : Cause) (rpc : BitVec 22) (fold : Byte) :
    (s.stopSlot i c rpc fold).issue = s.issue := by
  unfold stopSlot
  extract_lets t
  split
  · exact issue_usedPoison t
  · rfl

theorem issue_callHandler (s : State) (q : TrapReq) : (s.callHandler q).issue = s.issue := by
  unfold callHandler
  split <;> rfl

theorem issue_giveFrame (s : State) (q : TrapReq) : (s.giveFrame q).issue = s.issue := by
  rw [giveFrame, issue_callHandler, issue_claim, issue_write]

theorem issue_takeTrap (s : State) (i : Fin 16) (c : Cause) (h : HeadInfo) (rpc npc : BitVec 22) (fold : Byte) :
    (s.takeTrap i c h rpc npc fold).issue = s.issue := by
  have ht := s.issue_stopSlot i c rpc fold
  unfold takeTrap
  extract_lets x q t
  have h₀ : ∀ r : TrapReq, (t.toSupervisor r).issue = s.issue := fun _ => ht
  have h₁ : ∀ r : TrapReq, (t.giveFrame r).issue = s.issue := fun r => (issue_giveFrame t r).trans ht
  clear_value t q
  split
  · exact h₀ _
  · split
    · exact h₀ _
    · split
      · exact h₀ _
      · exact h₁ _

/-! ## Ends of an issue -/

theorem result_raise (s : State) (code : BitVec 9) (addr : Word) (detail : BitVec 32) :
    ∃ t, s.raise code addr detail = .next t ∧ t.issue.result = .trapped ⟨code, detail, addr⟩ false false :=
  ⟨_, rfl, by rw [issue_takeTrap]; rfl⟩

theorem result_raiseDecode (s : State) (code : BitVec 9) (detail : BitVec 32) :
    ∃ t, s.raiseDecode code detail = .next t ∧ t.issue.result = .trapped ⟨code, detail, 0⟩ false true :=
  ⟨_, rfl, by rw [issue_takeTrap]; rfl⟩

theorem result_raiseNext (s : State) (code : BitVec 9) (addr : Word) (detail : BitVec 32) :
    ∃ t, s.raiseNext code addr detail = .next t ∧ t.issue.result = .trapped ⟨code, detail, addr⟩ true false :=
  ⟨_, rfl, by rw [issue_takeTrap]; rfl⟩

theorem result_forfeit (s : State) : ∃ t, s.forfeit = .next t ∧ t.issue.result = .forfeited := ⟨_, rfl, rfl⟩

theorem result_sleep (s : State) (w : Wait) : ∃ t, s.sleep w = .next t ∧ t.issue.result = .slept := ⟨_, rfl, rfl⟩

theorem result_bubble (s : State) : ∃ t, s.bubble = .next t ∧ t.issue.result = .bubble := ⟨_, rfl, rfl⟩

/-- An answer is the head's own effect: a next state whose issue is done. -/
def Done (r : Result) (t : State) : Prop := r = .next t ∧ t.issue.result = .done

theorem not_done_raise {s t : State} {code : BitVec 9} {addr : Word} {detail : BitVec 32} : ¬ Done (s.raise code addr detail) t := by
  rintro ⟨h, hd⟩
  obtain ⟨u, hu, hr⟩ := s.result_raise code addr detail
  rw [hu] at h
  cases h
  rw [hr] at hd
  cases hd

theorem not_done_raiseDecode {s t : State} {code : BitVec 9} {detail : BitVec 32} : ¬ Done (s.raiseDecode code detail) t := by
  rintro ⟨h, hd⟩
  obtain ⟨u, hu, hr⟩ := s.result_raiseDecode code detail
  rw [hu] at h
  cases h
  rw [hr] at hd
  cases hd

theorem not_done_raiseNext {s t : State} {code : BitVec 9} {addr : Word} {detail : BitVec 32} :
    ¬ Done (s.raiseNext code addr detail) t := by
  rintro ⟨h, hd⟩
  obtain ⟨u, hu, hr⟩ := s.result_raiseNext code addr detail
  rw [hu] at h
  cases h
  rw [hr] at hd
  cases hd

theorem not_done_forfeit {s t : State} : ¬ Done s.forfeit t := by
  rintro ⟨h, hd⟩
  cases h
  cases hd

theorem not_done_sleep {s t : State} {w : Wait} : ¬ Done (s.sleep w) t := by
  rintro ⟨h, hd⟩
  cases h
  cases hd

theorem not_done_bubble {s t : State} : ¬ Done s.bubble t := by
  rintro ⟨h, hd⟩
  cases h
  cases hd

theorem done_of_ite {c : Prop} [Decidable c] {a b : Result} {t : State} (h : Done (if c then a else b) t) (ha : ¬ Done a t) :
    Done b t := by
  split at h
  · exact absurd h ha
  · exact h

/-- A head that has made no dead letter keeps its own effect. -/
theorem afterDead_done {s t : State} {ltn : Nat} {r : Result} (h : Done (s.afterDead ltn r) t) : Done r t := by
  cases r with
  | next u => exact done_of_ite h not_done_raiseNext
  | fault e => cases h.1
  | refused e => cases h.1

/-- A head whose ports let it take its own effect. -/
theorem portsReady_done {s t : State} {os : List Opd} {k : Unit → Result} (h : Done (s.portsReady os k) t) : Done (k ()) t := by
  unfold portsReady at h
  extract_lets need push reads touched qiState poisoned at h
  split at h
  · exact absurd h not_done_raise
  · exact absurd h not_done_raise
  · extract_lets full forms dst at h
    clear_value dst poisoned
    have h := done_of_ite h not_done_raise
    have h := done_of_ite h not_done_sleep
    split at h
    · exact absurd h not_done_raise
    · have h := done_of_ite h not_done_forfeit
      split at h
      · exact afterDead_done h
      · exact h

/-- A head that has taken its own effect has legal operands and the privilege that it asks for, and its effect is what the
rest of its meaning gives. -/
theorem issueHead_done {s t : State} {os : List Opd} {formats : List (BitVec 5 × Bool)} {privileged extra : Bool} {k : State → Result}
    (h : Done (s.issueHead os formats privileged k extra) t) :
    LegalOperands os ∧ extra = true ∧ (privileged = true → s.me.priv = true) ∧ Done (k s) t := by
  unfold issueHead at h
  split at h
  · exact absurd h not_done_raiseDecode
  · next h₁ =>
    split at h
    · exact absurd h not_done_raiseDecode
    · next h₂ =>
      simp only [Bool.or_eq_true, not_or, Bool.not_eq_true, Bool.not_eq_false'] at h₁
      split at h
      · exact absurd h not_done_raiseDecode
      · split at h
        · exact absurd h not_done_raiseDecode
        · next h₃ =>
          refine ⟨⟨h₁.1, by simpa using h₂⟩, h₁.2, fun hp => ?_, portsReady_done h⟩
          cases hm : s.me.priv with
          | true => rfl
          | false => simp [hp, hm] at h₃

end State

end Sys2Proof.Machine
end

