-- ==== Sys2Proof/Tests/Slice0.lean ====
section
/-! SUPPORT. Tests: ill-formed terms that the check refuses, words written out from the encodings of 03, single steps, and for each
statement a state and operands that meet its hypotheses. -/

namespace Sys2Proof.Tests

open Sys2Proof Sys2Proof.Machine Sys2Proof.Machine.State

set_option maxRecDepth 100000
set_option linter.unusedVariables false

/-- Does the decoder read each head and tail as the instruction beside it? -/
noncomputable def decodesAll (l : List (BitVec 16 × BitVec 64 × Instr)) : Bool :=
  l.all fun p => decide (decode ⟨p.1, p.2.1⟩ = .ok p.2.2)

/-! Ill-formed terms, one for each rule of the check. -/

theorem test_wf_bfx_past_63 : Instr.wf (.bfx 1 2 false 60 4) = false := by decide
theorem test_wf_bfi_past_63 : Instr.wf (.bfi 1 2 63 1) = false := by decide
theorem test_wf_cmp_reserved_cc : Instr.wf (.cmp 0 6 1 2) = false := by decide
theorem test_wf_cmpi_reserved_cc : Instr.wf (.cmpi 0 7 1 0) = false := by decide
theorem test_wf_tst_cc_other_than_eq_ne : Instr.wf (.tst 0 2 1 2) = false := by decide
theorem test_wf_brc_reserved_cc : Instr.wf (.brc 6 0 0) = false := by decide
theorem test_wf_loop_increment_line : Instr.wf (.loop 0 0 1 3 32) = false := by decide
theorem test_wf_loopi_increment_line : Instr.wf (.loopi 0 0 3 65 4) = false := by decide
theorem test_wf_fcmp_reserved_cc : Instr.wf (.fcmp 0 6 0 1 2) = false := by decide
theorem test_wf_topo_number : Instr.wf (.topo 1 8) = false := by decide
theorem test_wf_capr_number : Instr.wf (.capr 1 64) = false := by decide
theorem test_wf_srd_unassigned : Instr.wf (.srd 1 0x001) = false := by decide
theorem test_wf_swr_unassigned : Instr.wf (.swr 1 0x3FF) = false := by decide
theorem test_wf_swr_row_of_its_own : Instr.wf (.swr 1 0x020) = false := by decide
theorem test_wf_perfr_number : Instr.wf (.perfr 1 64) = false := by decide
theorem test_wf_trap_below_its_group : Instr.wf (.trap 0x1BF) = false := by decide
theorem test_wf_trap_above_its_group : Instr.wf (.trap 0x1E0) = false := by decide
theorem test_wf_seth_no_group : Instr.wf (.seth 1 12) = false := by decide
theorem test_wf_ld_increment_with_offset : Instr.wf (.ld 3 false true 1 2 0 8) = false := by decide
theorem test_wf_st_increment_with_offset : Instr.wf (.st 3 true 1 2 8) = false := by decide
theorem test_wf_ldv_increment_with_offset : Instr.wf (.ldv true 1 2 0 32) = false := by decide
theorem test_wf_stv_increment_with_offset : Instr.wf (.stv true 1 2 32) = false := by decide
theorem test_wf_ldmeta_increment_with_offset : Instr.wf (.ldmeta true 1 2 64) = false := by decide
theorem test_wf_stmeta_increment_with_offset : Instr.wf (.stmeta true 1 2 64) = false := by decide
theorem test_wf_put_counter_mode_0 : Instr.wf (.put 1 2 ⟨0, 0, 0, 0, 0⟩ 3) = false := by decide
theorem test_wf_get_local_counter_unused : Instr.wf (.get 1 2 ⟨3, 1, 1, 1, 2⟩ 3) = false := by decide
theorem test_wf_get_transposed_element : Instr.wf (.getTransposed 1 2 3 ⟨0, 0, 0, 1, 1⟩ 3 0) = false := by decide
theorem test_wf_putn_remote_counter_unused : Instr.wf (.putn 1 2 3 4 ⟨5, 0, 0, 1, 1⟩ 0) = false := by decide
theorem test_wf_getn_remote_core_unused : Instr.wf (.getn 1 2 3 4 ⟨0, 2, 0, 1, 1⟩ 0) = false := by decide
theorem test_wf_fenceO_no_class : Instr.wf (.fenceO 0) = false := by decide
theorem test_wf_fenceX_no_class : Instr.wf (.fenceX 1 0) = false := by decide
theorem test_wf_setev_own_tile_names_none : Instr.wf (.setev 1 0 false 7) = false := by decide
theorem test_wf_barcfg_scope_local : Instr.wf (.barcfg 0 1 2) = false := by decide
theorem test_wf_bar_scope_reserved : Instr.wf (.bar 6 2) = false := by decide
theorem test_wf_bara_scope_reserved : Instr.wf (.bara 7 1 2 3) = false := by decide
theorem test_wf_barw_scope_local : Instr.wf (.barw 0 1 2 3) = false := by decide
theorem test_wf_barred_scope_reserved : Instr.wf (.barred 6 1 2 3) = false := by decide
theorem test_wf_sendv_registers : Instr.wf (.sendv 1 2 3) = false := by decide
theorem test_wf_arjoin_value_source : Instr.wf (.arjoin 1 2 3 4 3) = false := by decide
theorem test_wf_frontadv_clock : Instr.wf (.frontadv 1 8) = false := by decide
theorem test_wf_frontrd_source : Instr.wf (.frontrd 1 10) = false := by decide
theorem test_wf_boost_level : Instr.wf (.boost 3) = false := by decide
theorem test_wf_notchrd_number : Instr.wf (.notchrd 1 6) = false := by decide
theorem test_wf_vcmp_reserved_cc : Instr.wf (.vcmp 0 7 0 1 2 3) = false := by decide
theorem test_wf_vcvt_scale_unused : Instr.wf (.vcvt 8 9 false 1 2 3) = false := by decide
theorem test_wf_vpack_scale_unused : Instr.wf (.vpack 8 9 false 1 2 3) = false := by decide
theorem test_wf_vunpack_scale_unused : Instr.wf (.vunpack 9 8 false 1 2 3) = false := by decide
theorem test_wf_vrnd_one_format : Instr.wf (.vrnd 8 9 1 2) = false := by decide
theorem test_wf_addwin_b_unused : Instr.wf (.addwin false 1 2 3 0) = false := by decide
theorem test_wf_jfclr_range : Instr.wf (.jfclr 5 4) = false := by decide
theorem test_wf_mcfg_rows : Instr.wf (.mcfg 0 false false 8 8 48 0) = false := by decide
theorem test_wf_mclr_no_tile : Instr.wf (.mclr 0) = false := by decide
theorem test_wf_mma_scale_unused : Instr.wf (.mma 4 2 1 0 0 false false 0) = false := by decide
theorem test_wf_mma_descriptor_unused : Instr.wf (.mma 4 2 0 0 0 false false 32) = false := by decide

/-! Words written out field by field from 03 R66, R71, R73, R76 and the chapters' fields: every head of each major, with operands
that the manual's layouts place. -/

theorem test_decode_two_source_integer : decodesAll [
    (0b0_01_000001_0000000, 0b01111_11100_10010_0, .add 15 28 18),
    (0b0_01_000001_0000001, 0b11100_11110_11001_0, .sub 28 30 25),
    (0b0_01_000001_0000010, 0b01111_01111_10001_0, .mul 15 15 17),
    (0b0_01_000001_0000011, 0b11100_10011_00111_0, .mulh 28 19 7),
    (0b0_01_000001_0000100, 0b00110_11010_10001_0, .mulhn 6 26 17),
    (0b0_10_000001_0000101, 0b10000_10101_10100_00000_1101_00000000, .div 16 21 20 13),
    (0b0_10_000001_0000110, 0b00110_00100_01111_00000_0101_00000000, .divn 6 4 15 5),
    (0b0_10_000001_0000111, 0b00101_00011_10010_00000_1101_00000000, .rem 5 3 18 13),
    (0b0_10_000001_0001000, 0b11101_10111_10101_00000_0001_00000000, .remn 29 23 21 1),
    (0b0_01_000001_0001001, 0b10100_01101_11111_0, .min 20 13 31),
    (0b0_01_000001_0001010, 0b01111_10101_11000_0, .max 15 21 24),
    (0b0_01_000001_0001011, 0b10100_10101_00110_0, .minn 20 21 6),
    (0b0_01_000001_0001100, 0b10100_00001_11011_0, .maxn 20 1 27),
    (0b0_01_000001_0001101, 0b10001_00011_00010_0, .and 17 3 2),
    (0b0_01_000001_0001110, 0b00010_00111_11101_0, .or 2 7 29),
    (0b0_01_000001_0001111, 0b01000_10100_00001_0, .xor 8 20 1),
    (0b0_01_000001_0010000, 0b11001_01111_01011_0, .andn 25 15 11),
    (0b0_01_000001_0010001, 0b01111_10011_11011_0, .shl 15 19 27),
    (0b0_01_000001_0010010, 0b00111_10001_01000_0, .shr 7 17 8),
    (0b0_01_000001_0010011, 0b10101_01010_10000_0, .sar 21 10 16),
    (0b0_01_000001_0010100, 0b00001_10110_00011_0, .rol 1 22 3),
    (0b0_01_000001_0010101, 0b01111_10101_01001_0, .addx 15 21 9),
    (0b0_01_000001_0010110, 0b01110_10010_11110_0, .sel 14 18 30)] = true := by decide

theorem test_decode_one_source_integer : decodesAll [
    (0b0_01_000010_0000000, 0b11011_00011_00000_0, .mov 27 3),
    (0b0_01_000010_0000001, 0b10111_01001_00000_0, .neg 23 9),
    (0b0_01_000010_0000010, 0b01011_11001_00000_0, .abs 11 25),
    (0b0_01_000010_0000011, 0b01000_10001_00000_0, .clz 8 17),
    (0b0_01_000010_0000100, 0b01010_00001_00000_0, .ctz 10 1),
    (0b0_01_000010_0000101, 0b00011_10011_00000_0, .popc 3 19),
    (0b0_01_000010_0000110, 0b11001_00100_00000_0, .bswap 25 4),
    (0b0_01_000010_0001000, 0b01101_00100_00000_0, .sextI8 13 4),
    (0b0_01_000010_0001001, 0b11100_01010_00000_0, .sextI16 28 10),
    (0b0_01_000010_0001010, 0b01101_00011_00000_0, .sextI32 13 3),
    (0b0_01_000010_0001100, 0b11111_00001_00000_0, .zextN8 31 1),
    (0b0_01_000010_0001101, 0b11100_10110_00000_0, .zextN16 28 22),
    (0b0_01_000010_0001110, 0b00001_00111_00000_0, .zextN32 1 7)] = true := by decide

theorem test_decode_immediates : decodesAll [
    (0b0_10_000011_0000000, 0b00111_11110_1110100100000111100110, .addi 7 30 3817958),
    (0b0_10_000011_0000001, 0b00010_00000_0111100001010001000110, .li 2 1971270),
    (0b0_11_000011_0000001, 0b01101_00000_0000000000000000000000_11111010111110001100110110101010, .liG 13 4210609578),
    (0b0_11_000011_0000010, 0b10111_01101_0000000000000000000000_01101011011101110111001100010000, .lih 23 13 1802990352)] = true := by decide

theorem test_decode_bit_fields : decodesAll [
    (0b0_10_000100_0000000, 0b00011_10011_000000000_1_010001_010101, .bfx 3 19 true 17 21),
    (0b0_10_000100_0000001, 0b00011_01010_000000000_0_010101_000000, .bfi 3 10 21 0)] = true := by decide

theorem test_decode_compare : decodesAll [
    (0b0_01_000101_10_000_00, 0b00000_00101_01000_0, .cmp 2 0 5 8)] = true := by decide

theorem test_decode_compare_immediate : decodesAll [
    (0b0_10_000110_11_000_00, 0b00000_00001_0000111101010101001100, .cmpi 3 0 1 251212),
    (0b0_01_000110_10_001_01, 0b00000_00110_10110_0, .tst 2 1 6 22)] = true := by decide

theorem test_decode_branches : decodesAll [
    (0b0_10_000111_000_0_000, 0b10010000_00_0011000000111010000010, .br 144 790146),
    (0b0_10_000111_000_1_011, 0b10000011_00_0011000011010000101101, .brc 3 131 799789)] = true := by decide

theorem test_decode_jumps_calls : decodesAll [
    (0b0_10_001000_0000000, 0b11111101_00_1011101101011101011011, .jmp 253 3069787),
    (0b0_10_001000_0000001, 0b11000101_00_0010000110000111000100, .call 197 549316),
    (0b0_01_001000_0000010, 0b01101100_10101_000, .callr 108 21),
    (0b0_01_001000_0000011, 0b01100011_00100_000, .ret 99 4)] = true := by decide

theorem test_decode_nop : decodesAll [
    (0b0_00_001110_0000000, 0, .nop)] = true := by decide

theorem test_decode_loops : decodesAll [
    (0b0_11_001001_0000000, 0b01100110_01101100_00111_00001_0100010100010010000000_0000000000000000, .loop 102 108 7 1 1131648),
    (0b0_11_001001_0000001, 0b11011110_11111001_00000_11010_1001011110111110000000_0100110111011101, .loopi 222 249 26 2486144 19933)] = true := by decide

theorem test_decode_scalar_float : decodesAll [
    (0b0_01_001010_001_0000, 0b00111_00110_01101_0, .fadd 1 7 6 13),
    (0b0_01_001010_111_0001, 0b10100_10101_10011_0, .fsub 7 20 21 19),
    (0b0_01_001010_001_0010, 0b00010_00101_00111_0, .fmul 1 2 5 7),
    (0b0_01_001010_100_0011, 0b01001_00001_11001_0, .ffma 4 9 1 25),
    (0b0_10_001010_101_0100, 0b01011_11011_01010_00000_0111_00000000, .fdiv 5 11 27 10 7),
    (0b0_10_001010_001_0101, 0b00011_00011_00000_00000_0100_00000000, .fsqrt 1 3 3 4),
    (0b0_01_001010_101_0110, 0b10101_01000_00001_0, .fmin 5 21 8 1),
    (0b0_01_001010_101_0111, 0b01100_01100_10100_0, .fmax 5 12 12 20),
    (0b0_01_001010_100_1000, 0b00101_11111_00000_0, .fabs 4 5 31),
    (0b0_01_001010_101_1001, 0b10000_11011_00000_0, .fneg 5 16 27),
    (0b0_01_001010_101_1010, 0b00101_11100_00000_0, .fclass 5 5 28)] = true := by decide

theorem test_decode_float_compare : decodesAll [
    (0b0_01_001011_10_001_11, 0b00000_00101_01010_0, .fcmp 2 1 3 5 10)] = true := by decide

theorem test_decode_float_convert : decodesAll [
    (0b0_10_001100_00_11110, 0b01000_11011_00000_00000_0000_10100_000, .fcvt 30 20 8 27)] = true := by decide

theorem test_decode_queries : decodesAll [
    (0b0_10_001101_0000000, 0b01000_00000_0000000000000000000101, .topo 8 5),
    (0b0_10_001101_0000001, 0b11000_00000_0000000000000000000101, .capr 24 5),
    (0b0_10_001101_0000100, 0b00111_00000_0000000000000000000101, .perfr 7 5),
    (0b0_10_001101_0000010, 0b00110_00000_0000000000_001000110000, .srd 6 560),
    (0b0_10_001101_0000011, 0b00000_11000_0000000000_000010001011, .swr 24 139),
    (0b0_10_001101_0000011, 0b00000_10101_0000000000_000000000000, .sysSwWrite 21),
    (0b0_10_001101_0000011, 0b00000_11111_0000000000_000000010001, .bankpmWrite 31),
    (0b0_10_001101_0000011, 0b00000_10010_0000000000_000001000000, .nivWrite 18),
    (0b0_10_001101_0000011, 0b00000_00111_0000000000_000101000000, .ptrootWrite 7),
    (0b0_10_001101_0000011, 0b00000_10110_0000000000_000001100100, .collectiveStart 22),
    (0b0_10_001101_0000011, 0b00000_11111_0000000000_001000010001, .jckptWrite 31),
    (0b0_10_001101_0000011, 0b00000_01101_0000000000_00000010000_1, .sseedWrite true 13),
    (0b0_01_001101_0000101, 0b10100_00011_01110_0, .rndk 20 3 14)] = true := by decide

theorem test_decode_traps : decodesAll [
    (0b0_10_001111_0000000, 0b00000_00000_0000000000000_111000011, .trap 451),
    (0b0_01_001111_0000001, 0b00011011_00100_000, .rett 27 4),
    (0b0_10_001111_0000010, 0b00000_00010_000000000000000000_0111, .seth 2 7),
    (0b0_01_001111_0000011, 0b10001_11111_00000_0, .cause 17 31),
    (0b0_10_001111_0000100, 0b00000_00000_00000000000000000000_0_1, .smode true),
    (0b0_10_001111_0000100, 0b00000_00000_00000000000000000000_1_1, .smodeServed true)] = true := by decide

theorem test_decode_loads_stores : decodesAll [
    (0b0_10_010000_11_1_1_000, 0b01110_11011_1111_000000000000000000, .ld 3 true true 14 27 15 0),
    (0b0_10_010000_11_0_1_001, 0b01010_10001_0000_000000000000000000, .st 3 true 10 17 0)] = true := by decide

theorem test_decode_vector_loads : decodesAll [
    (0b0_10_010001_00_0_1_000, 0b11110_11000_0010_000000000000000000, .ldv true 30 24 2 0),
    (0b0_10_010001_00_0_1_001, 0b01000_10000_0000_000000000000000000, .stv true 8 16 0)] = true := by decide

theorem test_decode_indexed_loads : decodesAll [
    (0b0_10_010010_11_1_1_000, 0b00111_11110_11110_00000_0100_000000_11, .ldg 3 true true 7 30 30 4 3),
    (0b0_10_010010_01_0_1_001, 0b01001_01110_01111_00000_0000_000000_01, .stg 1 true 9 14 15 1)] = true := by decide

theorem test_decode_ordered_loads : decodesAll [
    (0b0_10_010011_01_1_0_000, 0b00110_01010_01100_00000_1001_00000000, .lda 1 true 6 10 12 9),
    (0b0_10_010011_11_0_0_001, 0b00101_00011_01100_00000_0000_00000000, .stl 3 5 3 12)] = true := by decide

theorem test_decode_atomics : decodesAll [
    (0b0_10_010100_1_1_1_0000, 0b01011_10110_11000_00000_1100_00000000, .atomAdd true true 11 22 24 12),
    (0b0_10_010100_1_1_1_0001, 0b11110_00001_10000_00000_1111_00000000, .atomAnd true true 30 1 16 15),
    (0b0_10_010100_1_1_1_0010, 0b11111_00010_00001_00000_1010_00000000, .atomOr true true 31 2 1 10),
    (0b0_10_010100_1_1_1_0011, 0b00011_11000_01010_00000_0110_00000000, .atomXor true true 3 24 10 6),
    (0b0_10_010100_1_1_1_0100, 0b00011_01111_10010_00000_0110_00000000, .atomMin true true 3 15 18 6),
    (0b0_10_010100_1_1_1_0101, 0b11010_11111_11110_00000_0110_00000000, .atomMax true true 26 31 30 6),
    (0b0_10_010100_1_1_1_0110, 0b10110_10000_11101_00000_0010_00000000, .atomSwap true true 22 16 29 2),
    (0b0_10_010100_1_1_1_0111, 0b11100_10000_10011_00001_1010_00000000, .atomCas true true 28 16 19 1 10)] = true := by decide

theorem test_decode_remote_adds : decodesAll [
    (0b0_10_010101_0000000, 0b00000_10110_01101_00000_0000_0111_1010, .raddF32 22 13 7 10),
    (0b0_10_010101_0000001, 0b00000_00001_10100_00000_0000_0010_0010, .raddB16 1 20 2 2)] = true := by decide

theorem test_decode_put_get : decodesAll [
    (0b0_11_010110_0000000, 0b00000_00011_10101_00000_0000_000111011010_0101_1111_0111_11_0_00_10111010100, .put 3 21 ⟨474, 5, 15, 7, 3⟩ 1492),
    (0b0_11_010110_0000001, 0b00000_01011_01101_00000_0000_111011110011_1100_1100_1010_11_0_00_01110101010, .get 11 13 ⟨3827, 12, 12, 10, 3⟩ 938),
    (0b0_11_010110_0000001, 0b00000_01111_01111_11011_0000_100010101001_0010_1001_1101_11_1_10_0000_1000010, .getTransposed 15 15 27 ⟨2217, 2, 9, 13, 3⟩ 2 66),
    (0b0_11_010110_0000010, 0b00001_01010_10100_00011_0000_011110110010_0001_0100_1100_11_0_00_00011101000, .putn 1 10 20 3 ⟨1970, 1, 4, 12, 3⟩ 232),
    (0b0_11_010110_0000011, 0b10000_11001_10100_10110_0000_111010111011_1000_0101_1111_11_0_00_00000011000, .getn 16 25 20 22 ⟨3771, 8, 5, 15, 3⟩ 24)] = true := by decide

theorem test_decode_waits : decodesAll [
    (0b0_10_010111_0000000, 0b01100_01010_00000_00000_0000_0000_0011, .waitk 12 10 3),
    (0b0_10_010111_0000001, 0b10110_10100_00111_00000_0000_0000000_1, .waita 22 20 7 true)] = true := by decide

theorem test_decode_metadata : decodesAll [
    (0b0_10_011000_01_1_1_000, 0b10110_11110_0000_000000000000000000, .ldmeta true 22 30 0),
    (0b0_10_011000_01_1_1_001, 0b10000_11101_0000_000000000000000000, .stmeta true 16 29 0),
    (0b0_10_011000_01_0_0_010, 0b00000_01011_0000_011001111001111001, .pref 1 11 106105)] = true := by decide

theorem test_decode_fences : decodesAll [
    (0b0_01_011001_0000000, 0b00000_10110_00000_0, .fenceR 22),
    (0b0_10_011001_0000001, 0b00000_00000_0000000000000000_010001, .fenceO 17),
    (0b0_10_011001_0000010, 0b00000_00000_00000000_001101_00_101001, .fenceX 13 41),
    (0b0_00_011001_0000011, 0, .fenceL)] = true := by decide

theorem test_decode_spawn : decodesAll [
    (0b0_11_011010_0000000, 0b00000_01110_11010_00000_0000_000000000000000000_1100111001010101010001, .spawn 14 26 3380561),
    (0b0_11_011010_0000001, 0b00000_11001_11110_00111_0000_000000000000000000_1110000101011001010100, .spawnS 25 30 7 3692116)] = true := by decide

theorem test_decode_strands : decodesAll [
    (0b0_01_011011_0000000, 0b00110111_00000_000, .quit 55),
    (0b0_10_011011_0000001, 0b00000000_00_0110001001101001010001, .fork 1612369),
    (0b0_01_011011_0000010, 0b00000_01000_00000_0, .join 8),
    (0b0_00_011011_0000011, 0, .yield),
    (0b0_01_011011_0000100, 0b00000_10011_00000_0, .migrate 19)] = true := by decide

theorem test_decode_tasks_events : decodesAll [
    (0b0_11_011100_0000000, 0b00000_11110_01011_00111_0000_00000000000000_01_01_0111111100011000011110, .task 30 11 7 2082334 1 1),
    (0b0_10_011100_0000001, 0b00000_01100_1_110101100101_0000000_01, .setev 12 1 true 3429),
    (0b0_10_011100_0000010, 0b00000_10111_00000000000000000000_01, .clrev 23 1),
    (0b0_10_011100_0000011, 0b11111_01001_0000000000000000000_1_01, .waitev 31 9 1 true)] = true := by decide

theorem test_decode_barriers : decodesAll [
    (0b0_10_011101_100_0000, 0b00000_10000_000000000000000_0100100, .barcfg 4 16 36),
    (0b0_10_011101_010_0001, 0b00000_00000_000000000000000_1101011, .bar 2 107),
    (0b0_10_011101_100_0010, 0b01101_10101_000000000000000_1000011, .bara 4 13 21 67),
    (0b0_10_011101_100_0011, 0b10110_01011_000000000000000_1011100, .barw 4 22 11 92),
    (0b0_10_011101_101_0100, 0b01111_01011_000000000000000_0001010, .barred 5 15 11 10)] = true := by decide

theorem test_decode_messages : decodesAll [
    (0b0_10_011110_0000000, 0b00000_11011_00010_00000_0000_00_010010, .send 27 2 18),
    (0b0_10_011110_0000001, 0b00000_11100_10100_00000_0000_000000_10, .sendv 28 20 2),
    (0b0_10_011110_0000010, 0b00010_10110_10111_00000_0000_00000_011, .recv 2 22 23 3),
    (0b0_10_011110_0000011, 0b10011_00000_00000_00000_0000_00000_011, .recvv 19 3)] = true := by decide

theorem test_decode_ports : decodesAll [
    (0b0_10_011111_0000000, 0b00000_00000_00000_00000_0000_000_011_00, .qbindQi 3),
    (0b0_10_011111_0000000, 0b00000_10101_00000_00000_0000_110011_01, .qbindQo 21 51),
    (0b0_10_011111_0000000, 0b00000_00000_00000_00000_0000_000000_10, .qbindQiOff),
    (0b0_10_011111_0000000, 0b00000_00000_00000_00000_0000_000000_11, .qbindQoOff),
    (0b0_10_011111_0000001, 0b10011_00000_00000_00000_0000_00000_001, .mqstat 19 1),
    (0b0_10_011111_0000010, 0b10101_00101_00000_00000_0000_00000_100, .peek 21 5 4)] = true := by decide

theorem test_decode_delta_queues : decodesAll [
    (0b0_10_100000_0000000, 0b00000_01111_00111_00000_0000_00_000010, .dqpush 15 7 2),
    (0b0_10_100000_0000001, 0b11001_11011_01001_00000_0100_000_1_1101, .dqpop 25 27 9 4 true 13),
    (0b0_10_100000_0000010, 0b00010_10101_00100_00000_0000_00000000, .dqcons 2 21 4)] = true := by decide

theorem test_decode_arrangements : decodesAll [
    (0b0_10_100001_0000000, 0b00000_01111_00100_00000_0000_10100010, .arupd 15 4 162),
    (0b0_10_100001_0000001, 0b10010_10101_10101_11010_0000_000000_10, .arjoin 18 21 21 26 2),
    (0b0_10_100001_0000010, 0b01100_11111_00011_10110_0000_0000000_1, .arscan 12 31 3 22 true),
    (0b0_10_100001_0000011, 0b00000_00111_11011_00000_0000_00000000, .arcompact 7 27)] = true := by decide

theorem test_decode_frontier : decodesAll [
    (0b0_01_100010_0000000, 0b00000_10000_00101_0, .frontadv 16 5),
    (0b0_01_100010_0000001, 0b01001_00000_01001_0, .frontrd 9 9),
    (0b0_01_100010_0000010, 0b00110_10111_00000_0, .dqwaitf 6 23)] = true := by decide

theorem test_decode_parking : decodesAll [
    (0b0_10_100011_0000000, 0b00001_11001_00000_00000_0000_0000_1000, .wpset 1 25 8),
    (0b0_10_100011_0000001, 0b10010_10111_00000_00000_0000_0000_0001, .park 18 23 1),
    (0b0_10_100011_0000010, 0b00110_01000_00000_00000_0000_0000_0101, .unpark 6 8 5),
    (0b0_10_100011_0000011, 0b00000_11001_01100_00000_0000_00_100011, .standcfg 25 12 35)] = true := by decide

theorem test_decode_pages_keys : decodesAll [
    (0b0_10_100100_0000000, 0b00000_10111_00000_00000_0000_00_111101, .rtset 23 61),
    (0b0_10_100100_0000001, 0b00000_10001_00000_00000_0000_000000_00, .tlbinvAddr 17),
    (0b0_10_100100_0000001, 0b00000_10001_00000_00000_0000_000000_01, .tlbinvAll 17),
    (0b0_10_100100_0000010, 0b10100_11001_00110_00000_0000_00_011010, .pgattr 20 25 6 26),
    (0b0_10_100100_0000011, 0b11100_11010_00000_00000_0000_000000_00, .keyselLoad 28 26),
    (0b0_10_100100_0000011, 0b10111_00000_00000_00000_0000_000000_01, .keyselErase 23),
    (0b0_10_100100_0000011, 0b11101_00000_00000_00000_0000_000000_10, .keyselStatus 29),
    (0b0_10_100100_0000100, 0b01000_00011_00000_00000_0000_000000_00, .poisonqReadLocal 8 3),
    (0b0_10_100100_0000100, 0b01110_11110_00000_00000_0000_000000_01, .poisonqClearLocal 14 30),
    (0b0_10_100100_0000100, 0b11101_11000_00000_00000_0000_000000_10, .poisonqReadDevice 29 24),
    (0b0_10_100100_0000100, 0b01101_00101_00000_00000_0000_000000_11, .poisonqClearDevice 13 5)] = true := by decide

theorem test_decode_boost : decodesAll [
    (0b0_10_100101_0000000, 0b00000_00000_00000000000000000000_10, .boost 2)] = true := by decide

theorem test_decode_notches : decodesAll [
    (0b0_00_100110_0000000, 0, .notch),
    (0b0_01_100110_0000001, 0b01111_00101_00000_0, .notchrd 15 5),
    (0b0_10_100110_0000010, 0b00000_01111_01_0000_1010000000100100, .ckexcl 15 1 40996),
    (0b0_00_100110_0000011, 0, .wdpet)] = true := by decide

theorem test_decode_vector_float : decodesAll [
    (0b0_01_110000_001_0000, 0b01101_10010_10011_0, .vadd 1 13 18 19),
    (0b0_10_110000_110_0000, 0b11101_10001_11010_00000_1110_00000000, .vaddL 6 29 17 26 14),
    (0b0_01_110000_011_0001, 0b01111_01011_10101_0, .vsub 3 15 11 21),
    (0b0_10_110000_010_0001, 0b00100_11000_11100_00000_1110_00000000, .vsubL 2 4 24 28 14),
    (0b0_01_110000_111_0010, 0b10101_11110_10111_0, .vmul 7 21 30 23),
    (0b0_10_110000_001_0010, 0b00111_01000_11101_00000_0111_00000000, .vmulL 1 7 8 29 7),
    (0b0_01_110000_001_0011, 0b01010_10010_11010_0, .vdiv 1 10 18 26),
    (0b0_10_110000_011_0011, 0b01001_11110_10111_00000_1110_00000000, .vdivL 3 9 30 23 14),
    (0b0_01_110000_001_0100, 0b01100_10001_00011_0, .vmin 1 12 17 3),
    (0b0_10_110000_001_0100, 0b01111_01011_10010_00000_0111_00000000, .vminL 1 15 11 18 7),
    (0b0_01_110000_111_0101, 0b01001_10000_11110_0, .vmax 7 9 16 30),
    (0b0_10_110000_001_0101, 0b00111_11010_11100_00000_0010_00000000, .vmaxL 1 7 26 28 2),
    (0b0_01_110000_100_0110, 0b11010_00010_00110_0, .vpow 4 26 2 6),
    (0b0_10_110000_101_0110, 0b01011_10110_11010_00000_1111_00000000, .vpowL 5 11 22 26 15)] = true := by decide

theorem test_decode_vector_fused : decodesAll [
    (0b0_01_110001_010_0000, 0b10000_00101_10001_0, .vfma 2 16 5 17),
    (0b0_10_110001_110_0000, 0b10001_11011_10110_00000_1100_00000000, .vfmaL 6 17 27 22 12),
    (0b0_01_110001_100_0001, 0b11111_11101_10000_0, .vfms 4 31 29 16),
    (0b0_10_110001_101_0001, 0b11111_10111_00011_00000_1101_00000000, .vfmsL 5 31 23 3 13)] = true := by decide

theorem test_decode_vector_functions : decodesAll [
    (0b0_01_110010_010_0000, 0b01111_10001_00000_0, .vsqrt 2 15 17),
    (0b0_10_110010_101_0000, 0b01010_11011_00000_00000_1100_00000000, .vsqrtL 5 10 27 12),
    (0b0_01_110010_101_0001, 0b10101_00110_00000_0, .vrsq 5 21 6),
    (0b0_10_110010_101_0001, 0b10001_11011_00000_00000_1111_00000000, .vrsqL 5 17 27 15),
    (0b0_01_110010_101_0010, 0b01001_01010_00000_0, .vexp 5 9 10),
    (0b0_10_110010_110_0010, 0b01101_11111_00000_00000_1110_00000000, .vexpL 6 13 31 14),
    (0b0_01_110010_111_0011, 0b11101_10100_00000_0, .vlog 7 29 20),
    (0b0_10_110010_010_0011, 0b01010_11100_00000_00000_0011_00000000, .vlogL 2 10 28 3),
    (0b0_01_110010_101_0100, 0b10001_01001_00000_0, .vsin 5 17 9),
    (0b0_10_110010_101_0100, 0b10000_00111_00000_00000_0111_00000000, .vsinL 5 16 7 7),
    (0b0_01_110010_101_0101, 0b00100_10001_00000_0, .vcos 5 4 17),
    (0b0_10_110010_001_0101, 0b10100_01101_00000_00000_0001_00000000, .vcosL 1 20 13 1),
    (0b0_01_110010_101_0110, 0b00010_10001_00000_0, .vtanh 5 2 17),
    (0b0_10_110010_100_0110, 0b10010_11010_00000_00000_1010_00000000, .vtanhL 4 18 26 10),
    (0b0_01_110010_001_0111, 0b10000_00011_00000_0, .vabs 1 16 3),
    (0b0_10_110010_110_0111, 0b00110_00011_00000_00000_1111_00000000, .vabsL 6 6 3 15),
    (0b0_01_110010_101_1000, 0b01111_01110_00000_0, .vneg 5 15 14),
    (0b0_10_110010_111_1000, 0b11110_01101_00000_00000_0101_00000000, .vnegL 7 30 13 5)] = true := by decide

theorem test_decode_vector_compare : decodesAll [
    (0b0_01_110011_01_011_10, 0b00101_01011_01110_0, .vcmp 1 3 2 5 11 14)] = true := by decide

theorem test_decode_vector_integer : decodesAll [
    (0b0_01_110100_00_0_0000, 0b11101_11011_11110_0, .vand 29 27 30),
    (0b0_01_110100_00_0_0001, 0b11101_11110_10000_0, .vor 29 30 16),
    (0b0_01_110100_00_0_0010, 0b10001_01011_00100_0, .vxor 17 11 4),
    (0b0_01_110100_00_0_1000, 0b00111_01110_10100_0, .vsel 7 14 20),
    (0b0_01_110100_01_1_0011, 0b00101_10111_11001_0, .vshl 1 true 5 23 25),
    (0b0_01_110100_01_1_0100, 0b00111_00101_01000_0, .vshr 1 true 7 5 8),
    (0b0_01_110100_01_1_0101, 0b01011_11000_01100_0, .viadd 1 true 11 24 12),
    (0b0_01_110100_01_1_0110, 0b00100_10000_11000_0, .visub 1 true 4 16 24),
    (0b0_01_110100_11_1_0111, 0b11100_10001_10100_0, .vimul 3 true 28 17 20)] = true := by decide

theorem test_decode_reductions : decodesAll [
    (0b0_10_110101_0000000, 0b01001_10111_00111_00000_0000_000_10111, .vdot 23 9 23 7),
    (0b0_10_110101_0000001, 0b10001_11101_00000_00000_0000_000_01110, .vredAdd 14 17 29),
    (0b0_10_110101_0000010, 0b00001_01101_00000_00000_0000_000_10101, .vredMin 21 1 13),
    (0b0_10_110101_0000011, 0b01110_11011_00000_00000_0000_000_10001, .vredMax 17 14 27),
    (0b0_10_110101_0000100, 0b10100_00110_11110_00000_0000_000_10010, .vredq 18 20 6)] = true := by decide

theorem test_decode_shuffles : decodesAll [
    (0b0_10_110110_0000000, 0b00111_11100_10101_00000_0000_00000_0_11, .vshuf 3 7 28 21),
    (0b0_10_110110_0000001, 0b10101_00111_00000_00000_0000_00000_0_11, .vsplat 3 21 7),
    (0b0_10_110110_0000010, 0b00111_11100_10010_00000_0000_00000_0_11, .vins 3 7 28 18),
    (0b0_10_110110_0000011, 0b10011_11100_00101_00000_0000_00000_1_11, .vext 3 true 19 28 5)] = true := by decide

theorem test_decode_conversions : decodesAll [
    (0b0_10_110111_00_10101, 0b11010_01100_00000_11101_0000_00110_1_00, .vcvt 21 6 true 26 12 29),
    (0b0_10_110111_01_01011, 0b10100_01011_00000_11101_0000_11110_1_00, .vpack 11 30 true 20 11 29),
    (0b0_10_110111_10_00111, 0b00111_11001_00000_00111_0000_11101_1_00, .vunpack 7 29 true 7 25 7),
    (0b0_10_110111_11_00100, 0b00101_11101_00000_00000_0000_00100_0_00, .vrnd 4 4 5 29)] = true := by decide

theorem test_decode_streams : decodesAll [
    (0b0_10_111000_010_0000, 0b00101_11000_00011_00000_0101_01100100, .vaddM 2 5 24 3 5 100),
    (0b0_10_111000_001_0001, 0b01110_11011_11111_00000_0111_10001100, .vmulM 1 14 27 31 7 140),
    (0b0_10_111000_111_0010, 0b10111_00101_00111_00000_0111_10100001, .vfmaM 7 23 5 7 7 161)] = true := by decide

theorem test_decode_windows : decodesAll [
    (0b0_10_111001_0000000, 0b10110_11010_00001_00000_0010_0000000_1, .addwin true 22 26 1 2),
    (0b0_10_111001_0000001, 0b00111_10011_00000_00000_1011_000_01100, .rdwin 12 7 19 11),
    (0b0_10_111001_0000010, 0b00000_11110_00000_00000_1110_00000000, .clrwin 30 14)] = true := by decide

theorem test_decode_jets : decodesAll [
    (0b0_10_111010_0000000, 0b00000_00000_00000000000000000_11111, .jord 31),
    (0b0_10_111010_0000001, 0b01100_00100_10111_00000_1001_0_11_00000, .jseed 3 12 4 23 9),
    (0b0_10_111010_0000010, 0b11001_01011_10001_00000_1011_0_01_00000, .jseedv 1 25 11 17 11),
    (0b0_10_111010_0000011, 0b11010_00011_00000_00000_1000_0_01_00000, .jconst 1 26 3 8),
    (0b0_10_111010_0000100, 0b00001_00010_00000_00000_1101_0_11_10100, .jext 3 1 2 20 13),
    (0b0_10_111010_0000101, 0b10001_11101_00000_00000_1010_0_10_00101, .jder 2 17 29 5 10),
    (0b0_10_111010_0000110, 0b00111_00110_00000_00000_0010_0_01_00110, .jtrunc 1 7 6 6 2),
    (0b0_10_111010_0000111, 0b11011_00000_00000_00000_0000_0000000_1, .jfrd 27 true),
    (0b0_10_111010_0001000, 0b00000_00000_000000000000_11101_10010, .jfclr 18 29)] = true := by decide

theorem test_decode_matrix_setup : decodesAll [
    (0b0_11_111011_0000000, 0b00000_00000_00000_00000_0000_10_1_1_00101_11111_101111_101100_00000000000000, .mcfg 2 true true 5 31 47 44),
    (0b0_10_111011_0000001, 0b00000_00000_000000000000000000_1000, .mclr 8),
    (0b0_10_111011_0000010, 0b00011_00000_0000000000000000000_0_01, .mres 3 1),
    (0b0_10_111011_0000010, 0b01011_00000_0000000000000000000_1_10, .mresRelease 11 2)] = true := by decide

theorem test_decode_matrix_multiply : decodesAll [
    (0b0_11_111100_0000000, 0b00000_01111_01110_10001_0000_10_00_011100_1_1_000000_0011010111001000001001, .mma 15 14 17 2 28 true true 881161),
    (0b0_11_111100_0000001, 0b00000_10100_01100_00001_0000_00_00_101001_00_000000_0000000000000000000000, .mmj 20 12 1 41)] = true := by decide

theorem test_decode_matrix_read : decodesAll [
    (0b0_10_111101_0000000, 0b00000_10111_00010_00000_0000_01_0_00110, .mrd 23 2 1 6),
    (0b0_10_111101_0000001, 0b00000_01110_01111_00000_0000_10_0_11000, .macc 14 15 2 24),
    (0b0_10_111101_0000010, 0b01100_01101_00000_00000_0000_11101100, .xpkd 12 13 236)] = true := by decide
/-! Words that the manual itself writes out beside their assembly. -/

/-- 03 R83; 04 R103 with 22; 14, 15 and 22 for the control heads. -/
theorem test_decode_manual_scalar : decodesAll [
    (0x4868, 0x20800000, .ld 3 false true 4 2 0 0), (0x2080, 0x2948, .add 5 5 4), (0x4180, 0x18FFFFFF, .addi 3 3 0x3FFFFF),
    (0x4304, 0x00C00000, .cmpi 0 1 3 0), (0x4389, 0xC03FFFF8, .brc 1 0xC0 0x3FFFF8), (0x22E0, 0x0144, .cmp 3 0 5 2),
    (0x4340, 0x02000000, .cmpi 2 0 8 0), (0x4364, 0x02000000, .cmpi 3 1 8 0), (0x4200, 0x39800740, .bfx 7 6 false 29 0)] = true := by
  decide

/-- 05 R133, R140; 06 R146, R167; 14, 15 and 22. -/
theorem test_decode_manual_vector : decodesAll [
    (0x5A84, 0x293C0008, .vredq 8 5 4), (0x5C00, 0x30C80102, .vaddM 0 6 3 4 1 2), (0x5D00, 2, .jord 2),
    (0x5D01, 0x190A0000, .jseed 0 3 4 5 0), (0x3902, 0x20C0, .vexp 0 4 3), (0x3802, 0x30C8, .vmul 0 6 3 4),
    (0x5D05, 0x41800002, .jder 0 8 6 2 0), (0x5D04, 0x49800001, .jext 0 9 6 1 0), (0x3806, 0x60C8, .vpow 0 12 3 4),
    (0x5B00, 0x48820002, .vshuf 2 9 2 1), (0x5BC9, 0x20800010, .vunpack 9 2 false 4 2 0), (0x3A01, 0x1782, .vor 2 30 1),
    (0x3A01, 0xF940, .vor 31 5 0), (0x5BA8, 0x20800050, .vpack 8 10 false 4 2 0)] = true := by
  decide

/-- 10 R244, R247, R258; 14 and 22. -/
theorem test_decode_manual_matrix : decodesAll [
    (0x7D80, 0x00000005AC104000, .mcfg 0 false false 11 11 1 1), (0x7D80, 0x00000005AEFFC000, .mcfg 0 false false 11 11 47 63),
    (0x7D80, 0x000000052803C000, .mcfg 0 false false 10 10 0 15), (0x7E00, 0x0106500010000000, .mma 4 3 5 0 0 false true 0),
    (0x7E00, 0x010E00002001C080, .mma 4 7 0 0 0 true false 0x1C080), (0x7E00, 0x020E000000000000, .mma 8 7 0 0 0 false false 0),
    (0x5E80, 0x01D00008, .mrd 7 8 0 8), (0x5E80, 0x04640008, .mrd 17 18 0 8)] = true := by
  decide

/-- 08 R207, R212; 09 R229 to R231; 14. -/
theorem test_decode_manual_memory : decodesAll [
    (0x6B01, 0x010E900000026000, .getTransposed 4 7 9 ⟨0, 0, 0, 2, 1⟩ 0 0), (0x6B01, 0x050BB00000006001, .getTransposed 20 5 27 ⟨0, 0, 0, 0, 1⟩ 0 1),
    (0x4B80, 0x19400002, .waitk 3 5 2), (0x4A80, 0x0722001F, .raddF32 28 17 1 15), (0x2C80, 0x0180, .fenceR 6), (0x4C81, 2, .fenceO 2),
    (0x4C82, 0x102, .fenceX 1 2), (0x4C82, 0x304, .fenceX 3 4), (0x4C82, 0x402, .fenceX 4 2)] = true := by
  decide

/-- 11 R270, R283; 12 R304 to R307; 13; 15; 16 R384, R391; 17 R398; 19 R453, R459; 21 R500; 22. -/
theorem test_decode_manual_services : decodesAll [
    (0x4D81, 0x001000, .fork 0x1000), (0x4E90, 0x01800005, .barcfg 1 6 5), (0x4E94, 0x41400005, .barred 1 8 5 5),
    (0x4EA4, 0x41C00000, .barred 2 8 7 0), (0x4F00, 0x014C000F, .send 5 6 15), (0x4F00, 0x03480007, .send 13 4 7),
    (0x4F02, 0x839E0000, .recv 16 14 15 0), (0x4F80, 8, .qbindQi 2), (0x4F80, 0x01C0001D, .qbindQo 7 7),
    (0x4F80, 0x0100001D, .qbindQo 4 7), (0x5000, 0x010A0007, .dqpush 4 5 7), (0x5001, 0x11C80000, .dqpop 2 7 4 0 false 0),
    (0x5002, 0x214C0000, .dqcons 4 5 6), (0x5080, 0x020A0001, .arupd 8 5 1), (0x5081, 0x520A7002, .arjoin 10 8 5 7 2),
    (0x5082, 0x7258F001, .arscan 14 9 12 15 true), (0x5083, 0x02780000, .arcompact 9 28), (0x3100, 0x0180, .frontadv 6 0),
    (0x3102, 0x10C0, .dqwaitf 2 3), (0x5181, 0x19800005, .park 3 6 5), (0x5180, 0x2A000005, .wpset 5 8 5),
    (0x5182, 0x19800005, .unpark 3 6 5), (0x5200, 0x01800005, .rtset 6 5), (0x5302, 0x01900100, .ckexcl 6 1 0x100),
    (0x3301, 0x20C0, .notchrd 4 3), (0x5280, 2, .boost 2), (0x4780, 0x1C5, .trap 0x1C5)] = true := by
  decide

/-- 03 R67, R71, R76, R77: an all-zero head, a reserved major, an unassigned function, a tail form that the head does not take, a
reserved field that is not zero. -/
theorem test_decode_refuses_by_name :
    decode ⟨0, 0⟩ = .illegal .reservedMajor ∧ decode ⟨0x1380, 0⟩ = .illegal .reservedMajor ∧
    decode ⟨0x20FF, 0⟩ = .illegal .unassignedFunction ∧ decode ⟨0x4080, 0⟩ = .illegal .tailForm ∧
    decode ⟨0x2080, 0x2949⟩ = .illegal .reservedField := by
  decide

/-! A state with one strand in slot 0 of core 0 of tile 0, in a stand of the whole wafer, and the registers named beside it. -/

/-- The stand: every tile, cores' rectangle in word A, valid (16 R371). -/
def stand : Stand := { emptyStand with a := 0x1D1D0000, b := 0x8000000000000000 }

/-- A READY strand with its workspace at 0x1000. -/
def live : State :=
  { State.reset with
    rim := { Rim.reset with stands := [(0, stand)] }
    core := { Core.reset with slots := Core.reset.slots.set 0 { Slot.none with st := .ready, strand := 1, pc := 0x2000, wp := 0x1000 } }
    issue := { Issue.reset with strand := 1, bpc := 0x2000, npc := 0x2004 } }

/-- The same strand in privileged mode. -/
def root : State := live.modMe fun x => { x with priv := true }

/-- The same strand in a stand that takes no notches, whose tile logs nothing (16 R371, 19 R442). -/
def quiet (s : State) : State := { s with rim := { s.rim with stands := [(0, { stand with b := 0x8800000000000000 })] } }

def still : State := quiet live

/-- A state whose slot 0 holds these registers. -/
def withRegs (s : State) (l : List (Nat × Nat)) : State := l.foldl (fun s p => s.setW 0 p.1 (w64 p.2)) s

/-- Every condition under which a head issues, as one check. -/
def issuesNow (s : State) (os : List Opd) : Bool :=
  !os.any Opd.illegal && !parityClash os &&
  (qiNeed os == 0 || (match s.me.qi with | some q => decide (qiNeed os ≤ queueWords s.core.mq[q]) | none => false)) &&
  (qoPush os == 0 || (match s.me.qo with
    | some b => (qoPush os != 4 || decide (b.buf.length + 4 ≤ 64)) && decide ((qoForms b (qoPush os)).1 ≤ s.holdFree) &&
        ((qoForms b (qoPush os)).1 == 0 || (s.qoDead s.issue.slot).isNone)
    | none => false)) &&
  ((s.speculative s.issue.slot).isNone || (qiNeed os == 0 && qoPush os == 0)) &&
  ((s.opdRanges (os.filter Opd.reads)).all fun r => !s.poisoned (s.key r.1) r.2) &&
  ((s.opdRanges os).all fun r => !s.payloadHeld r.1 r.2)

theorem issued {s : State} {os : List Opd} (h : issuesNow s os = true) : s.Issues os := by
  simp only [issuesNow, Bool.and_eq_true, Bool.not_eq_true', Bool.or_eq_true, beq_iff_eq, List.all_eq_true] at h
  obtain ⟨⟨⟨⟨⟨⟨h1, h2⟩, h3⟩, h4⟩, h5⟩, h6⟩, h7⟩ := h
  refine ⟨⟨h1, h2⟩, ?_, ?_, ?_, h6, h7⟩
  · refine h3.imp id fun h => ?_
    split at h
    · next q hq => exact ⟨q, hq, by simpa using h⟩
    · simp at h
  · refine h4.imp id fun h => ?_
    split at h
    · next b hb =>
      simp only [Bool.and_eq_true, Bool.or_eq_true, decide_eq_true_eq] at h
      refine ⟨b, hb, fun h4 => by simpa [h4] using h.1.1, h.1.2, fun h0 => ?_⟩
      rcases h.2 with h2 | h2
      · exact absurd (by simpa using h2) (Nat.pos_iff_ne_zero.mp h0)
      · simpa using h2
    · simp at h
  · exact h5

/-- Every condition of a place, an access and a range of the own slice, and of an access elsewhere, as checks. -/
def isHere (r : Place) (off : Nat) : Bool := match r with | .here o => o == off | _ => false

def placeCheck (s : State) (ea : Word) (n m off : Nat) (read : Bool) : Bool :=
  isHere (s.checkAddr ea n m) off && !s.acquiring s.core.ltn && !s.payloadHeld off n && (!read || !s.lowerBuffers (s.key off / 64))

def ownCheck (s : State) (ea : Word) (n m off : Nat) (read : Bool) : Bool :=
  placeCheck s ea n m off read && !s.bankBusy off && (!read || !s.readsExceed 1)

def farCheck (s : State) (ea : Word) (n m ltn core off : Nat) : Bool :=
  (match s.checkAddr ea n m with | .remote l c o => l == ltn && c == core && o == off | _ => false) && !s.acquiring ltn &&
    !s.isSpeculative && (ltn != s.core.ltn || !s.committing ((sliceBase ltn core + off) / 64))

def rangeCheck (s : State) (ea : Word) (n m off : Nat) : Bool := isHere (s.checkLocal ea n m) off && !s.payloadHeld off n

def readCheck (s : State) (ea : Word) (n m off : Nat) : Bool :=
  rangeCheck s ea n m off && !s.isSpeculative && !s.bankBusy off && !s.readsExceed 1 && !s.poisoned (s.key off) n

theorem here_of_check {r : Place} {off : Nat} (h : isHere r off = true) : r = .here off := by
  cases r <;> simp_all [isHere]

theorem placeNow {s : State} {ea : Word} {n m off : Nat} {read : Bool} (h : placeCheck s ea n m off read = true) :
    s.OwnPlace ea n m off read := by
  simp only [placeCheck, Bool.and_eq_true, Bool.not_eq_true', Bool.or_eq_true] at h
  exact ⟨here_of_check h.1.1.1, h.1.1.2, h.1.2, fun hr => by simpa [hr] using h.2⟩

theorem ownNow {s : State} {ea : Word} {n m off : Nat} {read : Bool} (h : ownCheck s ea n m off read = true) :
    s.OwnAccess ea n m off read := by
  simp only [ownCheck, Bool.and_eq_true, Bool.not_eq_true', Bool.or_eq_true] at h
  exact ⟨placeNow h.1.1, h.1.2, fun hr => by simpa [hr] using h.2⟩

theorem farNow {s : State} {ea : Word} {n m l c o : Nat} (h : farCheck s ea n m l c o = true) : s.FarAccess ea n m l c o := by
  simp only [farCheck, Bool.and_eq_true, Bool.not_eq_true', Bool.or_eq_true] at h
  refine ⟨?_, h.1.1.2, h.1.2, fun hl => by simpa [hl] using h.2⟩
  have h1 := h.1.1.1
  split at h1
  · next hr => simp only [Bool.and_eq_true, beq_iff_eq] at h1; rw [hr, h1.1.1, h1.1.2, h1.2]
  · simp at h1

theorem rangeNow {s : State} {ea : Word} {n m off : Nat} (h : rangeCheck s ea n m off = true) : s.OwnRange ea n m off := by
  simp only [rangeCheck, Bool.and_eq_true, Bool.not_eq_true'] at h
  exact ⟨here_of_check h.1, h.2⟩

theorem readNow {s : State} {ea : Word} {n m off : Nat} (h : readCheck s ea n m off = true) : s.LocalRead ea n m off := by
  simp only [readCheck, Bool.and_eq_true, Bool.not_eq_true'] at h
  exact ⟨rangeNow h.1.1.1.1, h.1.1.1.2, h.1.1.2, h.1.2, h.2⟩

/-- The same strand with both queue ports bound: a message of two words waits in queue 0, and `qo` names this core. -/
def ports : State :=
  let s := live.modMe fun x => { x with qi := some 0, qo := some ⟨0, 8, []⟩ }
  { s with core := { s.core with mq := s.core.mq.set 0 [⟨1, 0, [7, 9], [false, false]⟩] } }

/-- Bytes placed in the slice of the core, halfwords and words as bytes. -/
def withBytes (s : State) (off : Nat) (l : List Byte) : State := { s with mem := putBytes s.mem (s.key off) l }

def bytesOfHalves (l : List Nat) : List Byte := l.flatMap (leBytes 2)

def bytesOfWords (l : List Nat) : List Byte := l.flatMap (leBytes 8)

/-! For each statement, a state and operands that meet its hypotheses, every clause at a value where it stands. -/

/-- Over registers, and over the queue ports: `qi` popped twice, `qo` pushed. -/
theorem meets_TwoSourceIntegerResults :
    (live.Issues [.dst 3, .src 2, .src 5] ∧ ∃ x y t, live.read2 2 5 = (x, y, t)) ∧
    (ports.Issues [.dst 31, .src 30, .src 30] ∧ ∃ x y t, ports.read2 30 30 = (x, y, t)) :=
  ⟨⟨issued (by decide), _, _, _, rfl⟩, issued (by decide), _, _, _, rfl⟩

/-- The field of `BFX` and `BFI` that ends at bit 63. -/
theorem meets_OneSourceIntegerResults :
    (live.Issues [.dst 3, .src 2] ∧ ∃ x t, live.readW 2 = (x, t)) ∧ ((63 : BitVec 6).toNat + (0 : BitVec 6).toNat ≤ 63) ∧
    live.Issues [(Opd.acc 3).noPort, .src 2] ∧ live.Issues [.dst 3] :=
  ⟨⟨issued (by decide), _, _, rfl⟩, by decide, issued (by decide), issued (by decide)⟩

theorem meets_CompareResults :
    (5 : BitVec 3).toNat < 6 ∧ (1 : BitVec 3).toNat ≤ 1 ∧ live.Issues [.src 2, .src 5] ∧ (∃ x y t, live.read2 2 5 = (x, y, t)) ∧
    live.Issues [.src 2] ∧ ∃ x t, live.readW 2 = (x, t) :=
  ⟨by decide, by decide, issued (by decide), ⟨_, _, _, rfl⟩, issued (by decide), _, _, rfl⟩

/-- A divisor of zero, the quotient that does not fit, and 7 by −2. -/
theorem meets_DivisionResults :
    live.Issues [.dst 3, .src 2, .src 5] ∧ live.me.windows.length < 4 ∧ (live.read2 2 5).2.1 = 0 ∧
    (let s := withRegs live [(2, 2 ^ 63), (5, 2 ^ 64 - 1)]
     s.Issues [.dst 3, .src 2, .src 5] ∧ (s.read2 2 5).1 = BitVec.intMin 64 ∧ (s.read2 2 5).2.1 = BitVec.allOnes 64) ∧
    (let s := withRegs live [(2, 7), (5, 2 ^ 64 - 2)]
     s.Issues [.dst 3, .src 2, .src 5] ∧ (s.read2 2 5).2.1 ≠ 0 ∧ ¬((s.read2 2 5).1 = BitVec.intMin 64)) :=
  ⟨issued (by decide), by decide, by decide, ⟨issued (by decide), by decide, by decide⟩, issued (by decide), by decide, by decide⟩

/-- A line of a `LOOPI` with a body of two heads, the first with a register to step. -/
def loopCode : State :=
  withBytes live 0x2000 (bytesOfHalves ([0x1800, 0x6481, 0x2080, 0x0700] ++ List.replicate 23 0 ++ [0x2948] ++ [2, 0, 64, 0]))

theorem meets_TransferAndLoopResults :
    live.Issues [] ∧ (0x2010 : BitVec 22).getLsbD 0 = false ∧
    (loopCode.Issues [] ∧ loopCode.Issues [linkOpd] ∧ loopCode.badIndex 0x2004 = false ∧ loopCode.badIndex 0x200A = true ∧
      loopCode.badIndex 0x2000 = true) ∧
    (let s := withRegs live [(2, 0x3FFFFE)]
     s.Issues [.src 2, linkOpd] ∧ s.Issues [.src 2] ∧ (s.readW 2).1.toNat < 2 ^ 22 ∧ (s.readW 2).1.toNat % 2 = 0 ∧
     s.badIndex 0x3FFFFE = false) ∧
    (let s := { loopCode with issue := { loopCode.issue with npc := 0x2004 } }
     s.Issues [] ∧ (0 : BitVec 22).toNat % 64 = 0 ∧ s.me.loops.length < 4 ∧
     ∃ body u, s.bodyHeads s.issue.slot 2 s.issue.npc = .ok (body, u) ∧ bodyIllegal body (List.replicate 32 0) = false) ∧
    (let s := withRegs (withBytes loopCode 64 [0, 8]) [(2, 0xFFFFFFFF)]
     s.Issues [.src 2] ∧ (s.readW 2).1.toNat < 2 ^ 32 ∧ (64 : BitVec 22).toNat % 64 = 0 ∧ s.payloadHeld 64 64 = false ∧
     s.checkLocal 64 64 64 = .here 64 ∧ s.poisoned (s.key 64) 64 = false ∧
     ∃ body u, s.bodyHeads s.issue.slot 1 0x2004 = .ok (body, u) ∧ bodyIllegal body (lineAt s.rdMem (s.key 64)) = false) := by
  refine ⟨issued (by decide), by decide, ⟨issued (by decide), issued (by decide), by decide, by decide, by decide⟩,
    ⟨issued (by decide), issued (by decide), by decide, by decide, by decide⟩, ⟨issued (by decide), by decide, by decide, _, _, rfl, by decide⟩,
    issued (by decide), by decide, by decide, by decide, by decide, by decide, _, _, rfl, by decide⟩

/-- Zeros in every format; the subnormal of least magnitude. -/
theorem meets_ScalarFloatResults :
    live.Issues [.dst 3, .src 2, .src 5] ∧ live.Issues [.acc 3, .src 2, .src 5] ∧ live.Issues [.dst 3, .src 2] ∧
    ∀ fmt ∈ [0, 1, 2], (operandF (8 + fmt) (swSUB live.rdSw) (live.read2 2 5).1.toNat).isSome = true ∧
      (operandF (8 + fmt) (swSUB live.rdSw) (live.regW 3).toNat).isSome = true :=
  ⟨issued (by decide), issued (by decide), issued (by decide), by decide⟩

theorem meets_FloatCompareAndSubnormalTraps :
    (∀ p ∈ [(0x3F800000, 0x40000000, some Ordering.lt), (0, 0x80000000, some .eq), (0x7F800000, 0, some .gt), (0x7FC00000, 0, none)],
      ((operandF 8 false p.1).bind fun u => (operandF 8 false p.2.1).map fun v => Val.cmp u.1 v.1) = some p.2.2) ∧
    live.Issues [.src 2, .src 5] ∧
    (let s := withRegs live [(2, 1), (5, 0x3F800000)]
     swSUB s.rdSw = false ∧ s.Issues [.dst 3, .src 2, .src 5] ∧ isSubnormal 8 (s.read2 2 5).1.toNat = true) :=
  ⟨by decide, issued (by decide), by decide, issued (by decide), by decide⟩

/-- Every pair of codes below 0x10 converts some operand. -/
theorem meets_ConversionHashAndLongFloatResults :
    live.Issues [.dst 3, .src 2] ∧ live.Issues [.dst 3, .src 2, .src 5] ∧ live.me.windows.length < 4 ∧
    (∀ p ∈ [(0, 1), (3, 8), (8, 3), (9, 10), (10, 15), (15, 14), (14, 13), (4, 11)],
      (convert p.1 p.2 false (live.rnd 0) 1).isSome = true ∨ (convert p.1 p.2 false (live.rnd 0) 0).isSome = true) ∧
    (operandF 8 (swSUB live.rdSw) (live.read2 2 5).1.toNat).isSome = true :=
  ⟨issued (by decide), issued (by decide), by decide, by decide, by decide⟩

theorem meets_QueryAndSystemWriteResults :
    live.Issues [.dst 3] ∧ live.Issues [.src 2] ∧ live.isSpeculative = false ∧ (9 : BitVec 22).toNat < 64 ∧ (63 : BitVec 22).toNat < 64 ∧
    (∃ v, live.sysValue 0x041 = some (v, false)) ∧ (∃ v, live.sysValue 0x230 = some (v, true)) ∧ live.tile.replay = [] ∧
    root.me.priv = true ∧ root.Issues [.src 2] ∧ root.isSpeculative = false ∧ (root.readW 2).1.getLsbD 63 = false ∧
    (root.readW 2).1.toNat / 2 ^ 21 % 8 ≤ 4 :=
  ⟨issued (by decide), issued (by decide), by decide, by decide, by decide, ⟨_, rfl⟩, ⟨_, rfl⟩, by decide, by decide, issued (by decide),
    by decide, by decide, by decide⟩

theorem meets_PrivilegeAndHandlerTraps :
    live.me.priv = false ∧ LegalOperands [.src 2] ∧ live.Issues [.src 2] ∧ live.me.handler = none :=
  ⟨by decide, by unfold LegalOperands; decide, issued (by decide), by decide⟩

/-- A handler of slot 1, whose workspace stands above its own. -/
def handling : State :=
  let s := root.modMe fun x => { x with handler := some ⟨1, List.replicate 8 0, false⟩ }
  s.setSlot 1 { Slot.none with st := .trapped, strand := 2, wp := 0x2000 }

/-- The vectors: off, on with its region below the visible top, on with a region that crosses a bank. -/
theorem meets_TrapInstructionResults :
    (live.Issues [] ∧ live.isSpeculative = false ∧ 0x1C0 ≤ (0x1DF : BitVec 9).toNat ∧ (0x1DF : BitVec 9).toNat ≤ 0x1DF) ∧
    (0x1BF : BitVec 9).toNat < 0x1C0 ∧ 0x1DF < (0x1E0 : BitVec 9).toNat ∧ live.Issues [.src 2] ∧ live.Issues [.dst 3, .src 2] ∧
    live.me.priv = false ∧ LegalOperands [.src 2] ∧ live.me.handler = none ∧
    (let s := withRegs root [(2, 2 ^ 63 + 0x29C000 * 2 ^ 32)]
     s.Issues [.src 2] ∧ s.me.priv = true ∧ (s.readW 2).1.getLsbD 63 = true ∧ bits (s.readW 2).1.toNat 53 32 + 16384 ≤ s.rim.visibleTop ∧
     bits (s.readW 2).1.toNat 53 32 / 2 ^ 20 = (bits (s.readW 2).1.toNat 53 32 + 16383) / 2 ^ 20) ∧
    (let s := withRegs root [(2, 2 ^ 63 + 0xFD000 * 2 ^ 32)]
     s.Issues [.src 2] ∧ (s.readW 2).1.getLsbD 63 = true ∧
     bits (s.readW 2).1.toNat 53 32 / 2 ^ 20 ≠ (bits (s.readW 2).1.toNat 53 32 + 16383) / 2 ^ 20) ∧
    (∃ h, handling.me.handler = some h ∧ (handling.slot h.served).task = none ∧
      handling.flushNeed handling.issue.slot + handling.flushNeed h.served ≤ handling.holdFree) ∧
    handling.Issues [.dst 3, .src 2] ∧ handling.Issues [] ∧ handling.Issues [.src 2] ∧ (handling.readW 2).1 = 0 ∧
    handling.rectClear handling.me.strand handling.standRect = true ∧ handling.flushWaits handling.issue.slot = false ∧
    bits (natAt handling.rdMem (handling.key (handling.me.wp.toNat + 800)) 8) 23 21 ≤ 4 ∧
    (let s := withRegs handling [(2, 1)]
     s.Issues [.src 2] ∧ (s.readW 2).1 = 1) ∧
    (let s := handling.modMe fun x => { x with priv := false }
     s.Issues [] ∧ s.me.priv = false ∧ s.me.handler.isSome = true) := by
  refine ⟨⟨issued (by decide), by decide⟩, by decide, by decide, issued (by decide), issued (by decide), by decide,
    by unfold LegalOperands; decide, by decide, ⟨issued (by decide), by decide⟩, ⟨issued (by decide), by decide⟩, ⟨_, rfl, by decide⟩, issued (by decide), issued (by decide),
    issued (by decide), by decide, by decide, by decide, by decide, ⟨issued (by decide), by decide⟩, issued (by decide), by decide⟩

/-- A state whose vector of the group of cause 0x1C0 is on, at a region and an entry, with other slots empty or all taken. -/
def vectored (full : Bool) : State :=
  let s := { live with core := { live.core with thv := live.core.thv.set 14 0xC000400000003000 } }
  if full then allSlots.foldl (fun s i => s.modSlot i fun x => { x with st := .ready }) s else s

theorem meets_TrapEntry :
    (∀ full, (vectored full).Settled) ∧ (vectored false).MemoryCanonical ∧ (vectored true).MemoryCanonical ∧
    (∀ full, ((vectored full).slot 0).emulate = none ∧ ((vectored full).slot 0).handler = none ∧ ((vectored full).slot 0).st ≠ .empty ∧
      ((vectored full).core.thv[(14 : Fin 16)]).getLsbD 63 = true ∧ 0x1C0 / 32 % 16 = 14) ∧
    ((vectored false).emptySlot = some 1 ∧ (vectored false).core.handlerQ = [] ∧
      (vectored false).core.filledAt ≠ some (vectored false).tile.cycle) ∧ (vectored true).emptySlot = none := by
  refine ⟨?_, ?_, ?_, ?_, ?_, ?_⟩ <;> first | decide | (unfold MemoryCanonical; decide) | (unfold Settled; decide)

/-- A request that has waited for 65,536 cycles, and requests of the rim: a format absent, a handler's trap, another cause. -/
theorem meets_SupervisorRoute :
    ((live.slot 0).emulate = none ∧ live.core.thv[(0 : Fin 16)].getLsbD 63 = false) ∧
    ((handling.slot 0).emulate = none ∧ (handling.slot 0).handler.isSome = true) ∧
    (let q : TrapReq := ⟨0, 0, 0, List.replicate 8 0, none⟩
     let s := { live with core := { live.core with handlerQ := [q] }, tile := { live.tile with cycle := 65536 } }
     q.frame.length = 8 ∧ s.core.handlerQ = [q] ∧ q.since + 65536 ≤ s.tile.cycle) ∧
    (∀ w : Word, w ∈ [0x0000000F00000002, 0x1E0, 0x1C0] →
      let q : TrapReq := ⟨0, 0, 0, w :: List.replicate 7 0, none⟩
      let s := { quiet handling with core := { handling.core with superQ := [q] } }
      q.frame.length = 8 ∧ s.core.superQ = [q] ∧ s.ckp = 2 ∧ (s.slot q.slot).emulate = none ∧ (s.slot q.slot).handler.isSome = true ∧
        s.flushNeed q.slot + s.flushNeed 1 ≤ s.holdFree) := by
  refine ⟨by decide, by decide, by decide, ?_⟩
  intro w h
  simp only [List.mem_cons, List.not_mem_nil, or_false] at h
  rcases h with rfl | rfl | rfl <;> decide

/-- An access of each kind: the last bytes below the visible top, a slice of another tile, the increment of the address register. -/
theorem meets_LoadResults :
    (let s := withRegs live [(2, 0x29FFF8), (5, 0x29FFE0), (7, 2 ^ 63 + 2 ^ 26 + 64)]
     s.isSpeculative = false ∧ s.me.windows.length < 4 ∧
     s.Issues [(Opd.dst 3).noPort, (Opd.src 2).noPort] ∧ s.OwnAccess (s.regW 2) 8 8 0x29FFF8 true ∧ s.poisoned (s.key 0x29FFF8) 8 = false ∧
     s.Issues [(Opd.vdst 3).noPort, (Opd.src 5).noPort] ∧ s.OwnAccess (s.regW 5) 32 32 0x29FFE0 true ∧
     s.Issues [(Opd.dst 3).noPort, (Opd.src 7).noPort] ∧ s.FarAccess (s.regW 7) 8 8 1 0 64 ∧ s.FarAccess (s.regW 7) 32 32 1 0 64 ∧
     s.Issues [(Opd.dst 3).noPort, (Opd.src 2).noPort, Opd.src 1] ∧ s.OwnAccess (s.regW 2 + (s.readW 1).1 <<< 3) 8 8 0x29FFF8 true) ∧
    (0 : BitVec 18) = 0 ∧ (3 : Reg) ≠ 2 := by
  refine ⟨⟨by decide, by decide, issued (by decide), ownNow (by decide), by decide, issued (by decide), ownNow (by decide),
    issued (by decide), farNow (by decide), farNow (by decide), issued (by decide), ownNow (by decide)⟩, by decide, by decide⟩

theorem meets_StoreResults :
    (let s := withRegs live [(2, 0x29FFF8), (5, 0x29FFE0), (7, 2 ^ 63 + 2 ^ 26 + 64)]
     s.Issues [Opd.third 3, (Opd.src 2).noPort] ∧ s.OwnAccess (s.regW 2) 8 8 0x29FFF8 false ∧ s.bufferFull (s.key 0x29FFF8 / 64) = false ∧
     s.Issues [Opd.vthird 3, (Opd.src 5).noPort] ∧ s.OwnAccess (s.regW 5) 32 32 0x29FFE0 false ∧
     s.Issues [Opd.third 3, (Opd.src 7).noPort] ∧ s.FarAccess (s.regW 7) 8 8 1 0 64 ∧ s.FarAccess (s.regW 7) 32 32 1 0 64 ∧
     s.Issues [Opd.third 3, (Opd.src 2).noPort, Opd.src 1] ∧ s.OwnAccess (s.regW 2 + (s.readW 1).1 <<< 3) 8 8 0x29FFF8 false) := by
  refine ⟨issued (by decide), ownNow (by decide), by decide, issued (by decide), ownNow (by decide),
    issued (by decide), farNow (by decide), farNow (by decide), issued (by decide), ownNow (by decide)⟩

/-- The rectangle 0x1D1D0000 is the whole wafer. -/
theorem meets_OrderedAndMetadataResults :
    (let s := withRegs live [(2, 0x4000), (5, 0x1D1D0000), (8, 2 ^ 63 + 2 ^ 26 + 64)]
     (s.rectOperand (s.readW 5).1).isSome = true ∧ s.Issues [(Opd.dst 3).noPort, (Opd.src 2).noPort, Opd.src 5] ∧
     s.OwnAccess (s.regW 2) 8 8 0x4000 true ∧ s.poisoned (s.key 0x4000) 8 = false ∧ s.me.windows.length < 4 ∧
     s.Issues [(Opd.dst 3).noPort, (Opd.src 8).noPort, Opd.src 5] ∧ s.FarAccess (s.regW 8) 8 8 1 0 64 ∧
     s.Issues [Opd.third 3, (Opd.src 2).noPort, Opd.src 5] ∧ (∃ q, s.rectOperand (s.readW 5).1 = some q ∧ s.rectClear s.me.strand q = true) ∧
     s.OwnAccess (s.regW 2) 8 8 0x4000 false ∧ s.bufferFull (s.key 0x4000 / 64) = false ∧
     s.addrForm (s.regW 2) = some (s.core.ltn, s.core.num, 0x4000) ∧ s.Issues [(Opd.dst 3).noPort, (Opd.src 2).noPort] ∧
     s.OwnAccess (s.regW 2) 64 64 0x4000 true ∧ s.Issues [Opd.third 3, (Opd.src 2).noPort] ∧ s.OwnAccess (s.regW 2) 64 64 0x4000 false ∧
     s.isSpeculative = false) := by
  refine ⟨by decide, issued (by decide), ownNow (by decide), by decide, by decide, issued (by decide), farNow (by decide),
    issued (by decide), ⟨_, rfl, by decide⟩, ownNow (by decide), by decide, by decide, issued (by decide),
    ownNow (by decide), issued (by decide), ownNow (by decide), by decide⟩

/-- A strand that speculates on a task with an empty buffer. -/
def speculating (s : State) : State := s.modMe fun x => { x with task := some ⟨⟨0, 0, 0, 0⟩, false, [], 0x2000, false, 0x1000, [], [], []⟩ }

theorem meets_AtomicHeadsAndUnit :
    (let s := withRegs live [(2, 0x4000), (8, 2 ^ 63 + 2 ^ 26 + 64)]
     s.me.windows.length < 4 ∧ s.Issues [(Opd.dst 3).noPort, (Opd.src 2).noPort, Opd.src 5] ∧
     s.Issues [(Opd.dst 3).noPort, (Opd.src 2).noPort, Opd.src 5, Opd.third 4] ∧ s.OwnPlace (s.regW 2) 8 8 0x4000 true ∧
     s.isSpeculative = false ∧ s.Issues [(Opd.dst 3).noPort, (Opd.src 8).noPort, Opd.src 5] ∧ s.FarAccess (s.regW 8) 8 8 1 0 64 ∧
     s.Issues [(Opd.dst 3).noPort, (Opd.src 8).noPort, Opd.src 5, Opd.third 4]) ∧
    (let s := speculating (withRegs live [(2, 0x4000)])
     s.OwnPlace (s.regW 2) 4 4 0x4000 true ∧ s.isSpeculative = true ∧ s.bufferFull (s.key 0x4000 / 64) = false ∧
     s.Issues [(Opd.dst 3).noPort, (Opd.src 2).noPort, Opd.src 5] ∧ s.poisoned (s.key 0x4000) 4 = false) ∧
    (∃ q : Req, q = live.request 0 0 0x4000 (.atom .cas true false) [5] 7 ∧ q.kind = .atom .cas true false ∧ live.localReq q = true ∧
      live.bankCheck q.off.toNat 1 = none ∧ live.bankBusy q.off.toNat = false ∧ live.poisoned (live.key q.off.toNat) 8 = false) ∧
    live.Settled ∧ live.MemoryCanonical := by
  refine ⟨⟨by decide, issued (by decide), issued (by decide), placeNow (by decide), by decide, issued (by decide),
    farNow (by decide), issued (by decide)⟩, ⟨placeNow (by decide), by decide, by decide, issued (by decide), by decide⟩,
    ⟨_, rfl, by decide, by decide, by decide, by decide, by decide⟩, by unfold Settled; decide, by unfold MemoryCanonical; decide⟩

/-- One byte past the visible top; the form between the local and the global one; a word at an odd address. -/
theorem meets_BadAddressesTrap :
    (let s := withRegs live [(2, 0x29FFF9), (5, 2 ^ 22), (8, 2 ^ 63 - 1), (9, 0x29FFF7)]
     (s.regW 2).toNat < 2 ^ 22 ∧ s.rim.visibleTop < (s.regW 2).toNat + 8 ∧ 2 ^ 22 ≤ (s.regW 5).toNat ∧ (s.regW 5).toNat < 2 ^ 63 ∧
     2 ^ 22 ≤ (s.regW 8).toNat ∧ (s.regW 8).toNat < 2 ^ 63 ∧ (s.regW 9).toNat + 8 ≤ s.rim.visibleTop ∧ (s.regW 9).toNat < 2 ^ 22 ∧
     (s.regW 9).toNat % 8 ≠ 0 ∧ s.Issues [(Opd.dst 3).noPort, (Opd.src 2).noPort] ∧ s.Issues [Opd.third 3, (Opd.src 9).noPort]) := by
  refine ⟨by decide, by decide, by decide, by decide, by decide, by decide, by decide, by decide, by decide, issued (by decide),
    issued (by decide)⟩

/-- The same state with a range-table entry that maps 0x10000 to 0x1FFFF onto HBM at 0x200000, writable and readable. -/
def mapped : State :=
  { live with
    rim := { live.rim with stands := [(0, { stand with hbm := [(0, 100)] })] }
    tile := { live.tile with ranges := [(0, .ofNat 256 (2 ^ 63 + 0x10000 + 0x1F000 * 2 ^ 64 + 0x200000 * 2 ^ 128 + 2 ^ 54 * 2 ^ 192))] } }

/-- Does an address translate to something of which a check holds? -/
def translates (s : State) (va : Nat) (write : Bool) (check : Xlate → Bool) : Bool :=
  match s.translate va write with
  | .ok x => check x
  | .error _ => false

/-- The last line below the visible top, and an entry of the greatest size. -/
theorem meets_PutGetHeadsQueueEntries :
    (let s := withRegs live [(2, 0x10000), (5, 0x29FFC0), (8, 0x4000), (9, 64), (7, 0)]
     s.isSpeculative = false ∧ s.core.pg.length < 16 ∧ ctrOk ⟨0, 0, 0, 3, 1⟩ = true ∧ (s.regW 2).toNat < 2 ^ 57 ∧
     (s.regW 2).toNat % 64 = 0 ∧ (s.regW 2).toNat % 1024 = 0 ∧ s.addrForm (s.regW 5) = some (s.core.ltn, s.core.num, 0x29FFC0) ∧
     0x29FFC0 + 64 * 1 ≤ s.rim.visibleTop ∧ 0 + 64 * 2048 ≤ s.rim.visibleTop ∧ s.Issues [(Opd.src 2).noPort, (Opd.src 5).noPort] ∧
     s.Issues [(Opd.src 2).noPort, (Opd.src 5).noPort, (Opd.third 8).noPort, (Opd.third 9).noPort] ∧
     s.addrForm (s.regW 8) = some (0, 0, 0x4000) ∧ s.inStand 0 = true ∧ s.addrBank (s.regW 8) 8 = none ∧
     s.addrBank (s.regW 8) (32 * 16) = none ∧ s.addrBank (s.regW 5) (32 * 2) = none ∧
     s.Issues [(Opd.src 2).noPort, (Opd.src 5).noPort, (Opd.third 9).noPort] ∧
     (s.regW 9).toNat % 32 = 0 ∧ 32 ≤ (s.regW 9).toNat ∧ (s.regW 9).toNat < 2 ^ 32 ∧ s.Issues [(Opd.src 8).noPort, (Opd.src 5).noPort] ∧
     0x4000 + 32 * 16 ≤ s.rim.visibleTop ∧ 0x29FFC0 + 32 * 2 ≤ s.rim.visibleTop ∧ s.acquiring 0 = false ∧ s.Issues [(Opd.src 2).noPort] ∧
     s.inStand s.core.ltn = true) := by
  refine ⟨by decide, by decide, by decide, by decide, by decide, by decide, by decide, by decide, by decide, issued (by decide),
    issued (by decide), by decide, by decide, by decide, by decide, by decide, issued (by decide), by decide, by decide, by decide,
    issued (by decide), by decide, by decide, by decide, issued (by decide), by decide⟩

theorem meets_WaitAndFenceResults :
    (let s := withRegs live [(2, 0x1D1D0000), (8, 0x4000)]
     s.Issues [(Opd.dst 3).noPort, (Opd.src 5).noPort] ∧ (s.regW 5).toNat < 2 ^ 32 ∧ s.core.k[(5 : Fin 16)].err = 0 ∧
     (s.regW 5).toNat ≤ s.core.k[(5 : Fin 16)].count.toNat ∧ s.Issues [(Opd.dst 3).noPort, (Opd.src 8).noPort, Opd.src 5] ∧
     s.checkLocal (s.regW 8) 8 8 = .here 0x4000 ∧ s.lowerBuffers (s.key 0x4000 / 64) = false ∧
     s.payloadHeld 0x4000 8 = false ∧ s.bankBusy 0x4000 = false ∧ s.readsExceed 1 = false ∧ s.poisoned (s.key 0x4000) 8 = false ∧ w64 (leNat ((s.served 0x4000 true).loadBytes (s.key 0x4000) 8).1) = 0 ∧
     (s.readW 5).1 = 0 ∧ s.Issues [(Opd.src 2).noPort] ∧ (∃ q, s.rectOperand (s.regW 2) = some q ∧ s.rectClear s.me.strand q = true) ∧
     s.Issues [] ∧ s.strongDone s.me.strand = true ∧ s.pathsDone s.me.strand 7 = true ∧ s.allDone s.me.strand = true) := by
  refine ⟨issued (by decide), by decide, by decide, by decide, issued (by decide), by decide, by decide, by decide, by decide, by decide,
    by decide, by decide, by decide, issued (by decide), ⟨_, rfl, by decide⟩, issued (by decide), by decide, by decide, by decide⟩

/-- A state whose queue holds an entry of two units, none started, and one that has performed. -/
def queueing (kind : PgKind) (performed stage : Nat) : State :=
  { mapped with core := { mapped.core with
    pg := [⟨7, kind, 1, 0, 0x10000, 0x4000, 2, none, ⟨0, 0, 0, 3, 1⟩, 0, performed, 0, 0, stage⟩] } }

/-- The words of eight zeros for a `RADD` and an increment that arrive at their core. -/
theorem meets_PutGetEngineEvents :
    mapped.Settled ∧ mapped.MemoryCanonical ∧
    (∀ kind ∈ [PgKind.put, .getn], let s := queueing kind 0 0
      (s.core.pg.find? fun f => f.id == 7 && f.started == 0 && f.stage == 0 && decide (0 < f.units)) = some (s.core.pg.headD ⟨0, .put, 0, 0, 0, 0, 0, none, ⟨0, 0, 0, 0, 0⟩, 0, 0, 0, 0, 0⟩) ∧
      s.needsWalk 0x10000 = false ∧ s.bankCheck 0x4000 64 = none ∧ s.rangeBusy 0x4000 64 = false ∧ 0x4000 % 64 = 0 ∧
      s.completionLogged 7 = false ∧
      (∀ w ∈ [false, true], translates s 0x10000 w (fun x => !x.attrs.getLsbD 55 &&
        (SMap.find (s.route x.dpa / 64) s.rim.lineKeys).isNone && (SMap.find (s.route x.dpa / 64) s.core.bufG).isNone) = true) ∧
      SMap.find (s.key 0x4000 / 64) s.core.bufG = none) ∧
    (∀ stage ∈ [0, 1, 2], let s := queueing .put 2 stage
      s.tile.sent.any (fun x => x.q.entry == some 7 && x.q.sltn == s.core.ltn) = false ∧ (s.core.pg.map (·.stage)) = [stage]) ∧
    (let q := live.request 0 0 0x4000 (.radd false) [0, 0, 0, 0]
     live.localReq q = true ∧ live.bankCheck q.off.toNat 1 = none ∧ live.bankBusy q.off.toNat = false) ∧
    live.localReq (live.request 0 0 0 (.count 15 0 0) []) = true := by
  refine ⟨by unfold Settled; decide, by unfold MemoryCanonical; decide, ?_, by decide, by decide, by decide⟩
  intro kind h
  simp only [List.mem_cons, List.not_mem_nil, or_false] at h
  rcases h with rfl | rfl <;> decide

/-- A store and a load from tile 5 that come in their turn; a bank whose wake ends; a task that settles and one that commits a line. -/
theorem meets_AccessAndTaskEvents :
    still.Settled ∧ still.MemoryCanonical ∧
    (∀ kind ∈ [ReqKind.store 8, .load 32], let q : Req := ⟨5, 0, 0, 0, 0, 0, kind, 0x4000, [1], 0, false, none, 0⟩
      q.sltn ≠ still.core.ltn ∧ q.dltn = still.core.ltn ∧ q.dcore = still.core.num ∧ q.seq = SMap.getD still.tile.expReq q.sltn 0 ∧
      still.bankCheck q.off.toNat 1 = none ∧ still.bankBusy q.off.toNat = false ∧ still.ckp = 2) ∧
    still.engineBusy 0 = false ∧
    (let s := { still with core := { still.core with engine := [⟨some 0, [(0x4000, true)], [], []⟩] } }
     s.engineBusy 0 = true) ∧
    (let s := { still with core := { still.core with waking := [(2, 0)] } }
     (s.core.waking.any fun w => w.1 == (2 : Fin 3) && decide (w.2 ≤ s.tile.cycle)) = true) ∧
    still.stand.isSome = true ∧
    (let s := speculating still
     (s.slot 0).task.map (·.settled) = some false ∧ s.holdsLowest 0 = true) ∧
    (let l : SpecLine := ⟨List.replicate 64 true, List.replicate 64 3⟩
     let s := still.modMe fun x => { x with task := some ⟨⟨0, 0, 0, 0⟩, true, [], 0x2000, false, 0x1000, [], [(9, l)], []⟩ }
     (s.slot 0).task.map (·.settled) = some true ∧ s.Settled ∧ s.MemoryCanonical ∧ l.mask.length = 64 ∧ l.data.length = 64) := by
  refine ⟨by unfold Settled; decide, by unfold MemoryCanonical; decide, by decide, by decide, by decide, by decide, by decide, by decide,
    by decide, by unfold Settled; decide, by unfold MemoryCanonical; decide, by decide, by decide⟩

/-- A free hold entry, a full table but for its last entry, the own core and another. -/
theorem meets_StrandHeadResults :
    (let s := withRegs live [(2, 2 ^ 63 + 2 ^ 26), (3, 2 ^ 63 + 2 ^ 26), (7, 0x4000)]
     s.isSpeculative = false ∧ (4 : Reg).toNat % 4 = 0 ∧ (24 : Reg).toNat ≤ 24 ∧ s.addrForm (s.regW 3) = some (1, 0, 0) ∧ s.inStand 1 = true ∧
     s.rectClear s.me.strand (tileRect 1) = true ∧ 0 < s.holdFree ∧ s.Issues [((Opd.src 4).span 4).noPort, (Opd.src 3).noPort] ∧
     s.Issues [((Opd.src 4).span 4).noPort, (Opd.src 3).noPort, Opd.third 9] ∧ s.tile.known.toNat ≤ (s.readW 9).1.toNat ∧
     s.Issues [((Opd.src 4).span 4).noPort, (Opd.src 3).noPort, (Opd.third 9).noPort] ∧ s.Issues [((Opd.src 0).span 4).noPort] ∧
     (0x2010 : BitVec 22).getLsbD 0 = false ∧ (∀ e ∈ s.tile.table, e.index ≠ 0) ∧
     (∀ m < 0, ∃ e ∈ s.tile.table, e.index = m) ∧ s.Issues [] ∧ s.rectClear s.me.strand s.standRect = true ∧ s.me.task = none ∧
     s.flushWaits s.issue.slot = false ∧ s.dequeFull = false ∧ s.Issues [(Opd.src 7).noPort] ∧ s.me.windows.length < 4 ∧
     s.OwnPlace (s.regW 7) 8 8 0x4000 true ∧ s.Issues [(Opd.src 2).noPort] ∧ s.FarAccess (s.regW 2) 8 8 1 0 0 ∧
     s.addrForm (s.regW 7) = some (s.core.ltn, s.core.num, 0x4000) ∧
     (s.core.bars.any fun x => x.2.members.getLsbD s.issue.slot.val) = false ∧ s.me.windows = [] ∧ s.me.payload = [] ∧ s.me.qo = none ∧
     s.qoDead s.issue.slot = none) := by
  refine ⟨by decide, by decide, by decide, by decide, by decide, by decide, by decide, issued (by decide), issued (by decide), by decide,
    issued (by decide), issued (by decide), by decide, by decide, fun m h => absurd h (Nat.not_lt_zero m), issued (by decide), by decide,
    by decide, by decide, by decide, issued (by decide), by decide, placeNow (by decide), issued (by decide), farNow (by decide), by decide,
    by decide, by decide⟩

theorem meets_EndOfStrandAndSlotFill :
    ((live.slot 0).payload = [] ∧ (live.slot 0).qo = none ∧ (live.slot 0).windows = [] ∧ (live.slot 0).parkAsked = [] ∧
      live.core.bars = []) ∧
    (live.emptySlot = some 1 ∧ live.core.filledAt ≠ some live.tile.cycle ∧ live.core.handlerQ = [] ∧ live.core.arrivals = [] ∧
      live.core.ready = [] ∧ live.Settled ∧ live.MemoryCanonical ∧ live.core.deque.hw = [] ∧ live.core.deque.inRegion = 0) ∧
    (live.core.stealAt = none ∧ (live.slot 1).wait = none) ∧
    (let e : TaskEntry := ⟨false, false, 0, 0, 0x3000, 0, 0, 1, 2, 3, 4⟩
     let s := { live with core := { live.core with deque := { live.core.deque with hw := [e] }, stealAt := some 15 } }
     s.core.deque.hw = [] ++ [e] ∧ s.core.stealAt = some 15) ∧
    (let s := live.setSlot 2 { Slot.none with st := .sleep, wait := some (.cycle 0) }
     (s.slot 1).wait = none ∧ (s.slot 2).st = .sleep ∧ ∃ c ≤ s.tile.cycle, (s.slot 2).wait = some (.cycle c)) := by
  refine ⟨by decide, ⟨by decide, by decide, by decide, by decide, by decide, by unfold Settled; decide, by unfold MemoryCanonical; decide,
    by decide, by decide⟩, by decide, by decide, by decide, by decide, 0, by decide, by decide⟩

/-- An event that is set, one that is not, another tile of the stand. -/
theorem meets_EventResults :
    (let s := withRegs live [(2, 6)]
     s.isSpeculative = false ∧ s.Issues [(Opd.src 2).noPort] ∧ s.rectClear s.me.strand (tileRect s.core.ltn) = true ∧
     s.inStand 899 = true ∧ 899 ≠ s.core.ltn ∧ s.rectClear s.me.strand (tileRect 899) = true ∧ 0 < s.holdFree ∧
     s.Issues [(Opd.dst 3).noPort, (Opd.src 2).noPort] ∧ s.regW 2 ≠ 0 ∧ ¬(s.tile.events[(3 : Fin 4)] &&& s.regW 2 ≠ 0)) ∧
    (SMap.getD still.tile.expMsg 5 0 = BitVec.ofNat 32 0 ∧ still.tile.reorderMsg = [] ∧ still.ckp = 2) ∧
    (let s := withRegs { live with tile := { live.tile with events := .replicate 4 2, clears := [(3, 1)], sets := [(3, 2)] } } [(2, 6), (4, 2)]
     s.tile.events[(3 : Fin 4)] &&& s.regW 2 ≠ 0 ∧ s.tile.events[(3 : Fin 4)] &&& s.regW 4 = s.regW 4 ∧ s.tile.clears = [(3, 1)] ∧
     s.tile.sets = [(3, 2)]) := by
  refine ⟨⟨by decide, issued (by decide), by decide, by decide, by decide, by decide, by decide, issued (by decide), by decide⟩, by decide, by decide⟩

/-- Scope `.C` and scope `.P`; a configured slot, a generation that is over and one that is not. -/
theorem meets_BarrierHeadResults :
    1 ≤ (5 : BitVec 3).toNat ∧ (5 : BitVec 3).toNat ≤ 5 ∧ live.isSpeculative = false ∧
    (let s := withRegs live [(2, 2 ^ 26 - 1), (4, 0xFFFF)]
     s.Issues [(Opd.src 2).noPort] ∧ (s.regW 2).toNat < 2 ^ 26 ∧ (s.bar 3).arr = (s.bar 3).perm ∧ (s.bar 3).waiters = [] ∧
     (let t := { s with core := { s.core with barAsks := [⟨0, 1, 3, 5, 4, some true, 0, some true⟩] } }
      (t.core.barAsks.find? fun q => q.slot == t.issue.slot && q.strand == t.me.strand).map (·.ok) = some (some true)) ∧
     (∀ scope ∈ [1, 5], let t := s.setBar 3 { Bar.none with count := 4, scope := scope }
      (t.bar 3).count ≠ 0 ∧ (t.bar 3).scope = scope ∧ t.rectClear t.me.strand t.standRect = true ∧
        t.rectClear t.me.strand (tileRect t.core.ltn) = true) ∧
     s.Issues [] ∧ s.Issues [(Opd.dst 3).noPort, (Opd.src 4).noPort] ∧ (s.regW 4).toNat < 2 ^ 16 ∧
     ((s.bar 3).gen - (s.regW 4).setWidth 16).toNat = 1 ∧ ¬(1 ≤ ((s.bar 3).gen - (s.regW 5).setWidth 16).toNat)) := by
  refine ⟨by decide, by decide, by decide, issued (by decide), by decide, by decide, by decide, by decide, by decide, issued (by decide),
    issued (by decide), by decide, by decide, by decide⟩

/-- A slot of scope `.P` that counts n arrivals, the first of which has named its COUNT and OP. -/
def counting (n : BitVec 24) : State := still.setBar 3 { Bar.none with count := n, scope := 5, op := 2, first := some (n, 2) }

def arriving (n : BitVec 24) : BarArrival := ⟨5, 0, 0, 3, 5, n, 2, 9, false, false, true⟩

/-- The last arrival and one before it. -/
theorem meets_BarrierEvents :
    still.ckp = 2 ∧
    (∀ seen ∈ [none, some true], let s := { still with core := { still.core with barAsks := [⟨0, 1, 3, 5, 4, seen, 0, none⟩] } }
     s.ckp = 2 ∧ (s.core.barAsks.find? fun r => r.slot == 0 && r.ok.isNone).map (fun r => (r.b, r.scope, r.seen)) = some (3, 5, seen) ∧
     (s.bar 3).arr = (s.bar 3).perm ∧ (s.bar 3).waiters = [] ∧ s.tile.replay = [] ∧ 0 ≤ s.tile.cycle ∧
     (s.setBar 3 { Bar.none with count := 4, arr := 1 }).bar 3 = { Bar.none with count := 4, arr := 1 }) ∧
    ((counting 2).ckp = 2 ∧ (arriving 2).ltn ≠ (counting 2).core.ltn ∧ ((counting 2).bar 3).first = some ((arriving 2).count, (arriving 2).op) ∧
      ((counting 2).bar 3).count ≠ 0 ∧ ((counting 2).bar 3).arr.toNat + 1 < ((counting 2).bar 3).count.toNat) ∧
    ((counting 1).ckp = 2 ∧ ((counting 1).bar 3).first = some ((arriving 1).count, (arriving 1).op) ∧
      ((counting 1).bar 3).count.toNat ≤ ((counting 1).bar 3).arr.toNat + 1) ∧
    (counting 2).bar 3 ≠ Bar.none ∧ ((counting 2).bar 3).scope ≠ 1 ∧ ((counting 2).bar 3).waiters = [] := by
  refine ⟨by decide, by decide, by decide, by decide, by decide, by decide, by decide⟩

/-- Toward a BOUND, a SWAPPED and an ABSENT tile. -/
theorem meets_PacketFormation :
    (∀ st ∈ [KeyState.bound, .swapped, .absent], let s := { live with tile := { live.tile with keyring := [(5, ⟨st, 0, false, 1, 6⟩)] } }
      5 ≠ s.core.ltn ∧ s.channelHeld 5 = false ∧ (∀ h ∈ s.tile.hold, h.id ≠ s.tile.nextHold) ∧ (s.keyOf 5).st = st ∧ st ≠ .exited) := by
  decide

/-- The same strand with five words in queue 0, `qi` bound to it. -/
def mailed : State :=
  let s := live.modMe fun x => { x with qi := some 0 }
  { s with core := { s.core with mq := s.core.mq.set 0 [⟨4095, 15, [1, 2, 3, 4, 5], List.replicate 5 false⟩] } }

/-- The longest payloads, that end at the visible top; the first word beyond the queue and the last word in it. -/
theorem meets_MessageHeadResults :
    (let s := withRegs mailed [(2, 3), (11, 3), (5, 0x29FE00), (6, 0x29FE00), (9, 64), (4, 4), (8, 5)]
     s.isSpeculative = false ∧ s.destWord (s.regW 2) 3 = some (0, 0, 3) ∧ s.MaySend 0 1 ∧ s.Issues [(Opd.src 2).noPort, (Opd.src 5).noPort] ∧
     s.OwnRange (s.regW 5) (8 * 64) 8 0x29FE00 ∧ s.Issues [(Opd.src 11).noPort, ((Opd.vsrc 12).span 4).noPort] ∧
     s.Issues [(Opd.dst 3).noPort, (Opd.src 6).noPort, (Opd.src 9).noPort] ∧ (s.core.mq[(0 : Fin 8)].length = 1) ∧
     (s.regW 9).toNat = 64 ∧ s.OwnRange (s.regW 6) (8 * 64) 8 0x29FE00 ∧ s.Issues [(Opd.vdst 3).noPort] ∧
     (popWords 4 s.core.mq[(0 : Fin 8)]).isSome = true ∧ s.Issues [] ∧ s.flushWaits s.issue.slot = false ∧ s.qoDead s.issue.slot = none ∧ s.Issues [(Opd.src 2).noPort] ∧
     s.Issues [(Opd.dst 3).noPort] ∧ s.Issues [(Opd.dst 3).noPort, (Opd.src 4).noPort] ∧
     ((s.core.mq[(0 : Fin 8)].flatMap (·.words))[(s.regW 4).toNat]? = some 5) ∧
     (s.core.mq[(0 : Fin 8)].flatMap (·.words)).length ≤ (s.regW 8).toNat) := by
  refine ⟨by decide, by decide, by unfold MaySend; decide, issued (by decide), rangeNow (by decide), issued (by decide),
    issued (by decide), by decide, by decide, rangeNow (by decide), issued (by decide), by decide, issued (by decide), by decide, by decide,
    issued (by decide), issued (by decide), issued (by decide), by decide, by decide⟩

/-- A state whose bucker holds a heap of so many lines, with these messages. -/
def bucking (lines : Nat) (heap : List HeapMsg) : State :=
  { live with core := { live.core with bucker := ⟨true, 0x8000, lines, heap⟩ } }

def heapMsg (toWrite replayed : Nat) : HeapMsg := ⟨2, 5, 0, 0, [1], [false], toWrite, replayed, [3, 4]⟩

/-- Room in the queue; none, with room in the heap and without; a message to write, one to replay, its last line and one before it. -/
theorem meets_MessageEvents :
    (let p : Packet := ⟨5, 0, 0, 0, 0, 0, .message 2 [1], 0⟩
     p.seq = SMap.getD live.tile.expMsg p.sltn 0 ∧ 2 ^ 31 ≤ ((0xFFFFFFFF : BitVec 32) - SMap.getD live.tile.expMsg p.sltn 0).toNat ∧
     live.heapHolds 2 = false ∧ live.queueRoom 2 1 = true ∧
     (bucking 8 [heapMsg 2 0]).heapHolds 2 = true ∧ (bucking 8 [heapMsg 2 0]).core.bucker.enabled = true ∧
     (bucking 8 [heapMsg 2 0]).heapUsed + heapLines 1 ≤ 8 ∧ ¬((bucking 2 [heapMsg 2 0]).heapUsed + heapLines 1 ≤ 2)) ∧
    live.core.arrivals.length < 16 ∧ BitVec.ofNat 32 0 = SMap.getD live.tile.expMsg 5 0 ∧
    (bucking 8 [heapMsg 2 0]).core.bucker.heap = [] ++ heapMsg 2 0 :: [] ∧ (heapMsg 2 0).toWrite ≠ 0 ∧ (heapMsg 0 0).toWrite = 0 ∧
    (bucking 8 [heapMsg 0 0]).queueRoom 2 1 = true ∧ (heapMsg 0 0).replayed + 1 < heapLines 1 ∧ heapLines 1 ≤ (heapMsg 0 1).replayed + 1 ∧
    (∀ j ∈ [3, 4], (bucking 8 [heapMsg 2 0]).bankCheck (0x8000 + 64 * j) 64 = none) ∧
    (bucking 8 [heapMsg 2 0]).Settled ∧ (bucking 8 [heapMsg 2 0]).MemoryCanonical := by
  refine ⟨by decide, by decide, by decide, by decide, by decide, by decide, by decide, by decide, by decide, by decide,
    by unfold Settled; decide, by unfold MemoryCanonical; decide⟩

/-- A state that has sent a packet of a body, in a state of its hold entry, to tile 5. -/
def held (body : Body) (st : HoldState) : State :=
  { still with tile := { still.tile with hold := [⟨9, ⟨0, 0, 0, 5, 0, 0, body, 0⟩, st, 1⟩], keyring := [(5, ⟨.swapped, 0, false, 1, 6⟩)] } }

def anArrival : Arrival := ⟨0x3000, false, 0xFF00, [], false, none, none, none, 0, 0, 0, 0⟩

/-- A reply to a packet and to a request; entries sent, refused and bound for the mailbox, with room in it and without. -/
theorem meets_ChannelEvents :
    still.ckp = 2 ∧
    (let s := held (.message 2 [1]) (.sent 0)
     let r : Reply := ⟨true, 5, 2, 0, false, 0, 0, [], false⟩
     s.ckp = 2 ∧ r.dup = false ∧ s.tile.hold.map (fun h => (h.st, h.p.dltn, h.p.seq)) = [(.sent 0, r.peer, r.eseq)] ∧
     (s.tile.hold.find? fun x => x.id == 9).isSome = true ∧ (s.tile.hold.find? fun x => x.p.dltn == 5 && x.p.seq == 0).isSome = true) ∧
    (let x : Sent := ⟨⟨0, 0, 0, 5, 0, 0, .load 8, 0, [], 0, false, none, 3⟩, 0, false, 1, ⟨0, 0, 0, false, false, 0⟩⟩
     let s := { still with tile := { still.tile with sent := [x] } }
     s.ckp = 2 ∧ s.localReq x.q = false ∧ x.q.entry = none ∧ (s.slot 0).strand = x.strand ∧ s.tile.hold = [] ∧ x.q.sltn = s.core.ltn ∧
     x.due ≤ s.tile.cycle) ∧
    ((held (.message 2 [1]) (.refused 0)).tile.hold.find? fun x => x.id == 9).map (·.st) = some (.refused 0) ∧
    ((held (.arrival anArrival) (.refused 0)).tile.hold.find? fun x => x.p.body == .arrival anArrival).map (·.st) = some (.refused 0) ∧
    (let s := held (.message 2 [1]) .mailbox
     (s.tile.hold.find? fun x => x.id == 9 && x.st == .mailbox).isSome = true ∧ (s.keyOf 5).st = .swapped ∧ s.rim.mailbox = [] ∧
     s.rim.mboxl < heapLines 1) ∧
    (let t := held (.message 2 [1]) .mailbox
     let s := { t with rim := { t.rim with mboxl := 2 } }
     heapLines 1 ≤ s.rim.mboxl ∧ (s.keyOf 5).st = .swapped ∧ s.rim.mailbox = [] ∧
     (s.tile.hold.find? fun x => x.p.dltn == 5 && x.st == .mailbox).map (·.id) = some 9) ∧ still.Settled := by
  refine ⟨by decide, by decide, by decide, by decide, by decide, by decide, by decide, by unfold Settled; decide⟩

/-- Two equal records and one that vanishes. -/
theorem meets_ConsolidationKeepsSums :
    (let l : List Delta := [⟨7, 1, 3, 0, 5, false⟩, ⟨2, 1, 3, 0, 1, false⟩, ⟨7, 1, 3, 0, 2, false⟩, ⟨2, 1, 3, 0, 0xFFFFFFFF, false⟩]
     consolidate l = ([⟨7, 1, 3, 0x80000000, 7, false⟩], 0)) := by
  decide

/-- A state with these records in queue 5, of 16 places. -/
def holding (l : List Delta) : State :=
  let q : DQueue := ⟨true, 0, 4, 9, 0x8000, l, 0, []⟩
  (live.putRun q 0 l).keepQueue 5 q

def deltas : State := holding [⟨1, 1, 4, 0, 1, false⟩, ⟨2, 1, 4, 0, 1, false⟩]

/-- Two records of the slice, both without a difference, or one with: the clock that is OPEN admits it. -/
def pushing : State :=
  let u := withRegs (withBytes live 0x4000 (leBytes 32 (7 + 4 * 2 ^ 128 + 2 ^ 192))) [(2, 5), (5, 0x4000)]
  { u with tile := { u.tile with clocks := u.tile.clocks.set 7 (some 4) } }

def recordsAt (s : State) : List Delta :=
  ((List.range 2).map fun i => deltaOf (natAt s.mem (s.key 0x4000 + 32 * i) 32)
    (SMap.find ((s.key 0x4000 + 32 * i) / 64) s.poison).isSome).filter fun r => r.diff != 0

/-- A push whose lines have been read, of a record that its hold admits. -/
def pushed : State := live.modMe fun x => { x with pushes := [⟨5, 0, 5, 1, 4, 4, ⟨0, 0, 0, false, false, 0⟩, [⟨7, 0, 4, 0, 1, false⟩]⟩] }

/-- Records pushed and none to push, and a push that goes out; an empty queue without waiting, one with more records than are asked for; a clock OPEN and a clock
CLOSED. -/
theorem meets_DeltaQueueResults :
    (∀ s ∈ [withRegs live [(2, 5), (5, 0x4000)], pushing], s.isSpeculative = false ∧
      issuesNow s [(Opd.src 2).noPort, (Opd.src 5).noPort] = true ∧ s.destWord (s.regW 2) 4 = some (0, 0, 5) ∧
      s.rectClear s.me.strand (tileRect 0) = true ∧ 1 ≤ s.holdFree ∧ (s.keyOf 0).st ≠ .exited ∧
      s.checkLocal (s.regW 5) (32 * 2) 32 = .here 0x4000 ∧ s.payloadHeld 0x4000 (32 * 2) = false) ∧
    recordsAt live = [] ∧ recordsAt pushing = [⟨7, 0, 4, 0, 1, false⟩] ∧ pushing.holdOf pushing.issue.slot = 4 ∧
    ((pushed.slot 0).pushes.map (fun h => (h.ltn, h.held, h.records.filter fun r => r.diff != 0))
      = [(5, 4, [⟨7, 0, 4, 0, 1, false⟩])] ∧ (4 : Word).toNat ≤ 4 ∧ (pushed.keyOf 5).st ≠ .exited) ∧
    (let s := withRegs deltas [(8, 0x4000), (9, 1), (10, 2 ^ 64 - 1)]
     s.isSpeculative = false ∧ s.Issues [(Opd.dst 3).noPort, (Opd.src 8).noPort, (Opd.src 9).noPort] ∧
     s.core.dq[(5 : Fin 16)].valid = true ∧ (s.seenQueue 5).1 = s.core.dq[(5 : Fin 16)] ∧ s.me.windows.length < 4 ∧ (s.regW 1).toNat = 0 ∧ (s.regW 9).toNat = 1 ∧
     s.checkLocal (s.regW 8) (32 * 64) 32 = .here 0x4000 ∧ s.core.dq[(5 : Fin 16)].untaken ≠ [] ∧
     s.bankCheck s.core.dq[(5 : Fin 16)].base.toNat 1 = none ∧ (∀ r ∈ s.core.dq[(5 : Fin 16)].untaken, r.poison = false) ∧
     s.core.dq[(5 : Fin 16)].cp.getLsbD 1 = false ∧ s.Issues [(Opd.src 10).noPort] ∧ (7 : BitVec 5).toNat ≤ 7 ∧
     s.tile.clocks[Fin.ofNat 8 7] = none ∧ s.regW 10 = BitVec.allOnes 64 ∧ s.Issues [(Opd.dst 3).noPort] ∧ (9 : BitVec 5).toNat ≤ 9 ∧
     s.Issues [(Opd.dst 3).noPort, (Opd.src 1).noPort] ∧ s.me.task = none) ∧
    (let s := { live with tile := { live.tile with clocks := live.tile.clocks.set 7 (some 3), known := 1 } }
     s.tile.clocks[Fin.ofNat 8 7] = some 3 ∧ (s.regW 2).toNat < s.tile.known.toNat ∧ s.me.task = none) ∧
    ((holding []).core.dq[(5 : Fin 16)].valid = true ∧ (holding []).core.dq[(5 : Fin 16)].untaken = []) := by
  refine ⟨by decide, by decide, by decide, by decide, by decide, ⟨by decide, issued (by decide), by decide, by decide, by decide, by decide, by decide,
    by decide, by decide, by decide, by decide, by decide, issued (by decide), by decide, by decide, by decide, issued (by decide), by decide,
    issued (by decide), by decide⟩, by decide, by decide⟩

/-- An arrangement of one bucket and four places, with no entry, at 0x4000; its pool at 0x8000. -/
def arranged : State :=
  let s := withRegs (withBytes live 0x4000 (bytesOfWords [0x8000, 4, 0, 0, 0, 0, 0, 0])) [(2, 0x4000), (5, 0x5000), (7, 1), (8, 0x6000), (4, 5)]
  { s with tile := { s.tile with known := 5 } }

theorem arranged_header : ∃ h e, arranged.Arranged (arranged.regW 2) h e ∧ e.bad = false ∧ h.hwm = 0 ∧ h.log2nb = 0 ∧ h.since = 0 :=
  let r := Engine.header (Engine.on arranged) 0x4000
  ⟨r.1, r.2, ⟨0x4000, by decide, by decide, by decide, rfl, by decide, by decide, by decide, by decide, by decide, by decide, by decide,
    by decide, by decide, by decide⟩, by decide, by decide, by decide, by decide⟩

theorem meets_ArrangementResults :
    arranged.isSpeculative = false ∧ arranged.me.windows.length < 4 ∧
    arranged.Issues [(Opd.dst 3).noPort, (Opd.src 8).noPort, (Opd.src 7).noPort] ∧ (arranged.regW 7).toNat = 1 ∧
    arranged.checkLocal (arranged.regW 8) (32 * 1) 32 = .here 0x6000 ∧ (Engine.records (Engine.on arranged) 0x6000 1).2.bad = false ∧
    (consolidate (Engine.records (Engine.on arranged) 0x6000 1).1).2 = 0 ∧
    arranged.Issues [(Opd.src 2).noPort, (Opd.src 5).noPort] ∧ arranged.checkLocal (arranged.regW 5) (32 * 256) 32 = .here 0x5000 ∧
    (arranged.regW 1).toNat ≤ arranged.tile.known.toNat ∧ (arranged.regW 4).toNat ≤ arranged.tile.known.toNat ∧ (0 : Nat) < (arranged.regW 4).toNat ∧
    arranged.Issues [(Opd.acc 5).noPort, (Opd.src 2).noPort, (Opd.src 7).noPort, (Opd.third 1).noPort] ∧
    (let w := 255 + 4095 * 2 ^ 16
     bits w 7 0 ≠ 0 ∧ bits w 31 16 ≠ 0 ∧ bits w 31 16 ≤ 4095 ∧ bits w 15 8 = 0 ∧ bits w 63 32 = 0 ∧
     arranged.checkLocal (arranged.regW 5) (32 * 4095) 32 = .here 0x5000) :=
  ⟨by decide, by decide, issued (by decide), by decide, by decide, by decide, by decide, issued (by decide), by decide, by decide, by decide,
    by decide, issued (by decide), by decide⟩

/-- A queue not declared, one with room and one without. -/
theorem meets_DeltaEvents :
    (let p : Packet := ⟨5, 0, 0, 0, 0, 0, .delta 5 [⟨1, 1, 4, 0, 1, false⟩], 0⟩
     p.seq = SMap.getD live.tile.expMsg p.sltn 0 ∧ live.core.dq[(5 : Fin 16)].valid = false ∧ deltas.core.dq[(5 : Fin 16)].valid = true ∧
     deltas.core.dq[(5 : Fin 16)].cp.getLsbD 0 = false ∧
     deltas.landingRecords 5 = [] ∧ deltas.core.dq[(5 : Fin 16)].untaken.length + deltas.takenOf 5 + 14 ≤ 2 ^ deltas.core.dq[(5 : Fin 16)].log2cap ∧
     2 ^ deltas.core.dq[(5 : Fin 16)].log2cap < deltas.core.dq[(5 : Fin 16)].untaken.length + deltas.takenOf 5 + 15) ∧
    live.Settled ∧ (live.setSlot 2 { Slot.none with st := .sleep, wait := some (.frontier 0 3) }).Settled ∧
    live.tile.known.toNat < live.localFrontier.toNat := by
  refine ⟨by decide, by unfold Settled; decide, by unfold Settled; decide, by decide⟩

/-- Another core; a PARKED slot; the highest workspace. -/
theorem meets_ParkHeadResults :
    (let s := withRegs (root.setSlot 5 { Slot.none with st := .parked, strand := 2 }) [(2, 0x29FD00), (7, 2 ^ 63 + 2 ^ 26)]
     s.me.priv = true ∧ s.Issues [(Opd.dst 3).noPort, (Opd.src 2).noPort] ∧ s.isSpeculative = false ∧
     s.coreOf (s.regW 2) = some (s.core.ltn, s.core.num) ∧ 5 ≠ s.issue.slot ∧ s.Issues [(Opd.dst 3).noPort, (Opd.src 7).noPort] ∧
     s.coreOf (s.regW 7) = some (1, 0) ∧ (1, 0) ≠ (s.core.ltn, s.core.num) ∧ 0 < s.holdFree ∧ (s.slot 5).st = .parked ∧
     s.wpValid (s.regW 2).toNat = true ∧ s.bankCheck (s.regW 2).toNat 768 = none) := by
  refine ⟨by decide, issued (by decide), by decide, by decide, by decide, issued (by decide), by decide⟩

/-- A table walk that ends at a leaf of 1 GiB: the root at 0x200000, the next table at 0x201000. -/
def paged : State :=
  let t : Stand := { stand with hbm := [(0, 2000)], ptroot := 0x8000000000200000 }
  { root with
    rim := { root.rim with stands := [(0, t)] }
    mem := putBytes (putBytes [] 0x200000 (leBytes 8 0x8000000000201000)) 0x201000 (leBytes 8 0xC840000040000000) }

/-- A walk ends well at a leaf of which a check holds. -/
def walks (s : State) (va : Nat) (check : Xlate → Bool) : Bool :=
  match s.stand with
  | some t => (match s.walkGranted t va with | .ok x => t.ptroot.getLsbD 63 && check x | .error _ => false)
  | none => false

/-- The key that an image unwraps to is uninterpreted: one of the two cases holds. -/
theorem meets_PageHeadResults :
    (let s := withRegs (withBytes root 0x4000 (leBytes 32 (2 ^ 63 + 0x10000 + 0x1F000 * 2 ^ 64 + 0x200000 * 2 ^ 128))) [(2, 0x4000), (5, 0x5000)]
     s.me.priv = true ∧ s.isSpeculative = false ∧ s.Issues [(Opd.src 2).noPort] ∧ s.LocalRead (s.regW 2) 32 32 0x4000 ∧
     rangeOk (.ofNat 256 (natAt s.mem (s.key 0x4000) 32)) = true ∧ s.inPair (s.regW 2).toNat = false ∧ s.regW 1 = 0 ∧ s.rim.pairs = [] ∧
     s.Issues [.dst 3, .src 2] ∧ s.LocalRead (s.readW 2).1 72 8 0x4000 ∧ SMap.find s.keySlot s.rim.keys = none ∧
     (Config.keyUnwrap (bytesAt s.mem (s.key 0x4000) 72) = none ∨ ∃ k, Config.keyUnwrap (bytesAt s.mem (s.key 0x4000) 72) = some k) ∧
     s.Issues [.dst 3] ∧ s.encOutstanding = false ∧ (∃ c, s.addrForm ((s.readW 2).1 &&& ~~~63) = some (s.core.ltn, s.core.num, c)) ∧
     s.OwnAccess ((s.readW 2).1 &&& ~~~63) 64 64 0x4000 true ∧ s.OwnAccess ((s.readW 2).1 &&& ~~~63) 64 64 0x4000 false ∧
     (match (s.walked 0x5000).translate 0x5000 false with | .ok _ => false | .error _ => true) = true) ∧
    (let s := paged
     s.me.priv = true ∧ s.Issues [(Opd.dst 3).noPort, (Opd.src 2).noPort, (Opd.src 5).noPort] ∧ (s.regW 2).toNat < 2 ^ 57 ∧
     s.me.windows.length < 4 ∧ s.rim.convert = none ∧ rangeHit s.tile.ranges (s.regW 2).toNat = none ∧ walks s 0 (fun x => x.log2 == 30) = true ∧
     (s.regW 5).toNat / 2 ^ 59 % 4 ≠ 3) ∧
    (let s := withRegs mapped [(2, 0x1FFFF)]
     s.Issues [.dst 3, .src 2] ∧ s.me.windows.length < 4 ∧ (s.readW 2).1.toNat < 2 ^ 57 ∧ translates (s.walked 0x1FFC0) 0x1FFC0 false (fun _ => true) = true ∧
     translates (s.walked 0x1FFC0) 0x1FFC0 true (fun _ => true) = true ∧ s.MemoryCanonical) := by
  refine ⟨⟨by decide, by decide, issued (by decide), readNow (by decide), by decide, by decide, by decide, by decide,
    issued (by decide), readNow (by decide), by decide, ?_, issued (by decide), by decide, ⟨0x4000, by decide⟩,
    ownNow (by decide), ownNow (by decide), by decide⟩, ⟨by decide, issued (by decide), by decide, by decide, by decide,
    by decide, by decide, by decide⟩, issued (by decide), by decide, by decide, by decide, by decide, by unfold MemoryCanonical; decide⟩
  cases Config.keyUnwrap _ <;> simp

/-- A collective of two ranks on 64 elements; a job checkpoint pending and none. -/
theorem meets_ServiceHeadResults :
    (live.isSpeculative = false ∧ live.Issues [] ∧ live.ckp ≠ 2 ∧ still.ckp = 2 ∧ still.Issues [] ∧ (2 : BitVec 2) ≠ 3) ∧ live.Issues [(Opd.dst 3).noPort] ∧
    (let s := withRegs live [(2, 0x10000)]
     s.Issues [(Opd.src 2).noPort] ∧ (s.regW 2).toNat % 64 = 0 ∧ (0x100 : BitVec 16) ≠ 0 ∧ s.addrFails (s.regW 2) (64 * 0x100) 1 true = none ∧
     ∀ g ∈ s.guarded, overlap g (bits (s.regW 2).toNat 21 0, 64 * 0x100) = false) ∧
    (let t : Stand := { stand with standdel := 0xFFFFFFFFFFFFFFFF, keydel := 0xFFFFFFFFFFFFFFFF }
     let u := withRegs root [(2, 0x1D1D0000), (5, 0x8000000000000001)]
     let s := { u with rim := { u.rim with stands := [(0, t)] } }
     s.Issues [(Opd.src 2).noPort, (Opd.src 5).noPort] ∧ s.me.priv = true ∧ s.isSpeculative = false ∧ s.stand = some t ∧ t.standdel.getLsbD 63 = true ∧
     t.keydel.getLsbD (bits (s.regW 5).toNat 53 48) = true ∧ (s.rectOperand (s.regW 2)).isSome = true ∧ (s.regW 2).toNat < 2 ^ 32 ∧
     (s.regW 5).toNat / 2 ^ 62 % 2 = 0 ∧ (s.regW 5).toNat / 2 ^ 54 % 16 = 0 ∧ (s.regW 5).toNat / 2 ^ 16 % 2 ^ 32 = 0 ∧
     (s.regW 5).toNat / 2 ^ 58 % 4 ≠ 3 ∧ 63 ≠ s.standNo ∧ ∀ l ∈ s.rim.launches, l.stand ≠ 63) ∧
    (let u := withRegs (withBytes live 0x4000 (bytesOfWords [0, 0x30000, 64, 0, 0, 0, 0, 0])) [(2, 0x4000)]
     let s := { u with rim := { u.rim with stands := [(0, { stand with pod := [0, 1] })] } }
     s.Issues [.src 2] ∧ s.isSpeculative = false ∧ (s.readW 2).1.toNat < 2 ^ 22 ∧ s.LocalRead (s.readW 2).1 64 64 0x4000 ∧ s.core.collOut < 4 ∧
     (s.ofStand fun t => w64 t.pod.length).toNat = 2 ∧ s.rim.collectives = [] ∧
     (let w (i : Nat) : Nat := natAt s.mem (s.key 0x4000 + 8 * i) 8
      w 0 % 2 ^ 56 = 0 ∧ w 0 / 2 ^ 60 ≤ 2 ∧ w 2 / 2 ^ 32 = 0 ∧ w 5 = 0 ∧ w 6 = 0 ∧ w 7 = 0 ∧ w 2 ≠ 0 ∧ w 2 % (32 * 2) = 0) ∧
     s.stand.map (·.jstat.toNat / 2 ^ 62) = some 0) ∧
    (let s := { live with rim := { live.rim with stands := [(0, { stand with jstat := 0x4000000000000000 })] } }
     s.Issues [.src 2] ∧ s.isSpeculative = false ∧ s.stand.map (·.jstat.toNat / 2 ^ 62) = some 1) := by
  refine ⟨⟨by decide, issued (by decide), by decide, by decide, issued (by decide), by decide⟩, issued (by decide),
    ⟨issued (by decide), by decide⟩, ⟨issued (by decide), by decide⟩,
    ⟨issued (by decide), by decide, by decide, readNow (by decide), by decide, by decide, by decide, by decide, by decide⟩,
    issued (by decide), by decide⟩

/-- A request that is served in this cycle. -/
def asking (unpark : Bool) (x : Slot) : State :=
  let q : ParkReq := ⟨5, 0, 0, 3, 2, unpark, 0, 7⟩
  (({ live with core := { live.core with parkReqs := [(q, true)] } } : State).setSlot 2 x)

/-- A tile of slots all taken, slot 2 of them PARKED, with a strand that arrives. -/
def crowded : State :=
  let s := allSlots.foldl (fun s i => s.modSlot i fun x => { x with st := .ready }) live
  let t := s.modSlot 2 fun x => { x with st := .parked }
  { t with core := { t.core with arrivals := [anArrival] } }

theorem meets_ParkAndPageEvents :
    (let s := asking false { Slot.none with st := .sleep, strand := 7 }
     s.core.parks ≠ s.tile.cycle + 1 ∧ (s.slot 2).parkAsked = [] ∧ s.ownAsk ⟨5, 0, 0, 3, 2, false, 0, 7⟩ = false ∧ (s.slot 2).st = .sleep ∧
     s.speculative 2 = none) ∧
    (let s := asking true { Slot.none with st := .parked, strand := 7 }
     s.core.parks ≠ s.tile.cycle + 1 ∧ (s.slot 2).parkAsked = [] ∧ s.ownAsk ⟨5, 0, 0, 3, 2, true, 0, 7⟩ = false ∧ (s.slot 2).st = .parked ∧
     s.switching 2 = false) ∧
    (let s := live.setSlot 5 { Slot.none with st := .sleep, strand := 9, wp := 0x2000, wait := some (.switch 2 3 0x1000) }
     (5 : Fin 16) ≠ 2 ∧ (s.slot 5).wait = some (.switch 2 3 0x1000) ∧ s.switching 5 = false ∧ (∀ k, k ≠ 5 → (s.slot k).strand ≠ (s.slot 5).strand) ∧
     (∀ k < (5 : Fin 16), (s.slot k).wait = none) ∧ (s.slot 2).parkAsked = [] ∧ s.core.spilled = [] ∧ s.Settled ∧ s.MemoryCanonical) ∧
    crowded.spillChoice = some 2 ∧
    (let c : Spilled := ⟨Slot.none, 2, [], [], true, []⟩
     let s := { live with core := { live.core with spilled := [(4, c)] } }
     s.core.spilled = [(4, c)] ∧ c.from_ = 2 ∧ c.wanted = true ∧ s.core.arrivals = []) ∧
    (let s := { live with rim := { live.rim with convert := some ⟨2, 0, 0, 0x300000, 0, 0, 12⟩ } }
     s.stand.isSome = true ∧ s.rim.convert.map (·.slot) = some 2 ∧ s.pairHolds 0x300000 = false) ∧
    State.reset.stand = none ∧
    (let s := { live with rim := { live.rim with stands := [(0, { stand with tierctl := 0x80000100000403E8 })] } }
     s.stand.map (·.tierctl.getLsbD 63) = some true) ∧
    (∀ next ∈ [63, 64], let p : SwapPair := ⟨1, 0, 0x300000, 0x300008, 0x4000000000000, 0x500000, next⟩
     let s := { live with rim := { live.rim with pairs := [p] } }
     s.rim.pairs = [p] ∧ p.farFrame % 4096 = 0 ∧ p.nearFrame % 4096 = 0 ∧ p.farFrame ≠ p.nearFrame) ∧ live.MemoryCanonical := by
  refine ⟨by decide, by decide, ⟨by decide, by decide, by decide, by decide, by decide, by decide, by decide, by unfold Settled; decide,
    by unfold MemoryCanonical; decide⟩, by decide, by decide, by decide, by decide, by decide, ?_, by unfold MemoryCanonical; decide⟩
  intro next h
  simp only [List.mem_cons, List.not_mem_nil, or_false] at h
  rcases h with rfl | rfl <;> decide

/-- A tile that its stand's launch has taken, in a state of its notch machine. -/
def notching (n : Notch) : State :=
  { live with tile := { live.tile with keyring := [(0, ⟨.bound, 0, false, 1, 1⟩)], notch := n } }

def anImage : Image := ⟨Core.reset, Tile.reset, [], [], [], [], 0⟩

theorem meets_NotchEvents :
    (let s := notching { Notch.reset with asked := true }
     s.takesNotches = true ∧ s.tile.notch.asked = true ∧ s.tile.notch.st = .run ∧ s.tile.notch.folding = [] ∧ s.rim.recovery = none) ∧
    (let s := notching { Notch.reset with folding := [(7, 0, false, [])] }
     s.takesNotches = true ∧ s.tile.notch.st = .run ∧ s.tile.notch.folding ≠ []) ∧
    (let s := notching { Notch.reset with st := .copy, frozenMap := [7] }
     s.takesNotches = true ∧ s.tile.notch.st = .copy ∧ s.tile.notch.frozenMap = 7 :: []) ∧
    still.takesNotches = false ∧ (notching { Notch.reset with st := .capture }).core.excl = [] ∧
    (notching { Notch.reset with st := .copy }).tile.notch.frozenMap = [] ∧
    (let s := { notching { Notch.reset with folding := [(7, 0, false, [])] } with base := some anImage }
     s.tile.notch.folding = (7, 0, false, []) :: [] ∧ s.base = some anImage) ∧
    (let s := live.modMe fun x => { x with waitFrom := some 0 }
     let t := { s with tile := { s.tile with cycle := 2 ^ 21 } }
     t.waitedOut 0 = true) ∧
    (let s := { live with tile := { live.tile with progress := 2 ^ 21 } }
     2 ^ s.tile.wdl.toNat ≤ s.tile.progress) := by
  decide

/-- A launch record of a stand, its status block in host memory and its other words zero. -/
def aLaunch (st : LaunchState) : Launch :=
  ⟨w64 (2 ^ 56) :: List.replicate 14 0 ++ w64 (2 ^ 50) :: List.replicate 16 0, 0, st, 0, ⟨0, 0, 0, 0, 0⟩, 0, 0, 0, 0, 0, 0, 0⟩

def launching (l : List Launch) : State := { live with rim := { live.rim with launches := l } }

def isError {α β : Type} : Except α β → Bool
  | .error _ => true
  | .ok _ => false

/-- A stand of tile 0 alone, whose entry says so. -/
def alone (st : KeyState) (s : State) : State :=
  { s with rim := { s.rim with stands := [(0, { stand with a := 0 })] }
           tile := { s.tile with keyring := [(0, ⟨st, 0, false, 1, 1⟩)] } }

/-- Whether a launch loads rests on the layout of its image, which the manual does not give: one of the two cases holds of it; the launch of
zeros is refused. -/
theorem meets_LaunchEvents :
    (256 - 64 < 256 ∧ (256 - 64) % 64 = 0) ∧ (63 ≠ 64 ∨ 65 % 64 ≠ 0 ∨ 256 ≤ 256) ∧
    (let parts : List (BitVec 512) := [2 ^ 56, 0, 0, 0]
     let s := { live with rim := { live.rim with launchSlots := [(252, 2 ^ 56), (253, 0), (254, 0), (255, 0)] } }
     parts.length = 4 ∧ (∀ k < 4, SMap.find (4 * 63 + k) s.rim.launchSlots = parts[k]?) ∧ 0 + 64 ≤ s.rim.hbmcap ∧ s.rim.hbmcap < 2 ^ 50 + 64) ∧
    (let s := launching [aLaunch .queued]
     s.waiting.find? (fun m => m.stand == 0) = some (aLaunch .queued) ∧ s.standAt 0 = some stand ∧ inRect (s.rectOf 0) s.core.ltn = true ∧
     s.firstWaiting = some (aLaunch .queued) ∧ s.tileFree = true ∧ s.core.ltn < s.rim.held ∧ s.core.pg = [] ∧
     s.rim.hbmcap < ((aLaunch .queued).words.getD 15 0).toNat + 64 ∧ isError (s.loadLaunch stand (aLaunch .queued)).1 = true) ∧
    (let s := alone .unplaced (launching [aLaunch .queued])
     s.waiting.find? (fun m => m.stand == 0) = some (aLaunch .queued) ∧ inRect (s.rectOf 0) s.core.ltn = true ∧
     ∀ k < s.rim.held, inRect (s.rectOf 0) k = true → (s.keyOf k).st = .unplaced ∧ (s.keyOf k).stand = 0) ∧
    (let s := launching [aLaunch .running]
     s.rim.launches.find? (fun m => m.stand == 0 && (m.st == .running || m.st == .swapped)) = some (aLaunch .running) ∧
     s.runningHere = some (aLaunch .running)) ∧
    (let s := { alone .bound (launching [aLaunch .running]) with core := Core.reset }
     s.runningHere = some (aLaunch .running) ∧ s.rim.swapped = [] ∧ s.tileTaken = true ∧ s.coreDone = true) ∧
    (let s := { launching [aLaunch .running] with core := Core.reset }
     let t := { s with rim := { s.rim with preempt := some (0, []) } }
     t.rim.preempt = some (0, []) ∧ (∀ j, (t.slot j).st = .empty) ∧ t.core.pg = [] ∧ t.tile.frozen = false) ∧
    (let s := launching [aLaunch .swapped]
     let t := { s with rim := { s.rim with swapped := [⟨0, [], anImage, [], []⟩] } }
     t.firstWaiting = none ∧ t.tileFree = true ∧ t.core.pg = [] ∧ anImage.core.ltn = t.core.ltn ∧ t.core.ltn < t.rim.held ∧
     t.rim.launches.find? (fun m => m.stand == 0 && m.st == .swapped) = some (aLaunch .swapped) ∧ t.standAt 0 = some stand) := by
  refine ⟨by decide, by decide, by decide, by decide, by decide, by decide, by decide, by decide, by decide⟩

/-- An aperture of one line that a stand admits, an export of one line, and a collective of two ranks on 64 elements. -/
def outside : State :=
  { live with rim := { live.rim with
    stands := [(0, { stand with hbm := [(0, 100)], pod := [0, 1] })]
    apertures := [(3, 0xE000000000200000, 0x20003F)]
    exports := [(0, 0xE000000000010000, 5)] } }

/-- The range entry of the stand that the export's address translates by. -/
def exporting : State :=
  let e : BitVec 256 := .ofNat 256 (2 ^ 63 + 0x10000 + 0x1F000 * 2 ^ 64 + 0x200000 * 2 ^ 128 + (2 ^ 56 + 2 ^ 54 + 2 ^ 53) * 2 ^ 192)
  { outside with rim := { outside.rim with stands := [(0, { stand with hbm := [(0, 100)], pod := [0, 1], ranges := [(0, e)] })] } }

def peerTranslates (s : State) (va : Nat) (write : Bool) : Bool :=
  match s.standAt 0 with
  | some t => (match s.translateIn t t.ranges false va with
    | .ok x => (s.checkXlate t x write true).isNone
    | .error _ => false)
  | none => false

/-- What the verification of a packet answers is uninterpreted: one of the two cases holds. -/
theorem meets_HostAndCollectiveEvents :
    (outside.portAt 31).up = true ∧
    (∀ body, Config.gcmVerify (outside.standOr 0).secret 31 0 0 body = true ∨ Config.gcmVerify (outside.standOr 0).secret 31 0 0 body = false) ∧
    0 = outside.standNo ∧ outside.tileIndex = 0 ∧ outside.core.num = 0 ∧ outside.rim.hostUp = true ∧ outside.apertureOf 0x300000 = none ∧
    outside.apertureOf 0x200000 = some (0xE000000000200000, 0x20003F) ∧
    outside.hostRefused true 0x200000 (some (0xE000000000200000, 0x20003F)) = false ∧
    outside.hostRefused false 0x200000 (some (0xE000000000200000, 0x20003F)) = false ∧ outside.MemoryCanonical ∧
    (SMap.getD live.rim.exports 0 (0, 0)).1.getLsbD 63 = false ∧
    (let e := SMap.getD exporting.rim.exports 0 (0, 0)
     e.1.getLsbD 63 = true ∧ e.1.getLsbD 62 = true ∧ e.1.getLsbD 61 = true ∧ 5 = e.2.toNat % 2 ^ 22 ∧ e.2.toNat / 2 ^ 58 = 0 ∧
     peerTranslates exporting (e.1.toNat % 2 ^ 57) true = true ∧ peerTranslates exporting (e.1.toNat % 2 ^ 57) false = true) ∧
    (let c : Collective := ⟨0, 0, 0, 1, 0, 0, 0, 0, 0x10000, 64, 9, 0, 1, 0, 0, 0, List.replicate 64 0, false, none⟩
     let s := { outside with rim := { outside.rim with collectives := [c] } }
     s.rim.collectives = [c] ∧ c.ended = false ∧ c.stand = s.standNo ∧ c.queued = none ∧ 0 = c.applied ∧ 0 < s.collSteps c ∧
     chunkSent 2 c.op ((0 + 2 - 1) % 2) 0 < 2 ∧ c.nel / 2 = 32 ∧ 1 ≠ c.applied ∧ c.sentStep = 0 + 1 ∧ c.ackedStep = 0 ∧
     c.resends < (s.standOr c.stand).cretry.toNat) ∧
    (let c : Collective := ⟨0, 0, 0, 1, 0, 0, 0, 0, 0x10000, 64, 9, 0, 1, 0, 0, 3, List.replicate 64 0, false, none⟩
     let s := { outside with rim := { outside.rim with collectives := [c] } }
     c.ended = false ∧ c.stand = s.standNo ∧ (s.standOr c.stand).cretry.toNat ≤ c.resends) := by
  refine ⟨by decide, fun _ => (Bool.eq_false_or_eq_true _), by decide, by decide, by decide, by decide, by decide, by decide, by decide,
    by decide, by unfold MemoryCanonical; decide, by decide, by decide, by decide, by decide⟩

/-- A recovery of the tile's site 33 in a stage. -/
def recovering (st : RecStage) (saplings : List Nat) : State :=
  let s := notching Notch.reset
  { s with
    rim := { s.rim with recovery := some ⟨st, .checker, 0, 0, 0, 33, 0, false, [], 0, 0⟩, saplings := saplings }
    tile := { s.tile with keyring := [(0, ⟨.bound, 0, false, 1, 1⟩), (1, ⟨.bound, 0, false, 1, 2⟩)] }
    base := some anImage, recovery := some anImage }

theorem meets_RecoveryEvents :
    (let s := notching Notch.reset
     s.tileTaken = true ∧ s.rim.recovery = none ∧ s.rim.lastFault = none ∧ s.ckp ≠ 2 ∧ fieldOf (s.siteOf s.core.ltn) = fieldOf 33 ∧
     s.siteOf s.core.ltn = 32 * 1 + 1) ∧
    (let s := quiet (notching Notch.reset)
     s.tileTaken = true ∧ s.rim.recovery = none ∧ s.rim.lastFault = none ∧ s.ckp = 2) ∧
    (∀ st ∈ [RecStage.hold, .select, .restore, .replay, .bind, .fold], (recovering st [7]).rim.recovery.map (·.stage) = some st) ∧
    (recovering .hold [7]).sapling 33 = some 7 ∧ (recovering .hold []).sapling 33 = none ∧ (recovering .hold []).foldHost 33 = some 1 ∧
    (recovering .select []).base.isSome = true ∧ (recovering .select []).recovery.isSome = true ∧
    (live.rim.recovery = none ∧ live.tile.frozen = false) ∧
    (∀ r ∈ [false, true], let s := { live with rim := { live.rim with foldMate := some 1, resident := r } }
     s.rim.recovery = none ∧ s.tile.frozen = false ∧ s.rim.foldMate ≠ none ∧ s.rim.resident = r) := by
  decide

theorem pair_of {α β : Type} (p : α × β) : ∃ x y, p = (x, y) := ⟨p.1, p.2, rfl⟩

/-- A manifest of one shard of one line of zeros, whose digest is that of the line. -/
def shardOfZeros : Manifest := ⟨5, 0, [], [(0x20000, 1, 0x10000, List.replicate 64 0, Config.sha384 (List.replicate 64 0))]⟩

def kept : State := { live with rim := { live.rim with stands := [(0, { stand with manifests := [shardOfZeros] })] } }

/-- A channel that may retire and none that may; the last stripe and one before it; a manifest that holds and one that does not. -/
theorem meets_YearsEvents :
    (live.rim.retiring = none ∧ 1279 ∈ live.rim.active ∧ 864 < live.rim.active.length) ∧
    (let s := { live with rim := { live.rim with active := List.range 864 } }
     s.rim.retiring = none ∧ s.rim.active.length ≤ 864) ∧
    (let s := { live with rim := { live.rim with retiring := some 5, rebuild := stripeCount - 1 } }
     s.rim.retiring = some 5 ∧ stripeCount ≤ s.rim.rebuild + 1) ∧
    live.rim.pending = none ∧
    (let s := { outside with rim := { outside.rim with pending := some (2 ^ 40), apertures := [] } }
     s.rim.pending = some (2 ^ 40) ∧ (∀ x ∈ s.rim.stands, ∀ g ∈ x.2.hbm, g.2 < 2 ^ 40 / 2 ^ 21) ∧ s.rim.apertures = []) ∧
    (let s := { live with rim := { live.rim with jobs := [(5, none)] } }
     s.rim.jobs = (5, none) :: [] ∧ ∃ m u, ({ s with rim := { s.rim with jobs := [] } } : State).checkpoint s.standNo 5 = (m, u)) ∧
    (let m : Manifest := ⟨5, 0, [1], []⟩
     let s := { live with rim := { live.rim with stands := [(0, { stand with manifests := [m] })] } }
     s.rim.launches = [] ∧ (s.standOr 0).manifests = [m] ∧ s.manifestHolds (s.standOr 0) m = false) ∧
    (kept.rim.launches = [] ∧ (kept.standOr 0).manifests = [shardOfZeros] ∧ kept.manifestHolds (kept.standOr 0) shardOfZeros = true) := by
  refine ⟨by decide, by decide, by decide, by decide, by decide, ⟨rfl, pair_of _⟩, by decide, rfl, rfl, ?_⟩
  have h : (kept.readVirtual (kept.standOr 0) 2 0x10040 64).1 = List.replicate 64 0 := by decide
  have g : (kept.readVirtual (kept.standOr 0) 2 0x10000 64).1 = List.replicate 64 0 := by decide
  simp only [manifestHolds, shardOfZeros, List.all_cons, List.all_nil, Nat.reduceAdd, Nat.reduceMul, h, g, beq_self_eq_true, Bool.and_true]
  decide

/-- The sources of the vector heads: registers, and their zeros as the operands of each format. -/
theorem meets_VectorFloatResults :
    swJO live.rdSw = 0 ∧ live.Issues [.vdst 3, .vsrc 2, .vsrc 5] ∧ live.Issues [.vacc 3, .vsrc 2, .vsrc 5] ∧ live.Issues [.vdst 3, .vsrc 2] ∧
    ([8, 9, 10].all (fun c => (List.range (256 / fmtWidth c)).all fun i =>
      [live.regV 2, live.regV 5, live.regV 3].all fun v => (operandF c (swSUB live.rdSw) (elemAt (fmtWidth c) v.toNat i)).isSome) = true) ∧
    (let s := live.setV 0 2 1 (BitVec.allOnes 256)
     s.Issues [.vdst 3, .vsrc 2, .vsrc 5] ∧ swSUB s.rdSw = false ∧ laneOn (swVM s.rdSw) 32 0 = true ∧
     isSubnormal 8 (elemAt 32 (s.regV 2).toNat 0) = true) := by
  refine ⟨by decide, issued (by decide), issued (by decide), issued (by decide), by decide, issued (by decide), by decide, by decide, by decide⟩

theorem meets_VectorIntegerResults :
    live.Issues [.vdst 3, .vsrc 2, .vsrc 5] ∧ live.Issues [.vacc 3, .vsrc 2, .vsrc 5] ∧ live.Issues [.vdst 3, .src 2] ∧
    live.Issues [.vacc 3, .src 2, .src 5] ∧ live.Issues [.dst 3, .vsrc 2, .src 5] ∧ live.Issues [.dst 3, .vsrc 2] ∧
    (7 : BitVec 5).toNat < 8 ∧ (List.range (256 / 64)).filter (laneOn (swVM live.rdSw) 64) ≠ [] :=
  ⟨issued (by decide), issued (by decide), issued (by decide), issued (by decide), issued (by decide), issued (by decide), by decide, by decide⟩

/-- A count that RIX has reached and one of which a queue word is still to come; every pair of widths of the conversions. -/
theorem meets_VectorConversionResults :
    swJO live.rdSw = 0 ∧ live.Issues [.vdst 3, .vsrc 2, .vsrc 5] ∧ live.Issues [.vacc 3, .vsrc 2, .vsrc 5] ∧ live.Issues [.dst 3, .vsrc 2] ∧
    (let s := withRegs mailed [(2, 255)]
     s.issue.info.pair = false ∧ s.issue.info.second = false ∧ s.Issues [(Opd.acc 3).noPort, .src 2] ∧ s.me.qi = some 0 ∧ (s.readW 2).1.toNat ≤ 255 ∧ s.isSpeculative = false ∧
     swRIX s.rdSw < (s.readW 2).1.toNat ∧ (popWords 1 (s.readW 2).2.core.mq[(0 : Fin 8)]).map (·.1) = some [1] ∧
     (s.readW 1).1.toNat ≤ swRIX s.rdSw ∧ s.Issues [(Opd.acc 3).noPort, .src 1] ∧ ∀ v ∈ [1], isSubnormal 2 v = false) ∧
    live.Issues [.vdst 3, .vsrc 2, .src 5] ∧ (scaleOf 0x3F800000).isSome = true ∧
    live.Issues ([.vdst 3, { Opd.vsrc 8 with n := 8, port := false }] ++ [.src 5]) ∧ spanFits 8 8 = true ∧
    live.Issues ([{ Opd.vdst 8 with n := 8, port := false }, .vsrc 3] ++ []) ∧ spanFits 3 1 = true ∧ live.Issues [.vdst 3, .vsrc 2] ∧
    (∀ p ∈ [(0, 8), (8, 0), (13, 8), (8, 13), (3, 3)], laneOn (swVM live.rdSw) (fmtWidth p.2) 0 = true ∧
      (cvtElem p.1 p.2 false (live.rnd 0) none (elemAt (fmtWidth p.1) 0 0)).isSome = true) ∧
    (cvtElem 8 9 false (live.rnd 0) (scaleOf 0x3F800000) 0).isSome = true := by
  refine ⟨by decide, issued (by decide), issued (by decide), issued (by decide), ⟨by decide, by decide, issued (by decide), by decide, by decide, by decide,
    by decide, by decide, by decide, issued (by decide), by decide⟩, issued (by decide), by decide, issued (by decide), by decide,
    issued (by decide), by decide, issued (by decide), by decide, by decide⟩

/-- The same strand at an order of its jets. -/
def atOrder (n : Nat) : State := live.modMe fun x => { x with sw := 0xFF00 + w64 (n * 2 ^ 16) }

/-- What the jet heads ask of the operands of an order: spans that fit, and groups of zeros. -/
def jetsReady (n : Nat) (b : Reg) : Bool :=
  let s := atOrder n
  let r := spanOf 8 n
  swJO s.rdSw == n && decide (s.me.windows.length < 4) && issuesNow s [(Opd.vacc 12).jet r, (Opd.vsrc 8).jet r, (Opd.vsrc b).jet r] &&
    spanFits 12 r && spanFits 8 r && spanFits b r &&
    (List.range (groupsOf 8 n)).all fun g => groupOn (swVM s.rdSw) 8 n (g * groupSize n) &&
      (groupOperand 8 (swSUB s.rdSw) (groupCoefs 8 n (s.readSpan 8 r).1 g)).isSome

/-- Orders with spans of one register and of more; the least order of the long form. -/
theorem meets_JetOperationResults : jetsReady 0 5 = true ∧ jetsReady 7 5 = true ∧ jetsReady 8 4 = true ∧ jetsReady 31 4 = true := by
  decide

theorem meets_JetInstructionResults :
    live.Issues [] ∧ (31 : BitVec 5).toNat ≤ (31 : BitVec 5).toNat ∧ live.Issues [.dst 3] ∧
    (let s := atOrder 7
     swJO s.rdSw < 8 ∧ spanOf 8 7 = 1 ∧ spanFits 3 1 = true ∧ s.Issues [(Opd.vdst 3).jet 1, .src 2, .src 5] ∧
     s.Issues [(Opd.vdst 3).jet 1, .vsrc 2, .vsrc 5] ∧ s.Issues [(Opd.vdst 3).jet 1, .src 2] ∧ (7 : BitVec 5).toNat ≤ 7 ∧
     s.Issues [(Opd.vdst 3).jet 1, (Opd.vsrc 2).jet 1] ∧ s.Issues [(Opd.vsrc 2).jet 1, .vdst 3] ∧
     ∀ i < groupsOf 8 7, (operandF 8 (swSUB s.rdSw) (elemAt 32 (s.readSpan 2 1).1 (i * groupSize 7 + 7))).isSome = true) :=
  ⟨issued (by decide), by decide, issued (by decide), by decide, by decide, by decide, issued (by decide), issued (by decide), issued (by decide),
    by decide, issued (by decide), issued (by decide), by decide⟩

/-- Streams that end at the visible top; a window of 128 bytes. -/
theorem meets_StreamAndWindowResults :
    (let s := withRegs live [(2, 0x29E000), (5, 0x10000), (3, 0x12000)]
     s.me.windows.length < 4 ∧ spanOf 8 (swJO s.rdSw) = 1 ∧ s.Issues [(Opd.acc 3).noPort, (Opd.src 2).noPort, (Opd.src 5).noPort] ∧
     ∀ r ∈ ([3, 2, 5] : List Reg), (s.regW r.toNat).toNat < 2 ^ 22 ∧ (s.regW r.toNat).toNat + 32 * 256 ≤ s.rim.visibleTop ∧
       (s.regW r.toNat).toNat % 32 = 0 ∧ s.bankState ((s.regW r.toNat).toNat / 2 ^ 20) ≠ 2 ∧
       s.bankState (((s.regW r.toNat).toNat + 32 * 256 - 1) / 2 ^ 20) ≠ 2) ∧
    (let s := withRegs live [(3, 0x4000), (2, 0x4000)]
     s.OwnRange 0x4000 128 64 0x4000 ∧ s.isSpeculative = false ∧ (∀ o ∈ s.core.winOps, o.addr ≠ 0x4000) ∧
     s.poisoned (s.key 0x4000) 88 = false ∧ s.regW 3 = 0x4000 ∧ s.regW 2 = 0x4000 ∧ s.Issues [(Opd.third 3).noPort, .src 2] ∧
     s.Issues [(Opd.third 3).noPort, .src 2, .src 5] ∧ s.Issues [.dst 3, (Opd.src 2).noPort] ∧ s.Issues [(Opd.src 2).noPort]) := by
  refine ⟨⟨by decide, by decide, issued (by decide), by decide⟩, rangeNow (by decide), by decide, by decide, by decide, by decide, by decide,
    issued (by decide), issued (by decide), issued (by decide), issued (by decide)⟩

/-- Tiles configured alike, all owned by slot 0. -/
def tiled (m : MTile) : State :=
  let s := withRegs live [(5, 0x10000), (2, 0x20000), (7, 64), (9, 0x3F800000)]
  { s with core := { s.core with tiles := .replicate 4 m } }

def fp8Tile : MTile := ⟨[], true, false, 11, 11, 2, 2, some 0, false⟩
def fp32Tile : MTile := ⟨[], true, false, 10, 10, 2, 16, some 0, false⟩

theorem meets_MatrixHeadResults :
    live.Issues [] ∧ (matFormat false 11 11).isSome = true ∧ (live.mtile 3).owner = none ∧ (∀ i < 4, (tiled fp8Tile).ownTile i = true) ∧
    live.Issues [.dst 3] ∧
    (let s := tiled fp8Tile
     s.issue.info.pair = false ∧ (4 : Reg).toNat % 4 = 0 ∧ (4 : Reg).toNat < 16 ∧
     s.addrForm (s.regW 5) = some (s.core.ltn, s.core.num, 0x10000) ∧ matFormat false 11 11 = some (32, 2, true, true) ∧
     s.rangesFail ((0x10000, 64 * 32 * 64, 64) :: (s.indexRows 4 2).map fun r => (r, 4 * fmtWidth 11 * 64, 64)) = none ∧
     s.Issues [indexQuad 4, (Opd.src 5).noPort] ∧ s.Issues [indexQuad 4, (Opd.src 5).noPort, .third 9] ∧
     (scaleOf (s.readW 9).1).isSome = true ∧ swRIX s.rdSw < 64 ∧
     s.bankCheck 0x4000 32 = none ∧ s.payloadHeld 0x4000 32 = false ∧ s.bankBusy 0x4000 = false ∧ s.readsExceed 1 = false ∧ s.poisoned (s.key 0x4000) 32 = false) ∧
    (let s := withBytes (tiled fp8Tile) 0x4000 (bytesOfWords [0x8000000000008000, 0, 0, 0x8000000000009000])
     let word (i : Nat) : Word := w64 (natAt s.rdMem (s.key (0x4000 + 8 * i)) 8)
     (planeOf (word 0) (word 1) true).1 = true ∧ (planeOf (word 2) (word 3) false).1 = true ∧
     s.rangesFail ((0x10000, 64 * 32 * 1, 64) :: ((s.indexRows 4 2).map fun r => (r, 4 * fmtWidth 11 * 1, 64)) ++
       [(0x4000, 32, 32), ((planeOf (word 0) (word 1) true).2, 64, 64), ((planeOf (word 2) (word 3) false).2, 64, 64)]) = none) ∧
    (let s := (tiled fp8Tile).modMe fun x => { x with sw := 0x3FF00 }
     swJO s.rdSw = 3 ∧ (∀ i ≤ 3, s.ownTile i = true ∧ s.mtile i = fp8Tile) ∧ s.Issues [indexQuad 4, (Opd.src 5).noPort, .third 9] ∧
     (s.readW 1).1 = 0 ∧ s.rangesFail ((List.range 4).flatMap fun i => (0x10000 + i * 0, 64 * 32 * 16, 64) ::
       (s.indexRows 4 2).map fun r => (r + i * 0, 4 * fmtWidth 11 * 16, 64)) = none ∧ swRIX s.rdSw < 16 * (jetPairs 3).length) ∧
    (let s := tiled fp32Tile
     s.issue.info.pair = false ∧ s.Issues [(Opd.src 2).noPort, (Opd.src 7).noPort] ∧ s.ownTile 0 = true ∧
     rowBytes 16 8 ≤ (s.regW 7).toNat ∧ s.addrForm (s.regW 2) = some (s.core.ltn, s.core.num, 0x20000) ∧ (s.regW 7).toNat % 64 = 0 ∧
     s.rangesFail ((List.range 2).map fun i => (0x20000 + i * 64, rowBytes 16 8, 1)) = none ∧ 8 ∈ [8, 9, 10] ∧
     swRIX s.rdSw < 2 * rowLines 16 8) ∧
    (let s := tiled fp32Tile
     s.Issues [(Opd.acc 5).noPort, (Opd.src 2).noPort] ∧ (5 : Reg) ≠ 2 ∧ s.addrForm (s.regW 5) = some (s.core.ltn, s.core.num, 0x10000) ∧
     s.rangesFail [(0x10000, 32 * (255 + 1 - swRIX s.rdSw), 32)] = none) := by
  refine ⟨issued (by decide), by decide, by decide, by decide, issued (by decide),
    ⟨by decide, by decide, by decide, by decide, by decide, by decide, issued (by decide), issued (by decide), by decide⟩, by decide,
    ⟨by decide, by decide, issued (by decide), by decide⟩, ⟨by decide, issued (by decide), by decide⟩, issued (by decide), by decide⟩

def aStream (left : Nat) (banks : List (Fin 3)) (ended : Bool) : Stream :=
  ⟨0, 1, 0, 0, 0, 0x4000, 0x5000, 0x6000, 2, (3, 2, 5), 0xFF00, 0, 0, 0, left, banks, 0, 0, ended, none⟩

def streaming (m : Stream) : State := { live with core := { live.core with streams := [m] } }

def aMatOp (kind : MatKind) (units perUnit : Nat) : MatOp :=
  { slot := 0, kind := kind, tiles := [0], rowsA := [0, 0], base := 0x10000, pitch := 64, mx := false, scale := none, planeA := 0,
    planeB := 0, sa := 0, sb := 0, jo := 0, fmt := 8, sw := 0xFF00, index := 0, seed := 0, dst := 0, src := 0, regs := (0, 0), form := (0, 0), first := 0,
    units := units, perUnit := perUnit, steps := 0, wantA := [], wantB := [], latchA := [], latchB := [], flags := 0, stop := none,
    halt := false, info := ⟨0, 0, 0, false, false, 0⟩, npc := 0, fold := 0x5A, loops := [], counts := [] }

def engaged (m : MTile) (o : MatOp) : State :=
  let s := tiled m
  let t := s.modMe fun x => { x with st := .matrix }
  { t with core := { t.core with mat := [o] }, tile := { t.tile with cycle := 9 } }

def latched : SMap Latched := [(0, ⟨8, none, List.replicate 64 0⟩)]

theorem meets_EngineEvents :
    (∀ m ∈ [aStream 1 [bankOf 0x4000] false, aStream 0 [] true], (streaming m).Settled ∧ (streaming m).MemoryCanonical) ∧
    (let m := aStream 1 [bankOf 0x4000] false
     let s := streaming m
     s.bankState (bankOf 0x4000).val = 0 ∧ bankOf 0x4000 ∉ s.core.served ∧ m.op < 2 ∧
     (∀ p ∈ [m.a + 32 * m.step, m.b + 32 * m.step], s.poisoned (s.key p) 32 = false) ∧
     (m.compute (natAt s.mem (s.key 0x4000) 32) (natAt s.mem (s.key 0x5000) 32) 0).isSome = true) ∧
    (let o : WinOp := ⟨0, 1, 3, 0x4000, [], [(80, 7)], 0⟩
     let s := { live with core := { live.core with winOps := [o] } }
     s.core.winOps = [o] ∧ (s.slot 0).strand = o.strand ∧ o.writes = [(80, 7)]) ∧
    (let o := { aMatOp .mma 1 32 with latchA := latched, latchB := latched }
     let s := engaged fp8Tile o
     s.matrixReady 0 = true ∧ o.steps % o.perUnit + 1 < o.perUnit ∧ (SMap.find 0 o.latchA).map (·.bad) = some none) ∧
    (let o := { aMatOp .macc 2 1 with base := 0x20000 }
     let s := engaged fp32Tile o
     s.matrixReady 0 = true ∧ s.bankState (s.lineOf o o.unitNow / 2 ^ 20) = 0 ∧ s.poisoned (s.key (s.lineOf o o.unitNow)) 64 = false) ∧
    (let o := { aMatOp .mma 1 32 with stop := some ⟨cPOISON, 0, 0⟩ }
     let s := engaged fp8Tile o
     o.stop = some ⟨cPOISON, 0, 0⟩ ∧ (s.slot 0).handler = none ∧ (s.slot 0).emulate = none ∧ s.issue.snap = none ∧ s.core.commits = []) ∧
    (let o := { aMatOp .mma 1 1 with wantB := [0x10000] }
     let s := engaged fp8Tile o
     o.stop = none ∧ o.halt = false ∧ o.wantA = [] ∧ o.allSteps = o.steps + 1 ∧ s.bankCheck 0x10000 1 = none ∧ s.bankBusy 0x10000 = false ∧
     s.poisoned (s.key 0x10000) 64 = false ∧ SMap.find (s.key 0x10000 / 64) s.core.bufM = none) := by
  refine ⟨?_, by decide, by decide, by decide, by decide, by decide, by decide⟩
  intro m h
  simp only [List.mem_cons, List.not_mem_nil, or_false] at h
  rcases h with rfl | rfl <;> exact ⟨by unfold Settled; decide, by unfold MemoryCanonical; decide⟩

/-- Does an instruction answer a next state in which its head is done? -/
noncomputable def completes (s : State) (i : Instr) : Bool :=
  match exec i s with
  | .next t => decide (t.issue.result = .done)
  | _ => false

theorem live_unread : live.MemoryCanonical ∧ live.WorkspaceUnread ∧ live.Settled := by
  refine ⟨by unfold MemoryCanonical; decide, fun i t _ h => ?_, by unfold Settled; decide⟩
  have none_speculates : ∀ j : Fin 16, live.speculative j = none := by decide
  simp [none_speculates i] at h

theorem meets_ScalarHeadFrames :
    live.MemoryCanonical ∧ live.WorkspaceUnread ∧
    ([.add 3 2 5, .sub 3 2 5, .addx 3 2 5, .mul 3 2 5, .mulh 3 2 5, .mulhn 3 2 5, .min 3 2 5, .max 3 2 5, .minn 3 2 5, .maxn 3 2 5, .and 3 2 5,
      .or 3 2 5, .xor 3 2 5, .andn 3 2 5, .shl 3 2 5, .shr 3 2 5, .sar 3 2 5, .rol 3 2 5, .sel 3 2 5, .rndk 3 2 5, .fadd 0 3 2 5, .fsub 1 3 2 5,
      .fmul 2 3 2 5, .ffma 0 3 2 5, .fmin 0 3 2 5, .fmax 0 3 2 5].all (completes live)) = true ∧
    ([.mov 3 2, .neg 3 2, .abs 3 2, .clz 3 2, .ctz 3 2, .popc 3 2, .bswap 3 2, .sextI8 3 2, .sextI16 3 2, .sextI32 3 2, .zextN8 3 2,
      .zextN16 3 2, .zextN32 3 2, .addi 3 2 5, .lih 3 2 5, .bfx 3 2 true 5 6, .bfi 3 2 5 6, .fabs 0 3 2, .fneg 0 3 2, .fclass 0 3 2,
      .fcvt 8 9 3 2].all (completes live)) = true ∧ completes (root.modMe fun x => { x with handler := some ⟨1, List.replicate 8 0, false⟩ }) (.cause 3 2) = true ∧
    ([.li 3 5, .liG 3 5, .topo 3 0, .capr 3 0, .mres 3 2].all (completes live)) = true ∧ completes root (.perfr 3 0) = true ∧
    ([.cmp 1 2 2 5, .cmpi 1 2 2 5, .tst 1 1 2 5, .fcmp 1 2 0 2 5, .nop, .vredAdd 8 3 2, .vredMin 8 3 2, .vredMax 8 3 2,
      .vext 2 true 3 2 5].all (completes live)) = true ∧
    ([.br 0 0x2004, .brc 1 0 0x2004, .jmp 0 0x2004, .ret 0 2, .call 0 0x2004, .callr 0 2].all
      (completes (withRegs loopCode [(2, 0x2004)]))) = true ∧
    ([.div 3 2 5 1, .divn 3 2 5 1, .rem 3 2 5 1, .remn 3 2 5 1, .fdiv 0 3 2 5 1, .fsqrt 0 3 2 1].all (completes live)) = true := by
  refine ⟨live_unread.1, live_unread.2.1, by decide, by decide, by decide, by decide, by decide, by decide, by decide, by decide⟩

theorem meets_VectorHeadFrames :
    ([.vadd 0 3 2 5, .vaddL 0 3 2 5 1, .vsub 1 3 2 5, .vsubL 1 3 2 5 1, .vmul 2 3 2 5, .vmulL 2 3 2 5 1, .vdiv 0 3 2 5, .vdivL 0 3 2 5 1,
      .vmin 0 3 2 5, .vminL 0 3 2 5 1, .vmax 0 3 2 5, .vmaxL 0 3 2 5 1, .vpow 0 3 2 5, .vpowL 0 3 2 5 1, .vfma 0 3 2 5, .vfmaL 0 3 2 5 1,
      .vfms 0 3 2 5, .vfmsL 0 3 2 5 1].all (completes live)) = true ∧
    ([.vsqrt 0 3 2, .vsqrtL 0 3 2 1, .vrsq 0 3 2, .vrsqL 0 3 2 1, .vexp 0 3 2, .vexpL 0 3 2 1, .vlog 0 3 2, .vlogL 0 3 2 1, .vsin 0 3 2,
      .vsinL 0 3 2 1, .vcos 0 3 2, .vcosL 0 3 2 1, .vtanh 0 3 2, .vtanhL 0 3 2 1, .vabs 0 3 2, .vabsL 0 3 2 1, .vneg 0 3 2,
      .vnegL 0 3 2 1].all (completes live)) = true ∧
    ([.vcmp 1 2 0 3 2 5, .vand 3 2 5, .vor 3 2 5, .vxor 3 2 5, .vshl 2 true 3 2 5, .vshr 2 true 3 2 5, .viadd 2 true 3 2 5,
      .visub 2 true 3 2 5, .vimul 2 true 3 2 5, .vsel 3 2 5, .vshuf 2 3 2 5, .vins 2 3 2 5, .vsplat 2 3 2, .vdot 11 3 2 5, .vrnd 8 8 3 2,
      .vcvt 8 9 false 3 2 0, .vpack 8 10 false 3 2 0, .vunpack 9 2 false 4 2 0].all (completes live)) = true := by
  refine ⟨by decide, by decide, by decide⟩

/-- At JO 8 and above, where the family runs long, and at JO 1. -/
theorem meets_VectorHeadFrames_orders :
    (atOrder 8).MemoryCanonical ∧ (atOrder 1).MemoryCanonical ∧
    ([.vadd 0 12 8 5, .vmul 0 12 8 5, .vneg 0 12 8, .vcmp 1 2 0 12 8 5].all (completes (atOrder 1))) = true ∧
    ([.vneg 0 12 8, .vabs 0 12 8, .vmin 0 12 8 4, .vcmp 1 2 0 12 8 4].all (completes (atOrder 8))) = true :=
  ⟨by unfold MemoryCanonical; decide, by unfold MemoryCanonical; decide, by decide, by decide⟩

theorem meets_MemoryHeadFrames :
    live.MemoryCanonical ∧ live.Settled ∧
    ([.ld 3 true false 3 2 1 8, .ld 2 false true 3 2 1 0, .ldv false 3 2 1 0, .ldv true 3 2 1 0, .ldg 3 true false 3 2 5 1 3,
      .ldg 0 false true 3 2 5 1 3, .lda 3 true 3 2 7 1, .st 3 false 3 2 8, .st 0 true 3 2 0, .stv false 3 2 0, .stv true 3 2 0,
      .stg 3 false 3 2 5 3, .stg 2 true 3 2 5 3, .stl 3 3 2 7].all
      (completes (withRegs live [(2, 0x4000), (5, 8), (7, 0x1D1D0000)]))) = true :=
  ⟨live_unread.1, live_unread.2.2, by decide⟩

/-- An instruction's bits as the opcode table numbers them, and how many there are. -/
noncomputable def wordOf (i : Instr) : Nat × Nat :=
  match encode i with
  | some c => (16 + 16 * tailLen c.head, c.head.toNat * 2 ^ (16 * tailLen c.head) + c.tail.toNat)
  | none => (0, 0)

/-- The machine after reset at an instruction. -/
noncomputable def placed (i : Instr) : State := State.reset.withFetchWord (wordOf i).1 (wordOf i).2

/-- Is the turn of a slot one for its head, as `StepRunsTheDecodedInstruction` asks, and what does the head answer? -/
noncomputable def runs (s : State) (i : Fin 16) (ends : Issued → Bool) : Bool :=
  let x := s.slot i
  let e := s.serveEngine
  (popDue s.clk s.clkAgenda).isNone && !s.replayOver && !s.tile.frozen && s.recordDue.isNone && s.notchFirst.isNone &&
  (s.popInput s.inputs).isNone && (popDue s.tile.cycle s.agenda).isNone && e.picked == some i && decide (x.st = .ready) && !x.bucker &&
  s.wpValid x.wp.toNat && (s.bankCheck x.wp.toNat 768).isNone && (s.endedWindows i).isEmpty && x.deferred.isEmpty && swSKIP x.sw == 0 &&
  !s.upsets.contains s.tile.cycle &&
  match ((e.takeTurn i).beginTurn i).fetchHead i x.pc with
  | .head h u =>
    let after := foldHead x.fold h.head
    let sig := if blockEnding h.head then some (sigOf h.head h.tail) else bodyEndSig x.loops h.pc
    !h.head.getLsbD 15 && (sig.isNone || sig == some after) &&
    (match effective x.loops h with
    | (.ok instr, n) =>
      match exec instr (u.prepare i h.pc h false h.next (loopUpdate x.loops h.pc h.next).2 (if x.ends then 0x5A else after)
          (if sig.isSome || x.ends then 0x5A else after) x.emulate n) with
      | .next v => ends v.issue.result
      | _ => false
    | _ => false)
  | _ => false

/-- A head that completes, one that ends its block, one that traps, one that forfeits its turn; a line in the slice that holds the
head at PC. -/
theorem meets_StepRunsTheDecodedInstruction :
    runs (placed (.add 3 2 5)) 0 (· == .done) = true ∧ runs (placed (.jmp 0x77 0x10002)) 0 (· == .done) = true ∧
    runs (placed (.jmp 0x77 2)) 0 (fun r => match r with | .trapped .. => true | _ => false) = true ∧
    runs (placed (.ld 3 false false 3 2 0 1)) 0 (fun r => match r with | .trapped .. => true | _ => false) = true ∧
    (let s := withRegs (placed (.ld 3 false false 3 2 0 0)) [(2, 0x100000)]
     runs { s with core := { s.core with bankpm := 4 } } 0 (· == .forfeited)) = true ∧
    (let s := placed (.add 3 2 5)
     let pc : BitVec 22 := 0x10002
     (s.slot 0).loops = [] ∧ (s.slot 0).line = none ∧ pc.getLsbD 0 = false ∧ pc.toNat < s.rim.visibleTop ∧ s.bankCheck 0x10000 64 = none ∧
     s.poisoned (s.key 0x10000) 64 = false ∧ ∃ hs h, lineHeads 0x10000 (lineAt s.rdMem (s.key 0x10000)) = some hs ∧
       hs.find? (fun g => g.pc == pc) = some h) := by
  refine ⟨by decide, by decide, by decide, by decide, by decide, by decide, by decide, by decide, by decide, by decide, by decide, _, _, rfl,
    rfl⟩

theorem meets_DecodeInvertsEncode :
    Instr.wf (.add 3 2 5) = true ∧ encode (.add 3 2 5) = some ⟨0x2080, 0x188A⟩ ∧ (0x188A : BitVec 64).toNat < 2 ^ (16 * tailLen 0x2080) ∧
    (0x2948 : BitVec 64).toNat < 2 ^ (16 * tailLen 0xA080) ∧ decode ⟨0xA080, 0x2948⟩ = .ok (.add 5 5 4) := by
  decide

/-- Reset, and a state whose memory lists bytes. -/
theorem meets_EveryStepKeepsMemoryCanonical :
    State.reset.MemoryCanonical ∧ (placed (.add 3 2 5)).MemoryCanonical ∧
    (match step State.reset with | .next _ => true | _ => false) = true ∧
    (match step (placed (.add 3 2 5)) with | .next _ => true | _ => false) = true :=
  ⟨by unfold MemoryCanonical; decide, by unfold MemoryCanonical; decide, by decide, by decide⟩

/-! Single operations and single steps whose results the manual writes out, or that follow from its rules by hand. -/

/-- 03 R83: the fold of the block from `sum` to `BRC.NE`. -/
theorem test_fold_of_the_worked_line :
    ([0x4868, 0x2080, 0x4180, 0x4304, 0x4389].foldl foldHead 0x5A : Byte) = 0xC0 := by decide

/-- 03 R83: the halfwords of the worked line. -/
def workedLine : List (BitVec 16) :=
  [0x2800, 0x4868, 0x2080, 0x4180, 0x4304, 0x4389] ++ List.replicate 17 0 ++
    [0xFFF8, 0xC03F, 0x0000, 0x00C0, 0xFFFF, 0x18FF, 0x2948, 0x0000, 0x2080]

theorem test_heads_of_the_worked_line :
    (lineHeads 0x1000 workedLine).map (List.map fun h => (h.pc, h.head, h.tail)) =
      some [(0x1002, 0x4868, 0x20800000), (0x1004, 0x2080, 0x2948), (0x1006, 0x4180, 0x18FFFFFF), (0x1008, 0x4304, 0x00C00000),
        (0x100A, 0x4389, 0xC03FFFF8)] := by decide

/-- 03 R67: a line whose free halfwords are not zero, and one of no heads. -/
theorem test_line_checks : lineHeads 0x1000 (workedLine.set 10 1) = none ∧ lineHeads 0x1000 (workedLine.set 0 0) = none := by decide

/-- 02 R49: the worked block, and its 32 elements. -/
theorem test_xpk_worked_block :
    xpkDecode [0x4C, 0xAA, 0xBD, 0x55, 0x55, 0x55, 0x51, 0x55, 0x55, 0x40, 0x20, 0, 0, 0, 0, 0x80, 1, 0, 0, 0, 0, 0, 0, 0, 0, 0] =
      .ok [0x38, 0x40, 0x38, 0x40, 0x38, 0xD3, 0x38, 0x40, 0x38, 0x40, 0x38, 0x40, 0x38, 0x40, 0x38, 0x40, 0x38, 0x40, 0x38, 0x40, 0x30, 0x40,
        0x38, 0x40, 0x38, 0x40, 0x38, 0x40, 0x38, 0x40, 0x38, 0x40] 26 := by decide

/-- 02 R62: a window after 1.0, 2^−298 and −1.0, and what `RDWIN` delivers of it as FP64 and FP32 to nearest even. -/
def workedWindow : List Byte :=
  [Val.fin false 1 0, .fin false 1 (-298), .fin true 1 0].foldl addToWindow (List.replicate 88 0)

theorem test_window_example :
    leNat (workedWindow.take 8) = 2 ^ 22 ∧ (workedWindow.drop 8).all (· == 0) = true ∧
    (readWindow 15 ⟨0, false, 0⟩ workedWindow).1 = 0x2D50000000000000 ∧ readWindow 8 ⟨0, false, 0⟩ workedWindow = (0, fU ||| fX) := by
  decide

/-- 08 R190: from site column 3 to site column 10 of a row, and back. -/
theorem test_round_trip_example :
    (let t := { live.tile with keyring := [(0, ⟨.absent, 0, false, 5, 3⟩), (1, ⟨.absent, 0, false, 5, 10⟩)] }
     let s := { live with tile := t }
     s.leg 0 1 + s.leg 1 0) = 42 := by decide

/-- 22 R512: the header of the record of message SEQ 0 at cycle 61. -/
theorem test_log_header_example :
    ((({ live with tile := { live.tile with cycle := 61 } }).record 1 0 0 (List.replicate 9 0) none).tile.notch.log.map LogRec.hdr)
      = [0x040009000000003D] := by decide

/-- A register of slot 0 after an instruction. -/
def reg (s : State) (i : Instr) (r : Nat) : Option Word :=
  match exec i s with
  | .next t => some (.ofNat 64 (natAt t.mem (t.wKey 0 r) 8))
  | _ => none

/-- `sw` of slot 0 after an instruction. -/
def swAfter (s : State) (i : Instr) : Option Word :=
  match exec i s with
  | .next t => some (t.slot 0).sw
  | _ => none

def vecReg (s : State) (i : Instr) (r : Nat) : Option Nat :=
  match exec i s with
  | .next t => some (natAt t.mem (t.vKey 0 r) 32)
  | _ => none

/-- 04 R112, step 7. -/
theorem test_add_of_the_worked_loop : reg (withRegs live [(10, 7), (11, 8)]) (.add 10 10 11) 10 = some 15 := by decide

/-- 04 R94, R103: a sum that wraps to the least negative number sets N and V; one that wraps to zero sets Z and C. -/
theorem test_add_flags :
    swAfter (withRegs live [(2, 2 ^ 63 - 1), (5, 1)]) (.add 3 2 5) = some 0xFF09 ∧
    swAfter (withRegs live [(2, 2 ^ 64 - 1), (5, 1)]) (.add 3 2 5) = some 0xFF06 := by decide

theorem test_mulh_signed_and_unsigned :
    reg (withRegs live [(2, 2 ^ 64 - 1), (5, 2)]) (.mulh 3 2 5) 3 = some 0xFFFFFFFFFFFFFFFF ∧
    reg (withRegs live [(2, 2 ^ 64 - 1), (5, 2)]) (.mulhn 3 2 5) 3 = some 1 := by decide

/-- 14: 28 + 64 = 92 as FP32. -/
theorem test_fadd : reg (withRegs live [(2, 0x41E00000), (5, 0x42800000)]) (.fadd 0 3 2 5) 3 = some 0x42B80000 := by decide

/-- 05 R128, R129: a compare that all elements fail, then a select with the mask it left, leave the minimum. -/
theorem test_vsel_takes_b_where_the_mask_is_clear :
    (let s := live.setV 0 2 (.ofNat 256 0xFFFFFFFF) (.allOnes 256)
     let s := s.setV 0 5 (.ofNat 256 (0x3F800000 + 0x41000000 * 2 ^ 32)) (.allOnes 256)
     let s := s.setV 0 6 (.ofNat 256 (0x40000000 + 0x40800000 * 2 ^ 32)) (.allOnes 256)
     vecReg s (.vsel 2 5 6) 2) = some (0x3F800000 + 0x40800000 * 2 ^ 32) := by decide

/-- 06 R162: at JO = 2, the minimum of (1, 3, 0) and (1, −2, 5) is (1, −2, 5). -/
theorem test_vmin_of_jets :
    (let s := atOrder 2
     let s := s.setV 0 8 (.ofNat 256 (0x3F800000 + 0x40400000 * 2 ^ 32)) (.allOnes 256)
     let s := s.setV 0 5 (.ofNat 256 (0x3F800000 + 0xC0000000 * 2 ^ 32 + 0x40A00000 * 2 ^ 64)) (.allOnes 256)
     (vecReg s (.vmin 0 12 8 5) 12).map (· % 2 ^ 96)) = some (0x3F800000 + 0xC0000000 * 2 ^ 32 + 0x40A00000 * 2 ^ 64) := by decide

/-- 08 R188, R195: a store of two bytes and a signed load of them. -/
theorem test_store_is_little_endian :
    (match exec (.st 1 false 3 2 8) (withRegs live [(2, 0x4000), (3, 0x1234)]) with
     | .next t => natAt t.mem (t.key 0x4008) 1 == 0x34 && natAt t.mem (t.key 0x4009) 1 == 0x12
     | _ => false) = true := by decide

/-- 00 R2: the saplings of a wafer of grade A and of grade B. -/
theorem test_saplings_of_the_grades : (spareSites false).length = 124 ∧ (spareSites true).length = 174 := by decide

/-- 08 R195, 01 R30: a store whose address register lies among the bytes stored leaves the data there. -/
theorem test_store_wins_over_its_post_increment :
    reg (withRegs live [(2, 0x1010), (3, 0x1234)]) (.st 3 true 3 2 0) 2 = some 0x1234 := by decide

/-- 03 R69: a transfer to a target without a head raises BAD_TARGET itself, and a link register is not written. -/
theorem test_call_of_no_head_traps :
    (match exec (.call 0 0x3000) live with
     | .next t => decide (t.issue.result = .trapped ⟨cTARGET, 0, 0⟩ false false) && natAt t.mem (t.wKey 0 29) 8 == 0
     | _ => false) = true := by decide

/-- 02 R38, R59: a scaled conversion of an integer that does not fit saturates and sets no flag. -/
theorem test_scaled_integers_set_no_flag :
    (cvtElem 1 0 false (live.rnd 0) (scaleOf 0x3F800000) 300).map (fun r => (r.1, r.2.toNat)) = some (127, 0) := by decide

/-- 07 R179: a `TRAP` resumes at the head after it. -/
theorem test_trap_resumes_after_itself :
    (match exec (.trap 0x1C5) live with
     | .next t => decide (t.issue.result = .trapped ⟨0x1C5, 0, 0⟩ true false) && decide ((t.slot 0).st = .trapped) && (t.slot 0).pc == 0x2004
     | _ => false) = true := by decide

/-- A step after reset runs the head that is placed, and leaves PC at the line that follows. -/
theorem test_step_runs_li :
    (match step (placed (.li 3 0x3FFFFF)) with
     | .next t => natAt t.mem (t.wKey 0 3) 8 == 2 ^ 64 - 1 && (t.slot 0).pc == 0x10042 && t.tile.cycle == 1
     | _ => false) = true := by decide

/-- 01 R19: a head takes one turn, and the strand's next is not due before eight cycles have passed. -/
theorem test_step_takes_the_turn :
    (match step (placed .nop) with
     | .next t => t.core.rot == 0 && decide ((t.slot 0).lastTurn = some 0) && t.picked.isNone
     | _ => false) = true := by decide

end Sys2Proof.Tests
end

section
/-! SUPPORT. Proofs of the privilege checks: a privileged write on an unprivileged strand, and `RETT` outside a handler. -/

namespace Sys2Proof.Proofs

open Sys2Proof Sys2Proof.Machine Sys2Proof.Machine.State

/-- 03 R77: legal operands let the decode checks come to the mode, and an unprivileged strand fails it there, whatever its
ports hold. -/
theorem issueHead_of_unprivileged {s : State} {os : List Opd} (hl : LegalOperands os) (hp : s.me.priv = false)
    (k : State → Result) : s.issueHead os [] true k = s.raiseDecode cPRIVILEGE := by
  obtain ⟨hill, hpar⟩ := hl
  simp [issueHead, hill, hpar, hp]

theorem writes_of_unprivileged {s : State} {a : Reg} (hl : LegalOperands [.src a]) (hp : s.me.priv = false)
    (k : State → Word → State → Result) : s.writes a true true k = s.raiseDecode cPRIVILEGE :=
  issueHead_of_unprivileged hl hp _

/-- The numbers that the statement lists are those with a PRV field (04 R120). -/
theorem sysPrivileged_of_listed {n : BitVec 12} (h : n ∈ [0x010, 0x011, 0x040, 0x041, 0x060, 0x063, 0x140, 0x141, 0x210, 0x220]
    ∨ (0x080 ≤ n.toNat ∧ n.toNat < 0x090)) : sysPrivileged n.toNat = true := by
  rcases h with hlist | ⟨hlo, hhi⟩
  · simp only [List.mem_cons, List.not_mem_nil, or_false] at hlist
    rcases hlist with rfl | rfl | rfl | rfl | rfl | rfl | rfl | rfl | rfl | rfl <;> rfl
  · simp [sysPrivileged, hlo, hhi]

/-- Every register with a PRV field is one that a chapter assigns (04 R120). -/
theorem isSome_sysValue_of_sysPrivileged {n : Nat} (h : sysPrivileged n = true) (s : State) : (s.sysValue n).isSome = true := by
  simp only [sysPrivileged, Bool.or_eq_true, List.contains_iff_mem, Bool.and_eq_true, decide_eq_true_eq] at h
  rcases h with hlist | hvector
  · simp only [List.mem_cons, List.not_mem_nil, or_false] at hlist
    rcases hlist with rfl | rfl | rfl | rfl | rfl | rfl | rfl | rfl | rfl | rfl <;> rfl
  · unfold sysValue
    split <;> simp [hvector]

theorem exec_swr_of_unprivileged {s : State} {a : Reg} {n : BitVec 12} (hn : sysPrivileged n.toNat = true)
    (hl : LegalOperands [.src a]) (hp : s.me.priv = false) : exec (.swr a n) s = s.raiseDecode cPRIVILEGE := by
  rw [exec_swr, execSwr, hn, isSome_sysValue_of_sysPrivileged hn, writes_of_unprivileged hl hp]

theorem exec_rett_of_no_handler {s : State} {a : Reg} (sig : Byte) (hh : s.me.handler = none) (hi : s.Issues [.src a]) :
    exec (.rett sig a) s = s.raise cNOTHANDLER := by
  rw [exec_rett, execRett, issueHead_of_issues hi _ rfl (by simp) rfl]
  simp [hh]

/-- Settles O10: the check of the mode stands before a write's own effect, and `RETT` looks for its handler first. -/
theorem privilegeAndHandlerTraps : Obligations.PrivilegeAndHandlerTraps := by
  unfold Obligations.PrivilegeAndHandlerTraps
  refine ⟨fun s a hp hl => ⟨fun n hn => ?_, ?_, ?_, ?_⟩, fun s a sig hh hi => exec_rett_of_no_handler sig hh hi⟩
  · exact exec_swr_of_unprivileged (sysPrivileged_of_listed hn) hl hp
  · rw [exec_bankpmWrite, execBankpmWrite, writes_of_unprivileged hl hp]
  · rw [exec_nivWrite, execNivWrite, writes_of_unprivileged hl hp]
  · rw [exec_ptrootWrite, execPtrootWrite, writes_of_unprivileged hl hp]

end Sys2Proof.Proofs
end

section
/-! SUPPORT. Proofs of the scalar floating heads: what each shape of head does once it issues on operands that do not trap. -/

namespace Sys2Proof.Proofs

open Sys2Proof Sys2Proof.Machine Sys2Proof.Machine.State

/-- 02 R50; 04 R113. A value is rounded once to the format and written, and its flags join those of its formation. -/
def roundedInto (s : State) (c : Nat) (d : Reg) (t : State) (r : Val × FFlags) (f : FFlags) : Result :=
  .next ((t.writeW d (w64 (roundF c (s.rnd 0) r.1).1)).orSw (swFlags (f ||| r.2 ||| (roundF c (s.rnd 0) r.1).2)))

/-- The wafer has the scalar formats FP32, FP16 and BF16 (04 R95). -/
theorem accepts_scalarFmt (s : State) {fmt : BitVec 3} (hf : fmt.toNat ≤ 2) : s.Accepts (scalarFmt (fmt3 fmt)) = true := by
  have h : 8 ≤ fmt3 fmt ∧ fmt3 fmt ≤ 10 := by unfold fmt3; omega
  simp [Accepts, scalarFmt, h]

theorem read2_eq {s t : State} {a b : Reg} {x y : Word} (h : s.read2 a b = (x, y, t)) :
    (s.readW a).1 = x ∧ ((s.readW a).2.readW b) = (y, t) := by
  simp only [read2, Prod.mk.injEq] at h
  obtain ⟨hx, hy, ht⟩ := h
  exact ⟨hx, Prod.ext hy ht⟩

section
/-! The hypotheses that the heads share: a format of the wafer, and an operand a that does not trap (02 R57). -/

variable {s t : State} {fmt : BitVec 3} {d a b : Reg} {x y : Word} {u v : Val} {fu fv : FFlags} (hf : fmt.toNat ≤ 2)
  (hu : operandF (fmt3 fmt) (swSUB s.rdSw) x.toNat = some (u, fu))
include hf hu

/-- 04 R113. A head of two operands that do not trap: what it forms of them is rounded into d. -/
theorem fop2_of_operands (hv : operandF (fmt3 fmt) (swSUB s.rdSw) y.toNat = some (v, fv)) (hr : s.read2 a b = (x, y, t))
    {rounded : Bool} (hi : s.Issues ([.dst d, .src a, .src b] ++ if rounded then drawOpd s.rdSw else []))
    (f : Nat → Val → Val → Val × FFlags) :
    s.fop2 (fmt3 fmt) d a b f rounded = roundedInto s (fmt3 fmt) d t (f (swRM s.rdSw) u v) (fu ||| fv) := by
  obtain ⟨hx, hy⟩ := read2_eq hr
  rw [fop2, issueHead_of_issues hi _ (accepts_scalarFmt s hf) (by simp) rfl]
  simp only [hx, hy, hu, hv, roundedInto]

/-- 04 R113. The third operand is d itself. -/
theorem execFfma_of_operands (hv : operandF (fmt3 fmt) (swSUB s.rdSw) y.toNat = some (v, fv)) (hr : s.read2 a b = (x, y, t))
    (hi : s.Issues ([.acc d, .src a, .src b] ++ drawOpd s.rdSw)) {z : Val} {fz : FFlags}
    (hz : operandF (fmt3 fmt) (swSUB s.rdSw) (s.regW d.toNat).toNat = some (z, fz)) :
    execFfma fmt d a b s = roundedInto s (fmt3 fmt) d t (Val.fma (swRM s.rdSw) u v z) (fu ||| fv ||| fz) := by
  obtain ⟨hx, hy⟩ := read2_eq hr
  rw [execFfma, issueHead_of_issues hi _ (accepts_scalarFmt s hf) (by simp) rfl]
  simp only [hx, hy, hu, hv, hz, roundedInto]

/-- 04 R114. A choice is written exactly, and raises what flushing its operand does. -/
theorem fop1_of_operand (hr : s.readW a = (x, t)) (hi : s.Issues [.dst d, .src a]) (f : Val → Val) :
    s.fop1 (fmt3 fmt) d a f = .next ((t.writeW d (w64 (exactly (fmt3 fmt) (f u)))).orSw (swFlags fu)) := by
  rw [fop1, issueHead_of_issues hi _ (accepts_scalarFmt s hf) (by simp) rfl]
  simp only [hr, hu]

end

/-- 04 R114. The class of a code, a subnormal one too, is written without a flag. -/
theorem execFclass_of_issues {s t : State} {fmt : BitVec 3} {d a : Reg} {x : Word} (hf : fmt.toNat ≤ 2) (hr : s.readW a = (x, t))
    (hi : s.Issues [.dst d, .src a]) : execFclass fmt d a s = .next (t.writeW d (w64 (2 ^ classBit (fmt3 fmt) x.toNat))) := by
  rw [execFclass, issueHead_of_issues hi _ (accepts_scalarFmt s hf) (by simp) rfl]
  simp only [hr]

/-- Settles O6: each head is one of four shapes (two operands rounded, three operands, one operand chosen, `FCLASS`), and every
shape comes to its own effect because the head issues and the wafer has its format. -/
theorem scalarFloatResults : Obligations.ScalarFloatResults := by
  unfold Obligations.ScalarFloatResults
  intro s t fmt d a b x y u v fu fv hf c m sub rounded chosen hu
  refine ⟨fun hv hr => ⟨fun hi => ⟨?_, ?_, ?_⟩, fun hi => ⟨?_, ?_⟩, fun hi z fz hz => ?_⟩, fun hr hi => ⟨?_, ?_, ?_⟩⟩
  · exact fop2_of_operands hf hu hv hr (rounded := true) hi Val.add
  · exact fop2_of_operands hf hu hv hr (rounded := true) hi fun m x y => Val.add m x y.neg
  · exact fop2_of_operands hf hu hv hr (rounded := true) hi fun _ x y => Val.mul x y
  · exact fop2_of_operands hf hu hv hr (rounded := false) hi fun _ x y => (Val.pickMin false x y, 0)
  · exact fop2_of_operands hf hu hv hr (rounded := false) hi fun _ x y => (Val.pickMin true x y, 0)
  · exact execFfma_of_operands hf hu hv hr hi hz
  · exact fop1_of_operand hf hu hr hi Val.abs
  · exact fop1_of_operand hf hu hr hi Val.neg
  · exact execFclass_of_issues hf hr hi

end Sys2Proof.Proofs
end

section
/-! SUPPORT. What the shared operations leave alone: a write with the aborts that it causes, the end of a delta operation, a record of
the log, the moving of a payload, and a write of device memory. -/

namespace Sys2Proof.Proofs

open Sys2Proof Sys2Proof.Machine Sys2Proof.Machine.State

/-! ## What a write leaves alone -/

/-- What a write leaves alone, whatever it aborts: the rim, the cached leaves, the number that the spill engine gives next, and
the slot of the writer (09 R234, R237). -/
structure WriteLeaves (w : Option (Fin 16)) (s t : State) : Prop where
  rim : t.rim = s.rim
  tlb : t.tile.tlb = s.tile.tlb
  nextSpill : t.core.nextSpill = s.core.nextSpill
  slot : ∀ i, some i = w → t.slot i = s.slot i

namespace WriteLeaves
variable {w : Option (Fin 16)} {s t u : State}

theorem refl (w : Option (Fin 16)) (s : State) : WriteLeaves w s s := ⟨rfl, rfl, rfl, fun _ _ => rfl⟩

theorem trans (h : WriteLeaves w s t) (h' : WriteLeaves w t u) : WriteLeaves w s u :=
  ⟨h'.rim.trans h.rim, h'.tlb.trans h.tlb, h'.nextSpill.trans h.nextSpill, fun i hi => (h'.slot i hi).trans (h.slot i hi)⟩

/-- A fold leaves alone what each of its steps does. -/
theorem foldl {α : Type} {f : State → α → State} (h : ∀ s a, WriteLeaves w s (f s a)) (l : List α) (s : State) :
    WriteLeaves w s (l.foldl f s) :=
  List.foldlRecOn l f (refl w s) fun _ hb a _ => hb.trans (h _ a)

end WriteLeaves

section
variable (w : Option (Fin 16)) (s : State)

theorem writeLeaves_workspaceAgain (t : Task) : WriteLeaves w s (s.workspaceAgain t) := ⟨rfl, rfl, rfl, fun _ _ => rfl⟩

theorem writeLeaves_touchLine (l : Nat) : WriteLeaves w s (s.touchLine l) := by
  obtain ⟨n, hn⟩ := s.touchLine_eq l
  rw [hn]
  exact ⟨rfl, rfl, rfl, fun _ _ => rfl⟩

theorem writeLeaves_touchRange (k n : Nat) : WriteLeaves w s (s.touchRange k n) :=
  .foldl (fun s _ => writeLeaves_touchLine w s _) _ _

theorem writeLeaves_beginAgain {i : Fin 16} (h : some i ≠ w) (t : Task) : WriteLeaves w s (s.beginAgain i t) :=
  ⟨rfl, rfl, rfl, fun j hj => s.slot_setSlot_of_ne (fun e => h (by rw [e, hj])) _⟩

theorem writeLeaves_abortTask {i : Fin 16} (h : some i ≠ w) : WriteLeaves w s (s.abortTask i) := by
  unfold abortTask
  split
  · exact .refl w s
  · next t _ =>
    exact (writeLeaves_beginAgain w s h t).trans ((writeLeaves_touchRange w _ _ _).trans (writeLeaves_workspaceAgain w _ t))

/-- 09 R234. Only speculative readers other than the writer abort. -/
theorem writeLeaves_conflict (l : Nat) : WriteLeaves w s (s.conflict w l) := by
  refine .foldl (fun s i => ?_) allSlots s
  cases s.speculative i with
  | none => exact .refl w s
  | some t =>
    dsimp only
    split
    · exact .refl w s
    · next hn =>
      have hi : some i ≠ w := fun e => hn (by simp [e])
      split
      · split
        · exact writeLeaves_abortTask w s hi
        · exact .refl w s
      · exact writeLeaves_abortTask w s hi

theorem writeLeaves_write (k : Nat) (data : List Byte) (p : Bool) : WriteLeaves w s (s.write w k data p) := by
  obtain ⟨hrim, htlb, hspill, hslot⟩ := WriteLeaves.foldl (w := w) (f := fun s l => (s.touchLine l).conflict w l)
    (fun s l => (writeLeaves_touchLine w s l).trans (writeLeaves_conflict w _ l))
    (if data.isEmpty then [] else (List.range ((k + data.length - 1) / 64 + 1 - k / 64)).map (k / 64 + ·)) s
  exact ⟨hrim, htlb, hspill, hslot⟩

end

theorem writeLeaves_freeBytes (w : Option (Fin 16)) (s : State) (n : Nat) : WriteLeaves w s (s.freeBytes n).2 :=
  ⟨rfl, rfl, rfl, fun _ _ => rfl⟩

theorem writeLeaves_ruin (s : State) (spans : List (Nat × Nat)) : WriteLeaves none s (s.ruin spans) :=
  .foldl (fun s (k, n) => (writeLeaves_freeBytes none s n).trans (writeLeaves_write none (s.freeBytes n).2 k (s.freeBytes n).1 false))
    spans s

/-- The end of a delta operation changes neither the rim nor the cached leaves, even where its arrangement becomes undefined. -/
theorem writeLeaves_endEngineOp (s : State) (tag : Nat) : WriteLeaves none s (s.endEngineOp tag) := by
  unfold endEngineOp
  split
  · exact .refl none s
  · extract_lets _ t
    have ht : WriteLeaves none s t := ⟨rfl, rfl, rfl, fun _ _ => rfl⟩
    split
    · exact ht
    · exact ht.trans (writeLeaves_ruin t _)

/-! ## The skid log -/

/-- A record of the log changes the notch machine and the agenda (19 R444). -/
theorem logged_leaves (s : State) (kind core slot : Nat) (words : List Word) (ev : Instr) :
    (s.logged kind core slot words ev).core = s.core ∧ (s.logged kind core slot words ev).mem = s.mem ∧
    (s.logged kind core slot words ev).tile.tlb = s.tile.tlb ∧ (s.logged kind core slot words ev).tile.ranges = s.tile.ranges := by
  unfold logged record
  split
  · exact ⟨rfl, rfl, rfl, rfl⟩
  · exact ⟨rfl, rfl, rfl, rfl⟩

/-! ## What moving a payload leaves of its strand -/

/-- The strand of a slot goes on where it stood, and the spill engine gives the same number next. -/
structure KeepsStrand (i : Fin 16) (s t : State) : Prop where
  pc : (t.slot i).pc = (s.slot i).pc
  sw : (t.slot i).sw = (s.slot i).sw
  nextSpill : t.core.nextSpill = s.core.nextSpill

namespace KeepsStrand
variable {i : Fin 16} {s t u : State}

theorem refl (i : Fin 16) (s : State) : KeepsStrand i s s := ⟨rfl, rfl, rfl⟩

theorem trans (h : KeepsStrand i s t) (h' : KeepsStrand i t u) : KeepsStrand i s u :=
  ⟨h'.pc.trans h.pc, h'.sw.trans h.sw, h'.nextSpill.trans h.nextSpill⟩

/-- A step that leaves the core alone. -/
theorem of_core_eq (h : t.core = s.core) : KeepsStrand i s t := by
  have hs : t.slot i = s.slot i := by rw [slot, slot, h]
  exact ⟨by rw [hs], by rw [hs], by rw [h]⟩

theorem foldl {α : Type} {f : State → α → State} (h : ∀ s a, KeepsStrand i s (f s a)) (l : List α) (s : State) :
    KeepsStrand i s (l.foldl f s) :=
  List.foldlRecOn l f (refl i s) fun _ hb a _ => hb.trans (h _ a)

end KeepsStrand

section
variable (i : Fin 16) (s : State)

/-- A change of some slot that keeps the slot's own PC and `sw`. -/
theorem keepsStrand_modSlot (j : Fin 16) {f : Slot → Slot} (hpc : ∀ x, (f x).pc = x.pc) (hsw : ∀ x, (f x).sw = x.sw) :
    KeepsStrand i s (s.modSlot j f) := by
  by_cases h : j = i
  · subst h
    exact ⟨by simp [hpc], by simp [hsw], rfl⟩
  · have hs := s.slot_modSlot_of_ne h f
    exact ⟨by rw [hs], by rw [hs], rfl⟩

theorem keepsStrand_write (k : Nat) (data : List Byte) (p : Bool) : KeepsStrand i s (s.write (some i) k data p) := by
  obtain ⟨-, -, hspill, hslot⟩ := writeLeaves_write (some i) s k data p
  exact ⟨by rw [hslot i rfl], by rw [hslot i rfl], hspill⟩

theorem keepsStrand_growPush (j : Fin 16) (k n : Nat) : KeepsStrand i s (s.growPush j k n) := by
  unfold growPush
  exact keepsStrand_modSlot i s j (fun _ => rfl) fun _ => rfl

theorem core_release (n : Nat) (e : Instr) : (s.release n e).core = s.core := by
  unfold release
  simp only
  split <;> rfl

theorem core_launchPacket (id : Nat) (p : Packet) : (s.launchPacket id p).core = s.core := by
  unfold launchPacket
  simp only [core_after]
  split
  · split <;> exact core_release ..
  · rfl

theorem keepsStrand_dropHeld (h : HoldEntry) (detail : BitVec 32) : KeepsStrand i s (s.dropHeld h detail) := by
  unfold dropHeld
  extract_lets _ t u j
  have hu : KeepsStrand i s u := ⟨rfl, rfl, rfl⟩
  split
  · exact hu.trans (keepsStrand_modSlot i u j (fun _ => rfl) fun _ => rfl)
  · exact hu

theorem keepsStrand_sendHeld (h : HoldEntry) : KeepsStrand i s (s.sendHeld h) := by
  unfold sendHeld
  split
  · exact .of_core_eq (core_launchPacket ..)
  · exact .of_core_eq rfl
  · exact .of_core_eq rfl
  · exact keepsStrand_dropHeld i s h 0

theorem keepsStrand_drain (ltn : Nat) : KeepsStrand i s (s.drain ltn) := by
  unfold drain
  generalize s.tile.hold = hs
  induction hs generalizing s with
  | nil => exact .refl i s
  | cons h hs ih =>
    unfold drain.go
    split
    · exact ih s
    · split
      · exact ih s
      · exact .refl i s
      · split
        · exact ih s
        · exact .refl i s
      · split
        · exact .refl i s
        · exact (keepsStrand_sendHeld i s h).trans (ih _)

theorem keepsStrand_sendPacket (ltn core : Nat) (b : Body) (strand : Nat) (poison : BitVec 64) (later : Bool) :
    KeepsStrand i s (s.sendPacket ltn core b strand poison later) := by
  unfold sendPacket
  extract_lets seq body p id held _ t
  have ht : KeepsStrand i s t := .of_core_eq rfl
  split
  · exact ht
  · exact ht.trans (keepsStrand_sendHeld i t _)

theorem keepsStrand_finishPush (j : Fin 16) : KeepsStrand i s (s.finishPush j) := by
  unfold finishPush
  split
  · exact .refl i s
  · next p ps _ =>
    extract_lets t rs ds _ u
    have ht : KeepsStrand i s t := keepsStrand_modSlot i s j (fun _ => rfl) fun _ => rfl
    split
    · exact ht.trans (keepsStrand_modSlot i t j (fun _ => rfl) fun _ => rfl)
    · have hu : KeepsStrand i { t with issue := { t.issue with slot := j } } u :=
        .foldl (fun s n => keepsStrand_sendPacket i s p.ltn p.core (.delta (.ofNat 4 p.q) ((ds.drop (16 * n)).take 16))
          (s.slot j).strand 0 false) (List.range ((ds.length + 15) / 16)) _
      have hi : KeepsStrand i t { u with issue := t.issue } := ⟨hu.pc, hu.sw, hu.nextSpill⟩
      exact ht.trans hi

/-- 12 R305, R306; 13 R327. A line of payload that is moved may write memory, fill a packet or send some; the strand goes on. -/
theorem keepsStrand_movePayload : KeepsStrand i s (s.movePayload i) := by
  unfold movePayload
  split
  · exact .refl i s
  · next l ls _ =>
    extract_lets t k r u ws
    have ht : KeepsStrand i s t := keepsStrand_modSlot i s i (fun _ => rfl) fun _ => rfl
    split
    · exact ht.trans (keepsStrand_write i t k _ _)
    · have hr : KeepsStrand i s r := ht.trans ⟨rfl, rfl, rfl⟩
      split
      · have hu : KeepsStrand i s u := hr.trans (keepsStrand_growPush i r i k _)
        split
        · exact hu.trans (keepsStrand_finishPush i u i)
        · exact hu
      · extract_lets v
        have hv : KeepsStrand i s v := hr.trans (.of_core_eq rfl)
        split
        · split
          · exact hv.trans (keepsStrand_drain i v _)
          · exact hv
        · exact hv

theorem keepsStrand_movePayloads (n : Nat) : KeepsStrand i s (s.movePayloads i n) := by
  induction n generalizing s with
  | zero => exact .refl i s
  | succ n ih =>
    unfold movePayloads
    split
    · exact .refl i s
    · exact (keepsStrand_movePayload i s).trans (ih _)

end

/-! ## Device memory -/

/-- What merging a write into the rim cache leaves alone: everything but the cache's sectors (08 R215, R217). -/
def OnlyRows (s t : State) : Prop := ∃ r c, t = { s with rim := { s.rim with rows := r, columns := c } }

theorem OnlyRows.trans {s t u : State} (h : OnlyRows s t) (h' : OnlyRows t u) : OnlyRows s u := by
  obtain ⟨r, c, rfl⟩ := h
  obtain ⟨r', c', rfl⟩ := h'
  exact ⟨r', c', rfl⟩

theorem onlyRows_makeRoom (s : State) (b : Nat) : OnlyRows s (s.makeRoom b) := by
  unfold makeRoom
  split
  · exact ⟨_, _, rfl⟩
  · extract_lets here rows cols
    split
    · exact ⟨_, _, rfl⟩
    · cases cols <;> exact ⟨_, _, rfl⟩

theorem onlyRows_modRow (s : State) (b : Nat) (f : RowSector → RowSector) : OnlyRows s (s.modRow b f) := by
  unfold modRow
  extract_lets t
  have ht : OnlyRows s t := by
    unfold t
    split
    · exact ⟨_, _, rfl⟩
    · exact onlyRows_makeRoom s b
  exact ht.trans ⟨_, _, rfl⟩

theorem onlyRows_dirtyLine (s : State) (line lo hi : Nat) : OnlyRows s (s.dirtyLine line lo hi) := by
  unfold dirtyLine
  exact onlyRows_modRow ..

theorem onlyRows_touchRows (s : State) (dpa n : Nat) : OnlyRows s (s.touchRows dpa n) := by
  unfold touchRows
  split
  · exact ⟨_, _, rfl⟩
  · extract_lets _ t
    have ht : OnlyRows s t := ⟨_, _, rfl⟩
    exact List.foldlRecOn _ _ ht fun b hb a _ => hb.trans (onlyRows_dirtyLine b _ _ _)

theorem nextSpill_writeDevice (s : State) (dpa : Nat) (data : List Byte) (key : Option (Nat × BitVec 512)) (p : Bool) :
    (s.writeDevice dpa data key p).core.nextSpill = s.core.nextSpill := by
  obtain ⟨r, c, h⟩ := onlyRows_touchRows s (s.route dpa) data.length
  have hw := (writeLeaves_write none (s.touchRows (s.route dpa) data.length) (s.route dpa) data p).nextSpill
  rw [h] at hw
  simpa [writeDevice, h] using hw

theorem nextSpill_writeVirtual (n : Nat) (s : State) (va : Nat) (data : List Byte) :
    (s.writeVirtual va n data).2.core.nextSpill = s.core.nextSpill := by
  induction n generalizing s va data with
  | zero => rfl
  | succ n ih =>
    unfold writeVirtual
    split
    · rfl
    · extract_lets k line
      split
      · exact (ih _ _ _).trans (nextSpill_writeDevice ..)
      · exact ih ..

end Sys2Proof.Proofs
end

section
/-! SUPPORT. Proofs of the events of parking, spilling and pages: what each leaves where its hypotheses say what it finds. -/

namespace Sys2Proof.Proofs

open Sys2Proof Sys2Proof.Machine Sys2Proof.Machine.State

/-! ## Serving a park request (16 R385 to R387) -/

/-- The only request of the core is taken up, which is the one of the cycle. -/
def requestTaken (s : State) : State := { s with core := { s.core with parkReqs := [], parks := s.tile.cycle + 1 } }

@[simp] theorem slot_requestTaken (s : State) (i : Fin 16) : (requestTaken s).slot i = s.slot i := rfl

@[simp] theorem parkReqs_requestTaken (s : State) : (requestTaken s).core.parkReqs = [] := rfl

/-- The rim controller and other cores wait for no answer in this core. -/
theorem replyPark_of_not_own {s : State} {q : ParkReq} (h : s.ownAsk q = false) (v : Nat) : s.replyPark q v = s := by
  simp [replyPark, h]

theorem execParkRequestServe_of_single {s : State} {q : ParkReq} (hreqs : s.core.parkReqs = [(q, true)])
    (hparks : s.core.parks ≠ s.tile.cycle + 1) (hasked : (s.slot q.slot).parkAsked = []) :
    exec (.parkRequestServe q) s
      = .next (if q.unpark then (requestTaken s).unpark q else (requestTaken s).park q) := by
  have hslot : ({ s with core := { s.core with parkReqs := [], parks := s.tile.cycle + 1 } } : State).slot q.slot
      = s.slot q.slot := rfl
  rw [exec_parkRequestServe, execParkRequestServe, hreqs]
  simp only [List.any_cons, BEq.rfl, Bool.true_or, if_true, if_neg hparks, serveParks, hreqs, List.find?_cons, Bool.not_true,
    List.find?_nil, Option.none_or, List.head?_cons, List.erase_cons_head, hslot, hasked, List.any_nil]
  cases q.unpark <;> rfl

theorem park_of_sleep {s : State} {q : ParkReq} (hst : (s.slot q.slot).st = .sleep) (hspec : s.speculative q.slot = none) :
    s.park q = (s.modSlot q.slot fun x => { x with parkAsked := x.parkAsked ++ [q] }).parkNow q.slot := by
  simp [park, hst, hspec, modSlot]

/-- A slot as a park leaves it (16 R385). -/
def parkedSlot (now : Nat) (x : Slot) : Slot := { x with
  st := .parked, before := if x.st == .sleep then .sleep else .ready, parkedAt := now, waitFrom := none, parkAsked := [] }

/-- A slot as an unpark leaves it (16 R386). -/
def unparkedSlot (now : Nat) (x : Slot) : Slot := { x with
  st := x.before, waitFrom := if x.before == .sleep then some now else none }

/-- One request that waits to park a slot, from outside the core, is all that its park answers. -/
theorem parkNow_of_single {s : State} {i : Fin 16} {q : ParkReq} (hasked : (s.slot i).parkAsked = [q]) (hq : q.unpark = false)
    (hown : s.ownAsk q = false) : s.parkNow i = s.modSlot i (parkedSlot s.tile.cycle) := by
  simp only [parkNow, hasked, List.foldl_cons, List.foldl_nil, hq, Bool.false_eq_true, if_false]
  exact replyPark_of_not_own (s := s.modSlot i (parkedSlot s.tile.cycle)) hown 6

theorem unpark_of_parked {s : State} {q : ParkReq} (hst : (s.slot q.slot).st = .parked) (hsw : s.switching q.slot = false)
    (hown : s.ownAsk q = false) : s.unpark q = s.modSlot q.slot (unparkedSlot s.tile.cycle) := by
  simp only [unpark, hst, BEq.rfl, if_true, hsw, Bool.false_eq_true, if_false]
  exact replyPark_of_not_own (s := s.modSlot q.slot (unparkedSlot s.tile.cycle)) hown _

section
variable {s : State} {q : ParkReq} (hreqs : s.core.parkReqs = [(q, true)]) (hparks : s.core.parks ≠ s.tile.cycle + 1)
  (hasked : (s.slot q.slot).parkAsked = []) (hown : s.ownAsk q = false)
include hreqs hparks hasked hown

/-- 16 R385. A sleeping strand is parked at once, and goes on with its wait. -/
theorem parkRequestServe_parks_sleeper (hq : q.unpark = false) (hst : (s.slot q.slot).st = .sleep)
    (hspec : s.speculative q.slot = none) :
    ∃ t, exec (.parkRequestServe q) s = .next t ∧ (t.slot q.slot).st = .parked ∧ (t.slot q.slot).before = .sleep ∧
      (t.slot q.slot).wait = (s.slot q.slot).wait ∧ t.core.parkReqs = [] := by
  refine ⟨_, execParkRequestServe_of_single hreqs hparks hasked, ?_⟩
  rw [hq, if_neg Bool.false_ne_true, park_of_sleep (s := requestTaken s) hst hspec,
    parkNow_of_single (s := (requestTaken s).modSlot q.slot _) (q := q) (by simp [hasked]) hq hown]
  simp [hst, parkedSlot, modSlot]

/-- 16 R386. A parked strand goes back to the state that it was parked in. -/
theorem parkRequestServe_unparks (hq : q.unpark = true) (hst : (s.slot q.slot).st = .parked)
    (hsw : s.switching q.slot = false) :
    ∃ t, exec (.parkRequestServe q) s = .next t ∧ (t.slot q.slot).st = (s.slot q.slot).before ∧
      (t.slot q.slot).pc = (s.slot q.slot).pc ∧ t.core.parkReqs = [] := by
  refine ⟨_, execParkRequestServe_of_single hreqs hparks hasked, ?_⟩
  rw [hq, if_pos rfl, unpark_of_parked (s := requestTaken s) hst hsw hown]
  simp [unparkedSlot, modSlot]

end

/-! ## The switch of a workspace (16 R391) -/

theorem allSlots_split : ∀ j : Fin 16, allSlots = allSlots.take j ++ j :: allSlots.drop (j + 1) ∧ ∀ k ∈ allSlots.take j, k < j := by
  decide

/-- A search of the slots finds the first at which it succeeds. -/
theorem findSome?_allSlots {α : Type} {f : Fin 16 → Option α} {j : Fin 16} {x : α} (hj : f j = some x) (h : ∀ k < j, f k = none) :
    allSlots.findSome? f = some x := by
  obtain ⟨hsplit, hbefore⟩ := allSlots_split j
  exact List.findSome?_eq_some_iff.mpr ⟨_, j, _, hsplit, hj, fun k hk => h k (hbefore k hk)⟩

theorem find?_allSlots {p : Fin 16 → Bool} {j : Fin 16} (hj : p j = true) (h : ∀ k < j, p k = false) : allSlots.find? p = some j := by
  obtain ⟨hsplit, hbefore⟩ := allSlots_split j
  exact List.find?_eq_some_iff_append.mpr ⟨hj, _, _, hsplit, fun k hk => by simp [h k (hbefore k hk)]⟩

/-- The answer of a switch that has ended is on its way to the strand. -/
def answerDue (strand : Nat) (x : Slot) : Slot := if x.strand = strand then { x with wait := some .answer } else x

/-- The same in every slot, no context being spilled. -/
def switchEnds (s : State) (strand : Nat) : State := { s with core := { s.core with
  slots := s.core.slots.map (answerDue strand), spilled := [] } }

@[simp] theorem slot_switchEnds (s : State) (strand : Nat) (k : Fin 16) : (switchEnds s strand).slot k = answerDue strand (s.slot k) := by
  simp [switchEnds, slot]

@[simp] theorem spilled_switchEnds (s : State) (strand : Nat) : (switchEnds s strand).core.spilled = [] := rfl

@[simp] theorem tile_switchEnds (s : State) (strand : Nat) : (switchEnds s strand).tile = s.tile := rfl

@[simp] theorem strand_answerDue (n : Nat) (x : Slot) : (answerDue n x).strand = x.strand := by
  unfold answerDue
  split <;> rfl

@[simp] theorem task_answerDue (n : Nat) (x : Slot) : (answerDue n x).task = x.task := by
  unfold answerDue
  split <;> rfl

@[simp] theorem st_answerDue (n : Nat) (x : Slot) : (answerDue n x).st = x.st := by
  unfold answerDue
  split <;> rfl

@[simp] theorem wp_answerDue (n : Nat) (x : Slot) : (answerDue n x).wp = x.wp := by
  unfold answerDue
  split <;> rfl

@[simp] theorem parkAsked_answerDue (n : Nat) (x : Slot) : (answerDue n x).parkAsked = x.parkAsked := by
  unfold answerDue
  split <;> rfl

theorem settled_switchEnds {s : State} (hs : s.Settled) (strand : Nat) : (switchEnds s strand).Settled := by
  intro k
  have := hs k
  simpa [speculative] using this

theorem wKey_switchEnds (s : State) (strand : Nat) (j : Fin 16) (r : Nat) : (switchEnds s strand).wKey j r = s.wKey j r := by
  rw [wKey, slot_switchEnds, wp_answerDue]
  rfl

/-- A slot whose strand waits for its answer wakes from it in the next cycle. -/
def woken (now : Nat) (x : Slot) : Slot := { x with
  wait := if x.st == .sleep then some (.cycle (now + 1)) else none, waitFrom := none
  before := if x.st == .parked then .ready else x.before }

/-- With no speculative task, an answer of one register writes its bytes and wakes the strand, and no other slot changes. -/
theorem answer_of_settled {s : State} {j : Fin 16} {strand : Nat} (ha : s.awaits strand j = true) (hs : s.Settled) (d : Reg) (v : Word) :
    (s.answer j strand [(d, v)]).mem = putBytes s.mem (s.wKey j d.toNat) (leBytes 8 v.toNat) ∧
    (s.answer j strand [(d, v)]).core.spilled = s.core.spilled ∧
    (s.answer j strand [(d, v)]).slot j = woken s.tile.cycle (s.slot j) ∧
    ∀ k, j ≠ k → (s.answer j strand [(d, v)]).slot k = s.slot k := by
  obtain ⟨n, hn⟩ := write_eq_of_settled hs (some j) (s.wKey j d.toNat) (data := leBytes 8 v.toNat) (by simp [leBytes_length])
  have h : s.answer j strand [(d, v)] = (s.setW j d.toNat v).modSlot j (woken (s.setW j d.toNat v).tile.cycle) := by
    simp only [answer, ha, if_true, List.foldl_cons, List.foldl_nil]
    rfl
  rw [h, setW, hn]
  refine ⟨rfl, rfl, slot_modSlot_self .., fun k hk => ?_⟩
  rw [slot_modSlot_of_ne _ hk]
  rfl

theorem awaits_switchEnds (s : State) (j : Fin 16) : (switchEnds s (s.slot j).strand).awaits (s.slot j).strand j = true := by
  simp [awaits, answerDue]

section
variable {s : State} {i j : Fin 16} {d : Reg} {old : Word} (hij : j ≠ i)
  (hwait : (s.slot j).wait = some (.switch i d old)) (hstrand : ∀ k, k ≠ j → (s.slot k).strand ≠ (s.slot j).strand)
  (hfirst : ∀ k < j, ∀ e w, (s.slot k).wait ≠ some (.switch i e w)) (hasked : (s.slot i).parkAsked = [])
  (hspilled : s.core.spilled = []) (hs : s.Settled)
include hij hwait hstrand hfirst hasked hspilled hs

/-- The strand that asked for the switch is answered, where no request waits for the slot. -/
theorem execWpsetSwitchDone_of_switch :
    exec (.wpsetSwitchDone i) s
      = .next ((switchEnds s (s.slot j).strand).answer j (s.slot j).strand [(d, old)]) := by
  rw [exec_wpsetSwitchDone, execWpsetSwitchDone, findSome?_allSlots (j := j) (x := ((s.slot j).strand, d, old)) (by simp [hwait])]
  · rw [Option.some_or]
    dsimp -zeta only
    extract_lets arm _ t holder u x waits clear _ v
    have ht : t = switchEnds s (s.slot j).strand := by
      simp only [t, hspilled, List.map_nil]
      rfl
    have hholder : holder = j := by
      have : allSlots.find? (fun k => (t.slot k).strand = (s.slot j).strand) = some j :=
        find?_allSlots (by simp [ht]) fun k hk => by simpa [ht] using hstrand k (Fin.ne_of_lt hk)
      simp [holder, this]
    have hu : u = (switchEnds s (s.slot j).strand).answer j (s.slot j).strand [(d, old)] := by simp only [u, ht, hholder]
    obtain ⟨-, hnone, -, hothers⟩ := answer_of_settled (awaits_switchEnds s j) (settled_switchEnds hs _) d old
    have hx : x.parkAsked = [] := by simp [x, hu, hothers i hij, hasked]
    have hwaits : waits = [] := by
      have : u.spilledOf i = none := by simp [spilledOf, hu, hnone]
      simp [waits, hx, this]
    have hv : v = u := by simp [v, hwaits]
    rw [hwaits, hv, hu]
    rfl
  · intro k hk
    simp only
    split
    · next t e w hw =>
      have hne : t ≠ i := fun h => hfirst k hk e w (h ▸ hw)
      simp [hne]
    · rfl

/-- 16 R391. The strand that asked for the switch wakes in the next cycle, the old workspace in its register. -/
theorem wpsetSwitchDone_wakes (hst : (s.slot j).st = .sleep) (hm : s.MemoryCanonical) :
    ∃ t, exec (.wpsetSwitchDone i) s = .next t ∧ (t.slot j).st = .sleep ∧ (t.slot j).wait = some (.cycle (s.tile.cycle + 1)) ∧
      natAt t.mem (s.wKey j d.toNat) 8 = old.toNat := by
  refine ⟨_, execWpsetSwitchDone_of_switch hij hwait hstrand hfirst hasked hspilled hs, ?_⟩
  obtain ⟨hmem, -, hself, -⟩ := answer_of_settled (awaits_switchEnds s j) (settled_switchEnds hs _) d old
  rw [hself, hmem, wKey_switchEnds]
  refine ⟨by simp [woken, hst], by simp [woken, hst], ?_⟩
  exact (natAt_putBytes_self 8 old.toNat _ hm).trans (Nat.mod_eq_of_lt old.isLt)

end

/-! ## Spilled contexts (16 R388 to R390) -/

theorem nextSpill_spillImage (s : State) (x : Slot) (regs : List Byte) (tiles : List (Fin 4 × MTile)) :
    (s.spillImage x regs tiles).2.core.nextSpill = s.core.nextSpill := rfl

/-- 16 R388, R389. The engine's choice is spilled: the context that its number names is what the strand has once its payload is
moved, and neither that nor the writing of its areas takes a number. -/
theorem spill_of_choice {s : State} {i : Fin 16} (h : s.spillChoice = some i) :
    ∃ t, exec (.spill i) s = .next t ∧ (t.slot i).st = .empty ∧ t.core.nextSpill = s.core.nextSpill + 1 ∧
      ∃ c, SMap.find s.core.nextSpill t.core.spilled = some c ∧ c.from_ = i ∧ c.slot.pc = (s.slot i).pc ∧ c.slot.sw = (s.slot i).sw := by
  obtain ⟨hpc, hsw, hspill⟩ := keepsStrand_movePayloads i s (s.slot i).payload.length
  refine ⟨s.spillSlot i, by rw [exec_spill, execSpill, if_pos h], ?_⟩
  unfold spillSlot
  extract_lets u x regs tiles base
  rcases himage : u.spillImage x regs tiles with ⟨image, v⟩
  have hv : v.core.nextSpill = s.core.nextSpill := by
    have := nextSpill_spillImage u x regs tiles
    rw [himage] at this
    exact this.trans hspill
  dsimp -zeta only
  rcases hareas : List.foldl _ (([], v) : List (Nat × List Byte) × State) image with ⟨area, w⟩
  have hw : w.core.nextSpill = s.core.nextSpill := by
    refine (congrArg (fun p => p.2.core.nextSpill) hareas).symm.trans (Eq.trans ?_ hv)
    exact List.foldlRecOn (motive := fun (p : List (Nat × List Byte) × State) => p.2.core.nextSpill = v.core.nextSpill) image _ rfl
      fun _ hb _ _ => (nextSpill_writeVirtual ..).trans hb
  rw [← hw]
  exact ⟨congrArg Slot.st (slot_setSlot_self (w.releaseTiles i) i _), rfl, _, SMap.find_put_self .., rfl, hpc, hsw⟩

/-- 16 R390. The only spilled context, once it is unparked, comes back as the only arrival. -/
theorem reload_of_wanted {s : State} {i : Fin 16} {n : Nat} {c : Spilled} (hspilled : s.core.spilled = [(n, c)]) (hfrom : c.from_ = i)
    (hwanted : c.wanted = true) (harrivals : s.core.arrivals = []) :
    ∃ t, exec (.reload i) s = .next t ∧ t.core.arrivals
      = [⟨c.slot.pc, c.slot.priv, c.slot.sw, [], false, none, none, some n, s.core.ltn, s.core.num, i.val, 0⟩] := by
  simp only [exec_reload, execReload, hspilled, List.find?_cons, hfrom, hwanted, harrivals, BEq.rfl, List.any_nil, Bool.not_false,
    Bool.and_true, List.length_nil, Nat.reduceLeDiff, reduceIte, List.nil_append]
  refine ⟨_, rfl, ?_⟩
  rw [(logged_leaves _ _ _ _ _ _).1]

/-! ## Seeds (02 R54) -/

theorem seedUpdateArrival_sets (s : State) (v : Word) :
    (∃ t, exec (.seedUpdateArrival false v) s = .next t ∧ t.core = { s.core with sseed0 := v } ∧ t.mem = s.mem) ∧
      ∃ t, exec (.seedUpdateArrival true v) s = .next t ∧ t.core = { s.core with sseed1 := v } ∧ t.mem = s.mem := by
  have hlog (hi : Bool) := logged_leaves s 6 0 0 [w64 (0x40 + hi.toNat * 2 ^ 8), v] (.seedUpdateArrival hi v)
  obtain ⟨hcore, hmem, -, -⟩ := hlog false
  obtain ⟨hcore', hmem', -, -⟩ := hlog true
  refine ⟨⟨_, rfl, ?_, hmem⟩, ⟨_, rfl, ?_, hmem'⟩⟩
  · rw [← hcore]
    rfl
  · rw [← hcore']
    rfl

/-! ## Ranges and leaves (17 R398, R402, R405) -/

theorem rtsetApply_replaces (s : State) (n : BitVec 6) (e : BitVec 256) :
    ∃ t, exec (.rtsetApply n e) s = .next t ∧ t.tile.tlb = [] ∧
      t.tile.ranges = SMap.set 0 n.toNat e s.tile.ranges ∧ t.core = s.core ∧ t.mem = s.mem := by
  refine ⟨_, rfl, ?_⟩
  obtain ⟨hcore, hmem, htlb, hranges⟩ := logged_leaves { s with tile := { s.tile with
    ranges := SMap.set 0 n.toNat e s.tile.ranges, tlb := [] } } 6 0 0
    [w64 n.toNat, e.extractLsb' 0 64, e.extractLsb' 64 64, e.extractLsb' 128 64, e.extractLsb' 192 64] (.rtsetApply n e)
  exact ⟨htlb, hranges, hcore, hmem⟩

theorem tlbinvApply_drops {s : State} {t : Stand} (h : s.stand = some t) (everything : Bool) (va : Nat) :
    ∃ u, exec (.tlbinvApply everything va) s = .next u ∧
      u.tile.tlb = (s.dropLeaves (asidOf t) (if everything then none else some va)).tile.tlb ∧ u.core = s.core ∧ u.mem = s.mem := by
  obtain ⟨hcore, hmem, htlb, -⟩ := logged_leaves (s.dropLeaves (asidOf t) (if everything then none else some va)) 6 0 0
    [w64 everything.toNat, w64 va] (.tlbinvApply everything va)
  exact ⟨_, by simp only [exec_tlbinvApply, execTlbinvApply, h], htlb, hcore, hmem⟩

theorem execLongResultArrival_leaves (s : State) (i : Fin 16) (tag : Nat) :
    ∃ t, execLongResultArrival i tag s = .next t ∧ t.rim = s.rim ∧ t.tile.tlb = s.tile.tlb := by
  unfold execLongResultArrival
  split
  · exact ⟨_, rfl, rfl, rfl⟩
  · obtain ⟨hrim, htlb, -, -⟩ := writeLeaves_endEngineOp s tag
    exact ⟨_, rfl, hrim, htlb⟩

/-- 17 R405. The conversion is over and its leaf dropped before its window's result arrives, which changes neither. -/
theorem pgattrComplete_ends {s : State} {c : Convert} (hc : s.rim.convert = some c) (hp : s.pairHolds c.leaf = false) :
    ∃ t, exec (.pgattrComplete c.slot) s = .next t ∧ t.rim.convert = none ∧ ∀ l ∈ t.tile.tlb, l.entryAt ≠ c.leaf := by
  have hend : ∃ u : State, exec (.pgattrComplete c.slot) s = execLongResultArrival c.slot c.tag u ∧ u.rim.convert = none ∧
      ∃ tlb : List Leaf, u.tile.tlb = tlb.filter fun l => l.entryAt != c.leaf := by
    simp only [exec_pgattrComplete, execPgattrComplete, hc, bne_self_eq_false, hp, Bool.false_eq_true, if_false]
    exact ⟨_, rfl, rfl, _, rfl⟩
  obtain ⟨u, hu, hconv, tlb, hdrop⟩ := hend
  obtain ⟨t, ht, hrim, htlb⟩ := execLongResultArrival_leaves u c.slot c.tag
  refine ⟨t, hu.trans ht, by rw [hrim, hconv], fun l hl => ?_⟩
  rw [htlb, hdrop, List.mem_filter] at hl
  simpa using hl.2

/-! ## Tiering (17 R409) -/

/-- Forming pairs changes no memory. -/
theorem mem_formPairs (leaves : List (Nat × Word)) (most : Nat) (hot : List (Nat × Word)) (s : State) :
    (s.formPairs leaves most hot).mem = s.mem := by
  induction hot generalizing s with
  | nil => rfl
  | cons p ps ih =>
    obtain ⟨fa, fe⟩ := p
    unfold formPairs
    split
    · rfl
    · split
      · rfl
      · exact (ih _).trans rfl

theorem mem_modStand (s : State) (f : Stand → Stand) : (s.modStand f).mem = s.mem := by
  unfold modStand
  split <;> rfl

theorem tierEpochEnd_begins {s : State} {t : Stand} (h : s.stand = some t) (hon : t.tierctl.getLsbD 63 = true) :
    ∃ u, exec .tierEpochEnd s = .next u ∧ u.rim.hot = [] ∧ u.mem = s.mem := by
  simp only [exec_tierEpochEnd, execTierEpochEnd, h, hon, Bool.not_true, Bool.false_eq_true, if_false]
  exact ⟨_, rfl, rfl, (mem_formPairs ..).trans (mem_modStand ..)⟩

/-- Two ranges that do not overlap exchange their bytes. -/
theorem bytesAt_exchange {m : List Host.Cell} (hm : Memory.wf m = true) {f n len : Nat} (h : f + len ≤ n ∨ n + len ≤ f) :
    bytesAt (putBytes (putBytes m f (bytesAt m n len)) n (bytesAt m f len)) f len = bytesAt m n len ∧
    bytesAt (putBytes (putBytes m f (bytesAt m n len)) n (bytesAt m f len)) n len = bytesAt m f len := by
  have hwf := wf_putBytes (bytesAt m n len) f hm
  have hself (m' : List Host.Cell) (hm' : Memory.wf m' = true) (a b : Nat) :
      bytesAt (putBytes m' a (bytesAt m b len)) a len = bytesAt m b len := by
    simpa [bytesAt_length] using bytesAt_putBytes_self (bytesAt m b len) a hm'
  exact ⟨by rw [bytesAt_putBytes_of_outside _ (by rwa [bytesAt_length]) hwf, hself m hm], hself _ hwf n f⟩

/-- A write of device memory leaves the swap pairs as they are. -/
theorem pairs_write_touchRows (s : State) (k n : Nat) (data : List Byte) :
    ((s.touchRows k n).write none k data).rim.pairs = s.rim.pairs := by
  rw [(writeLeaves_write none (s.touchRows k n) k data false).rim]
  obtain ⟨r, c, h⟩ := onlyRows_touchRows s k n
  rw [h]

section
variable {s : State} {p : SwapPair} (hpairs : s.rim.pairs = [p])
include hpairs

/-- 17 R409. The lines lie at one offset of two frames that differ, so that they do not overlap. -/
theorem tierCopyLine_exchanges (hnext : p.next < 64) (hf : p.farFrame % 4096 = 0) (hn : p.nearFrame % 4096 = 0)
    (hne : p.farFrame ≠ p.nearFrame) (hm : s.MemoryCanonical) :
    ∃ t, exec (.tierCopyLine p.id) s = .next t ∧ t.rim.pairs = [{ p with next := p.next + 1 }] ∧
      bytesAt t.mem (p.farFrame + 64 * p.next) 64 = bytesAt s.mem (p.nearFrame + 64 * p.next) 64 ∧
      bytesAt t.mem (p.nearFrame + 64 * p.next) 64 = bytesAt s.mem (p.farFrame + 64 * p.next) 64 := by
  obtain ⟨r, c, hrows⟩ := onlyRows_touchRows s (p.nearFrame + 64 * p.next) 64
  obtain ⟨hfar, hnear⟩ := bytesAt_exchange hm (f := p.farFrame + 64 * p.next) (n := p.nearFrame + 64 * p.next) (len := 64) (by omega)
  simp only [exec_tierCopyLine, execTierCopyLine, hpairs, List.find?_cons, BEq.rfl, if_neg (Nat.not_le.mpr hnext), hrows]
  exact ⟨_, rfl, by simp, hfar, hnear⟩

theorem tierSwitch_ends (hnext : p.next = 64) :
    ∃ t, exec (.tierSwitch p.id) s = .next t ∧ t.rim.pairs = [] ∧
      ∀ l ∈ t.tile.tlb, l.entryAt ≠ p.farLeaf ∧ l.entryAt ≠ p.nearLeaf := by
  simp only [exec_tierSwitch, execTierSwitch, hpairs, List.find?_cons, BEq.rfl, hnext, Nat.lt_irrefl, if_false]
  refine ⟨_, rfl, ?_, fun l hl => ?_⟩
  · rw [pairs_write_touchRows, pairs_write_touchRows, hpairs]
    simp
  · rw [List.mem_filter] at hl
    simpa using hl.2

end

/-! ## The events together -/

/-- Settles O39: each event finds what its hypotheses name and has its effect on it; what else it does (the log, the rim cache,
aborts, the end of a window) leaves that effect as it is. -/
theorem parkAndPageEvents : Obligations.ParkAndPageEvents := by
  unfold Obligations.ParkAndPageEvents
  intro s i
  refine ⟨fun q hreqs hparks hq hasked hown => ?_, fun j d old hij hst hwait hsw hstrand hfirst hasked hspilled hs hm => ?_,
    spill_of_choice, fun n c => reload_of_wanted, seedUpdateArrival_sets s, rtsetApply_replaces s,
    fun everything va t ht => tlbinvApply_drops ht everything va, fun c hc hi hp => ?_, fun h => ?_, fun t => tierEpochEnd_begins,
    fun p hpairs => ⟨tierCopyLine_exchanges hpairs, tierSwitch_ends hpairs⟩⟩
  · subst hq
    exact ⟨parkRequestServe_parks_sleeper hreqs hparks hasked hown, parkRequestServe_unparks hreqs hparks hasked hown⟩
  · exact wpsetSwitchDone_wakes hij hwait hstrand hfirst hasked hspilled hs hst hm
  · subst hi
    exact pgattrComplete_ends hc hp
  · simp only [exec_tierEpochEnd, execTierEpochEnd, h]

end Sys2Proof.Proofs
end

section
/-! SUPPORT. The values of the scalar integer heads, as the rules state them: sums and differences with their flags, products,
shifts, counts, fields and quotients. -/

namespace Sys2Proof.Proofs

open Sys2Proof Sys2Proof.Machine Sys2Proof.Machine.State

/-! ## Sums and differences with their flags (04 R94) -/

/-- Two sources of one sign whose sum has the other are those whose sum, with the carry, does not fit. -/
theorem overflow_iff (x y : Word) (c : Bool) :
    (x.msb == y.msb && (x + y + w64 c.toNat).msb != x.msb)
      = decide ((x + y + w64 c.toNat).toInt ≠ x.toInt + y.toInt + c.toNat) := by
  rw [Bool.eq_iff_iff]
  have hc := c.toNat_le
  simp only [BitVec.msb_eq_decide, BitVec.toInt_eq_toNat_cond, BitVec.toNat_add, w64, BitVec.toNat_ofNat, Bool.and_eq_true,
    beq_iff_eq, bne_iff_ne, ne_eq, decide_eq_decide, decide_eq_true_eq]
  omega

theorem addFlags_eq (x y : Word) (c : Bool) :
    addFlags x y c = (x + y + w64 c.toNat, ⟨(x + y + w64 c.toNat).msb, decide (x + y + w64 c.toNat = 0),
      decide (2 ^ 64 ≤ x.toNat + y.toNat + c.toNat), decide ((x + y + w64 c.toNat).toInt ≠ x.toInt + y.toInt + c.toNat)⟩) := by
  rw [← overflow_iff]
  cases c <;> rfl

/-- A subtraction adds the complement and one: C says that no borrow occurs. -/
theorem subFlags_eq (x y : Word) :
    subFlags x y = (x - y, ⟨(x - y).msb, decide (x = y), decide (y.toNat ≤ x.toNat),
      decide ((x - y).toInt ≠ x.toInt - y.toInt)⟩) := by
  have hd : x + ~~~y + w64 true.toNat = x - y := by rw [w64, Bool.toNat_true]; bv_omega
  have hz : x - y = 0 ↔ x = y := by bv_omega
  have hn : (~~~y).toInt = -1 - y.toInt := by
    simp only [BitVec.toInt_eq_toNat_cond, BitVec.toNat_not]
    omega
  have hv : x.toInt + (~~~y).toInt + true.toNat = x.toInt - y.toInt := by rw [hn, Bool.toNat_true]; omega
  have hb : 2 ^ 64 ≤ x.toNat + (~~~y).toNat + true.toNat ↔ y.toNat ≤ x.toNat := by
    rw [BitVec.toNat_not, Bool.toNat_true]
    omega
  rw [subFlags, addFlags_eq, hd, hv, decide_eq_decide.mpr hz, decide_eq_decide.mpr hb]

/-- 04 R97. The conditions hold on the flags of a subtraction exactly when the integers stand in their relations. -/
theorem holds_subFlags (x y : Word) {cc : BitVec 3} (hcc : cc.toNat < 6) :
    (subFlags x y).2.holds cc = IntegerRelation cc x y := by
  have hlt : ((x - y).msb != decide ((x - y).toInt ≠ x.toInt - y.toInt)) = decide (x.toInt < y.toInt) := by
    rw [Bool.eq_iff_iff]
    simp only [BitVec.msb_eq_decide, BitVec.toInt_eq_toNat_cond, BitVec.toNat_sub, bne_iff_ne, ne_eq, decide_eq_decide,
      decide_eq_true_eq]
    omega
  have hle : x.toInt ≤ y.toInt ↔ x = y ∨ x.toInt < y.toInt := by rw [Int.le_iff_eq_or_lt, BitVec.toInt_inj]
  have hbelow : (!decide (y.toNat ≤ x.toNat)) = decide (x.toNat < y.toNat) := by rw [← decide_not, decide_eq_decide, Nat.not_le]
  have hnatLe : x.toNat ≤ y.toNat ↔ x.toNat < y.toNat ∨ x = y := by rw [Nat.le_iff_lt_or_eq, BitVec.toNat_inj]
  rw [subFlags_eq]
  unfold NZCV.holds IntegerRelation
  generalize cc.toNat = n at hcc ⊢
  match n, hcc with
  | 0, _ => rfl
  | 1, _ => exact (decide_not).symm
  | 2, _ => exact hlt
  | 3, _ => simp only [hlt, hle, Bool.decide_or]
  | 4, _ => exact hbelow
  | 5, _ => simp only [hbelow, hnatLe, Bool.decide_or]

/-- `NEG` writes the flags of 0 − a (04 R100). -/
theorem negFlags_eq (x : Word) :
    subFlags 0 x = (-x, ⟨(-x).msb, decide (x = 0), decide (x = 0), decide (x = BitVec.intMin 64)⟩) := by
  have hneg : 0 - x = -x := BitVec.zero_sub x
  have hz : 0 = x ↔ x = 0 := eq_comm
  have hb : x.toNat ≤ (0 : Word).toNat ↔ x = 0 := by bv_omega
  have hv : (-x).toInt ≠ (0 : Word).toInt - x.toInt ↔ x = BitVec.intMin 64 := by
    by_cases h : x = BitVec.intMin 64
    · subst h
      decide
    · simp [BitVec.toInt_neg_eq_ite, h]
  rw [subFlags_eq, hneg, decide_eq_decide.mpr hz, decide_eq_decide.mpr hb, decide_eq_decide.mpr hv]

/-- 04 R103. `TST` has the conditions `.EQ` and `.NE` only, which ask whether no common bit is set. -/
theorem holds_tstFlags (x y : Word) {cc : BitVec 3} (hcc : cc.toNat ≤ 1) :
    (tstFlags x y).holds cc = (decide (x &&& y = 0) == decide (cc = 0)) := by
  rcases (show cc = 0 ∨ cc = 1 by bv_omega) with rfl | rfl
  · exact (beq_true _).symm
  · exact (beq_false _).symm

/-! ## Least and greatest (04 R98) -/

theorem pick_min (x y : Word) : pick (fun x y => x.ule y) x y = w64 (Nat.min x.toNat y.toNat) := by
  by_cases h : x.toNat ≤ y.toNat
  · simp [pick, w64, BitVec.ule_eq_decide, h]
  · simp [pick, w64, BitVec.ule_eq_decide, h, Nat.min_eq_right (Nat.le_of_not_le h)]

theorem pick_max (x y : Word) : pick (fun x y => y.ule x) x y = w64 (Nat.max x.toNat y.toNat) := by
  by_cases h : y.toNat ≤ x.toNat
  · simp [pick, w64, BitVec.ule_eq_decide, h]
  · simp [pick, w64, BitVec.ule_eq_decide, h, Nat.max_eq_right (Nat.le_of_not_le h)]

/-! ## Shifts (04 R98) -/

theorem natCast_two_pow (n : Nat) : ((2 ^ n : Nat) : Int) = 2 ^ n := Int.natCast_pow 2 n

theorem shiftLeft_eq_w64 (x : Word) (n : Nat) : x <<< n = w64 (x.toNat * 2 ^ n) :=
  BitVec.eq_of_toNat_eq (by rw [BitVec.toNat_shiftLeft, Nat.shiftLeft_eq, w64, BitVec.toNat_ofNat])

theorem ushiftRight_eq_w64 (x : Word) (n : Nat) : x >>> n = w64 (x.toNat / 2 ^ n) :=
  BitVec.eq_of_toNat_eq (by
    rw [BitVec.toNat_ushiftRight, Nat.shiftRight_eq_div_pow, w64, BitVec.toNat_ofNat,
      Nat.mod_eq_of_lt (Nat.lt_of_le_of_lt (Nat.div_le_self ..) x.isLt)])

/-- What leaves at the top comes in below; the two parts do not overlap. -/
theorem rotateLeft_eq_w64 (x : Word) {n : Nat} (hn : n < 64) :
    x.rotateLeft n = w64 (x.toNat * 2 ^ n + x.toNat / 2 ^ (64 - n)) := by
  have hlow : x.toNat / 2 ^ (64 - n) < 2 ^ n := by
    rw [Nat.div_lt_iff_lt_mul (Nat.two_pow_pos _), ← Nat.pow_add, show n + (64 - n) = 64 by omega]
    exact x.isLt
  have hhigh : x.toNat * 2 ^ n % 2 ^ 64 = x.toNat % 2 ^ (64 - n) * 2 ^ n := by
    rw [show (2 : Nat) ^ 64 = 2 ^ (64 - n) * 2 ^ n by rw [← Nat.pow_add]; congr 1; omega, Nat.mul_mod_mul_right]
  have hfits : x.toNat % 2 ^ (64 - n) * 2 ^ n + x.toNat / 2 ^ (64 - n) < 2 ^ 64 := by
    have hm := Nat.mod_lt x.toNat (Nat.two_pow_pos (64 - n))
    calc x.toNat % 2 ^ (64 - n) * 2 ^ n + x.toNat / 2 ^ (64 - n)
        < (x.toNat % 2 ^ (64 - n) + 1) * 2 ^ n := by rw [Nat.add_mul, Nat.one_mul]; omega
      _ ≤ 2 ^ (64 - n) * 2 ^ n := Nat.mul_le_mul_right _ hm
      _ = 2 ^ 64 := by rw [← Nat.pow_add]; congr 1; omega
  refine BitVec.eq_of_toNat_eq ?_
  rw [BitVec.toNat_rotateLeft, Nat.mod_eq_of_lt hn, Nat.shiftRight_eq_div_pow, Nat.shiftLeft_eq, hhigh, ← Nat.shiftLeft_eq,
    ← Nat.shiftLeft_add_eq_or_of_lt hlow, Nat.shiftLeft_eq, w64, BitVec.toNat_ofNat, ← Nat.mod_add_mod, hhigh,
    Nat.mod_eq_of_lt hfits]

/-! ## Counts (04 R100) -/

/-- The first number below n that passes a test, or n: none before it passes, and it passes if it lies below n. -/
theorem firstPassing_spec {p : Nat → Bool} {n k : Nat} (hk : ((List.range n).find? p).getD n = k) :
    k ≤ n ∧ (∀ i < k, p i = false) ∧ (k < n → p k = true) := by
  subst hk
  cases h : (List.range n).find? p with
  | none =>
    rw [List.find?_range_eq_none] at h
    exact ⟨Nat.le_refl n, fun i hi => by simpa using h i hi, fun hlt => absurd hlt (Nat.lt_irrefl n)⟩
  | some k =>
    obtain ⟨hk, hmem, hbefore⟩ := List.find?_range_eq_some.mp h
    exact ⟨Nat.le_of_lt (List.mem_range.mp hmem), fun i hi => by simpa using hbefore i hi, fun _ => hk⟩

theorem countLeading_spec (x : Word) : countLeading x ≤ 64 ∧ x.toNat < 2 ^ (64 - countLeading x) ∧
    (countLeading x < 64 → 2 ^ (63 - countLeading x) ≤ x.toNat) := by
  obtain ⟨hle, hclear, hset⟩ := firstPassing_spec (rfl : _ = countLeading x)
  simp only [BitVec.getMsbD_eq_getLsbD, BitVec.getLsbD, Bool.and_eq_true] at hclear hset
  refine ⟨hle, Nat.lt_pow_two_of_testBit _ fun i hi => ?_, fun h => Nat.ge_two_pow_of_testBit (hset h).2⟩
  by_cases h64 : i < 64
  · have := hclear (63 - i) (by omega)
    simpa [show 63 - i < 64 by omega, show 64 - 1 - (63 - i) = i by omega] using this
  · exact Nat.testBit_lt_two_pow (Nat.lt_of_lt_of_le x.isLt (Nat.pow_le_pow_right (by decide) (by omega)))

theorem countTrailing_spec (x : Word) : countTrailing x ≤ 64 ∧ x.toNat % 2 ^ countTrailing x = 0 ∧
    (countTrailing x < 64 → x.toNat / 2 ^ countTrailing x % 2 = 1) := by
  obtain ⟨hle, hclear, hset⟩ := firstPassing_spec (rfl : _ = countTrailing x)
  simp only [BitVec.getLsbD] at hclear hset
  refine ⟨hle, Nat.eq_of_testBit_eq fun i => ?_, fun h => ?_⟩
  · rw [Nat.testBit_mod_two_pow, Nat.zero_testBit]
    by_cases hi : i < countTrailing x
    · rw [hclear i hi, Bool.and_false]
    · simp [hi]
  · have := hset h
    rwa [Nat.testBit_eq_decide_div_mod_eq, decide_eq_true_eq] at this

/-- As many places pass a test of their bit as their bits sum to. -/
theorem countOnes_eq_sum (x : Word) : countOnes x = ((List.range 64).map fun i => x.toNat / 2 ^ i % 2).sum := by
  unfold countOnes
  generalize List.range 64 = places
  induction places with
  | nil => rfl
  | cons i places ih =>
    rw [List.map_cons, List.sum_cons, ← ih, List.filter_cons, BitVec.getLsbD, Nat.testBit_eq_decide_div_mod_eq]
    by_cases h : x.toNat / 2 ^ i % 2 = 1
    · simp [h, Nat.add_comm]
    · simp [show x.toNat / 2 ^ i % 2 = 0 by omega]

/-! ## Bytes and fields (04 R100, R102) -/

theorem leNat_lt (bs : List Byte) : leNat bs < 256 ^ bs.length := by
  induction bs with
  | nil => simp [leNat]
  | cons b bs ih =>
    rw [leNat, List.length_cons, Nat.pow_succ]
    have := b.isLt
    omega

theorem leNat_byte (bs : List Byte) (i : Nat) : leNat bs / 256 ^ i % 256 = (bs.getD i 0).toNat := by
  induction bs generalizing i with
  | nil => simp [leNat]
  | cons b bs ih =>
    have hb := b.isLt
    cases i with
    | zero => rw [leNat, List.getD_cons_zero]; omega
    | succ i =>
      rw [leNat, List.getD_cons_succ, ← ih, Nat.pow_succ', ← Nat.div_div_eq_div_mul, Nat.add_mul_div_left _ _ (by decide),
        Nat.div_eq_of_lt hb, Nat.zero_add]

theorem leBytes_getD {n i : Nat} (hi : i < n) (v : Nat) : (leBytes n v).getD i 0 = .ofNat 8 (v / 256 ^ i) := by
  induction n generalizing i v with
  | zero => omega
  | succ n ih =>
    cases i with
    | zero => simp [leBytes]
    | succ i => rw [leBytes, List.getD_cons_succ, ih (by omega), Nat.div_div_eq_div_mul, Nat.pow_succ']

/-- The byte of a word at a place, as a byte of its number. -/
theorem extractLsb'_byte (x : Word) (i : Nat) : x.extractLsb' (8 * i) 8 = .ofNat 8 (x.toNat / 256 ^ i) := by
  rw [BitVec.extractLsb', Nat.shiftRight_eq_div_pow, Nat.pow_mul]

/-- The bytes of `BSWAP` stand in the reverse order. -/
theorem byteSwap_byte (x : Word) {i : Nat} (hi : i < 8) :
    (byteSwap x).extractLsb' (8 * i) 8 = x.extractLsb' (56 - 8 * i) 8 := by
  have hlen : (leBytes 8 x.toNat).reverse.length = 8 := by rw [List.length_reverse, leBytes_length]
  have hfit : leNat (leBytes 8 x.toNat).reverse < 2 ^ 64 := by
    have := leNat_lt (leBytes 8 x.toNat).reverse
    rwa [hlen] at this
  have hrev : (leBytes 8 x.toNat).reverse.getD i 0 = (leBytes 8 x.toNat).getD (7 - i) 0 := by
    rw [List.getD_eq_getElem?_getD, List.getElem?_reverse (by rwa [leBytes_length]), leBytes_length,
      ← List.getD_eq_getElem?_getD]
  rw [show 56 - 8 * i = 8 * (7 - i) by omega, extractLsb'_byte, extractLsb'_byte,
    ← leBytes_getD (i := 7 - i) (n := 8) (by omega), ← hrev]
  refine BitVec.eq_of_toNat_eq ?_
  rw [← leNat_byte, byteSwap, w64, BitVec.toNat_ofNat, BitVec.toNat_ofNat, Nat.mod_eq_of_lt hfit]

/-- 02 R38. A field of the low n bits, extended by its sign. -/
theorem signExtend_setWidth (x : Word) {n : Nat} (hn : 0 < n) : (x.setWidth n).signExtend 64 = .ofInt 64 (signed n x.toNat) := by
  have htwice : (2 : Nat) ^ n = 2 * 2 ^ (n - 1) := by rw [← Nat.pow_succ', Nat.succ_eq_add_one, Nat.sub_add_cancel hn]
  rw [BitVec.signExtend, BitVec.toInt_eq_toNat_cond, BitVec.toNat_setWidth, signed]
  congr 1
  by_cases h : x.toNat % 2 ^ n < 2 ^ (n - 1)
  · rw [if_pos h, if_pos (by omega)]
  · rw [if_neg h, if_neg (by omega), natCast_two_pow]

theorem setWidth_setWidth_eq_w64 (x : Word) (n : Nat) : (x.setWidth n).setWidth 64 = w64 (x.toNat % 2 ^ n) :=
  BitVec.eq_of_toNat_eq (by rw [BitVec.toNat_setWidth, BitVec.toNat_setWidth, w64, BitVec.toNat_ofNat])

/-- `LIH` puts its immediate above the low half. -/
theorem append_low_eq_w64 (imm : BitVec 32) (x : Word) :
    imm ++ x.setWidth 32 = w64 (imm.toNat * 2 ^ 32 + x.toNat % 2 ^ 32) := by
  have hlow := Nat.mod_lt x.toNat (Nat.two_pow_pos 32)
  have himm := imm.isLt
  refine BitVec.eq_of_toNat_eq ?_
  rw [BitVec.toNat_append, BitVec.toNat_setWidth, ← Nat.shiftLeft_add_eq_or_of_lt hlow, Nat.shiftLeft_eq, w64, BitVec.toNat_ofNat]
  exact (Nat.mod_eq_of_lt (by omega)).symm

theorem fieldOut_natural (x : Word) (pos len : Nat) :
    fieldOut x false pos len = w64 (x.toNat / 2 ^ pos % 2 ^ len) := by
  rw [← Nat.shiftRight_eq_div_pow, ← BitVec.toNat_ushiftRight, ← setWidth_setWidth_eq_w64]
  rfl

theorem fieldOut_signed (x : Word) (pos : Nat) {len : Nat} (hlen : 0 < len) :
    fieldOut x true pos len = .ofInt 64 (signed len (x.toNat / 2 ^ pos)) := by
  rw [← Nat.shiftRight_eq_div_pow, ← BitVec.toNat_ushiftRight, ← signExtend_setWidth _ hlen]
  rfl

/-- A field goes in at its position, and the other bits stay. -/
theorem getLsbD_fieldIn (d x : Word) {pos len1 i : Nat} (h : pos + len1 ≤ 63) (hi : i < 64) :
    (fieldIn d x pos (len1 + 1)).getLsbD i = if pos ≤ i ∧ i ≤ pos + len1 then x.getLsbD (i - pos) else d.getLsbD i := by
  by_cases hpos : pos ≤ i
  · by_cases hend : i ≤ pos + len1
    · simp [fieldIn, hi, hpos, hend, Nat.not_lt.mpr hpos, show i - pos < 64 by omega, show i - pos < len1 + 1 by omega]
    · simp [fieldIn, hi, hpos, hend, show ¬ i - pos < len1 + 1 by omega]
  · simp [fieldIn, hi, hpos, show i < pos by omega]

/-! ## Products and quotients (04 R98, R99) -/

theorem mul_eq_w64 (x y : Word) : x * y = w64 (x.toNat * y.toNat) :=
  BitVec.eq_of_toNat_eq (by rw [BitVec.toNat_mul, w64, BitVec.toNat_ofNat])

theorem udiv_eq_w64 (x y : Word) : x / y = w64 (x.toNat / y.toNat) :=
  BitVec.eq_of_toNat_eq (by
    rw [BitVec.toNat_udiv, w64, BitVec.toNat_ofNat, Nat.mod_eq_of_lt (Nat.lt_of_le_of_lt (Nat.div_le_self ..) x.isLt)])

theorem umod_eq_w64 (x y : Word) : x % y = w64 (x.toNat % y.toNat) :=
  BitVec.eq_of_toNat_eq (by
    rw [BitVec.toNat_umod, w64, BitVec.toNat_ofNat, Nat.mod_eq_of_lt (Nat.lt_of_le_of_lt (Nat.mod_le ..) x.isLt)])

theorem divNatural_of_zero (x : Word) : divNatural x 0 = (BitVec.allOnes 64, x, true) := rfl

theorem divNatural_of_ne_zero (x : Word) {y : Word} (hy : y ≠ 0) :
    divNatural x y = (w64 (x.toNat / y.toNat), w64 (x.toNat % y.toNat), false) := by
  rw [divNatural, if_neg hy, udiv_eq_w64, umod_eq_w64]

theorem divSigned_of_zero (x : Word) : divSigned x 0 = (BitVec.allOnes 64, x, true) := rfl

theorem divSigned_of_overflow : divSigned (BitVec.intMin 64) (BitVec.allOnes 64) = (BitVec.intMin 64, 0, true) := rfl

theorem divSigned_of_fits {x y : Word} (hy : y ≠ 0) (h : ¬(x = BitVec.intMin 64 ∧ y = BitVec.allOnes 64)) :
    divSigned x y = (.ofInt 64 (x.toInt.tdiv y.toInt), .ofInt 64 (x.toInt - x.toInt.tdiv y.toInt * y.toInt), false) := by
  rw [divSigned, if_neg hy, if_neg h, Int.tmod_def, Int.mul_comm]

end Sys2Proof.Proofs
end

section
/-! SUPPORT. Proofs of the scalar integer heads: what each shape of head does once it issues, and each head's own value. -/

namespace Sys2Proof.Proofs

open Sys2Proof Sys2Proof.Machine Sys2Proof.Machine.State

/-! ## The shapes -/

section
variable {s t : State} {d a b : Reg} {x y : Word}

theorem alu1_of_issues (hi : s.Issues [.dst d, .src a]) (hr : s.readW a = (x, t)) (f : Word → Word) :
    s.alu1 d a f = .next (t.writeW d (f x)) := by
  rw [alu1, issueHead_of_issues hi _ rfl (by simp) rfl]
  simp only [hr]

theorem alu2_of_issues (hi : s.Issues [.dst d, .src a, .src b]) (hr : s.read2 a b = (x, y, t)) (f : Word → Word → Word) :
    s.alu2 d a b f = .next (t.writeW d (f x y)) := by
  obtain ⟨hx, hy⟩ := read2_eq hr
  rw [alu2, issueHead_of_issues hi _ rfl (by simp) rfl]
  simp only [hx, hy]

theorem alu2f_of_issues (hi : s.Issues [.dst d, .src a, .src b]) (hr : s.read2 a b = (x, y, t))
    (f : Word → Word → Word × NZCV) : s.alu2f d a b f = .next ((t.writeW d (f x y).1).setFlags (f x y).2) := by
  obtain ⟨hx, hy⟩ := read2_eq hr
  rw [alu2f, issueHead_of_issues hi _ rfl (by simp) rfl]
  simp only [hx, hy]

/-- 01 R21. Fewer than four open windows leave one free. -/
theorem windowsFull_of_free (hw : s.me.windows.length < 4) : s.windowsFull = false := decide_eq_false (Nat.not_le.mpr hw)

/-- 04 R99. A division with a free window opens it for its value and V. -/
theorem divide_of_issues (hi : s.Issues [.dst d, .src a, .src b]) (hr : s.read2 a b = (x, y, t)) (hw : s.me.windows.length < 4)
    (la : BitVec 4) (f : Word → Word → Word × Bool) :
    s.divide d a b la f = .next (t.longResult la 36 [.reg d (f x y).1, .swSet 1 (if (f x y).2 then 1 else 0)]) := by
  obtain ⟨hx, hy⟩ := read2_eq hr
  rw [divide, issueHead_of_issues hi _ rfl (by simp) rfl]
  simp only [windowsFull_of_free hw, hx, hy, Bool.false_eq_true, if_false]

end

theorem compare_eq_skipIf (s : State) (f : NZCV) (k : BitVec 2) (cc : BitVec 3) :
    s.compare f k cc = (s.setFlags f).skipIf (f.holds cc) k := by
  simp only [State.compare, skipIf, Bool.and_eq_true, bne_iff_ne]

/-- 04 R97, R103. A compare of integers writes the flags of their difference and skips on their relation. -/
theorem compare_subFlags (s : State) (k : BitVec 2) {cc : BitVec 3} (hcc : cc.toNat < 6) (x y : Word) :
    s.compare (subFlags x y).2 k cc = (s.setNZCV (x - y).msb (decide (x = y)) (decide (y.toNat ≤ x.toNat))
      (decide ((x - y).toInt ≠ x.toInt - y.toInt))).skipIf (IntegerRelation cc x y) k := by
  rw [compare_eq_skipIf, holds_subFlags x y hcc, subFlags_eq]
  rfl

/-- What a source pops from its port changes no register. -/
theorem regW_of_readW {s t : State} {a : Reg} {x : Word} (h : s.readW a = (x, t)) (r : Nat) : t.regW r = s.regW r := by
  rw [(readW_eq h).1]
  rfl

/-! ## Two sources -/

/-- Settles O1: each head is one of two shapes, and its value is the rule's; the flags are those of the sum or difference. -/
theorem twoSourceIntegerResults : Obligations.TwoSourceIntegerResults := by
  unfold Obligations.TwoSourceIntegerResults
  intro s t d a b x y hi hr
  have value := alu2_of_issues hi hr
  have flagged := alu2f_of_issues hi hr
  have hcount : y.toNat % 64 < 64 := Nat.mod_lt _ (by decide)
  refine ⟨?_, ?_, ?_, ?_, ?_, ?_, ?_, ?_, ?_, ?_, ?_, ?_, ?_, ?_, ?_, ?_, ?_, ?_, ?_⟩
  · have hsum : x + y + w64 false.toNat = x + y := BitVec.add_zero _
    rw [exec_add, execAdd, flagged, addFlags_eq, hsum]
    simp only [Bool.toNat_false, Nat.add_zero, Int.natCast_zero, Int.add_zero]
    rfl
  · rw [exec_sub, execSub, flagged, subFlags_eq]
    rfl
  · rw [exec_addx, execAddx, flagged, addFlags_eq]
    rfl
  · rw [exec_mul, execMul, value, mul_eq_w64]
  · rw [exec_mulh, execMulh, value]
    rfl
  · rw [exec_mulhn, execMulhn, value]
    rfl
  · simp only [exec_min, execMin, value, pick, BitVec.sle_eq_decide, decide_eq_true_eq]
  · simp only [exec_max, execMax, value, pick, BitVec.sle_eq_decide, decide_eq_true_eq]
  · rw [exec_minn, execMinn, value, pick_min]
  · rw [exec_maxn, execMaxn, value, pick_max]
  · rw [exec_and, execAnd, value]
  · rw [exec_or, execOr, value]
  · rw [exec_xor, execXor, value]
  · rw [exec_andn, execAndn, value]
  · rw [exec_shl, execShl, value, shiftLeft_eq_w64]
  · rw [exec_shr, execShr, value, ushiftRight_eq_w64]
  · rw [exec_sar, execSar, value, BitVec.sshiftRight, Int.shiftRight_eq_div_pow, natCast_two_pow]
  · rw [exec_rol, execRol, value, rotateLeft_eq_w64 x hcount]
  · rw [exec_sel, execSel, value]
    rfl

/-! ## One source and immediates -/

/-- Settles O2: each head is a function of its source, and its value is the rule's; `NEG` writes the flags of 0 − a, and a
field's bits are those of its place. -/
theorem oneSourceIntegerResults : Obligations.OneSourceIntegerResults := by
  unfold Obligations.OneSourceIntegerResults
  refine fun s d => ⟨fun a x t hi hr => ?_, fun a x t pos len1 hi hr hfit => ?_, fun hi imm imm32 => ⟨?_, ?_⟩⟩
  · have value := alu1_of_issues hi hr
    obtain ⟨hlz, hlow, hlead⟩ := countLeading_spec x
    obtain ⟨htz, hzero, htrail⟩ := countTrailing_spec x
    refine ⟨?_, ?_, ?_, ⟨_, hlz, hlow, hlead, ?_⟩, ⟨_, htz, hzero, htrail, ?_⟩, ?_, ⟨_, fun i => byteSwap_byte x, ?_⟩, ?_, ?_, ?_,
      ?_, ?_, ?_, fun imm => ?_, fun imm => ?_, fun pos len1 hfit => ⟨?_, ?_⟩⟩
    · rw [exec_mov, execMov, value, id]
    · rw [exec_neg, execNeg, issueHead_of_issues hi _ rfl (by simp) rfl]
      simp only [hr, negFlags_eq]
      rfl
    · simp only [exec_abs, execAbs, value, BitVec.msb_eq_toInt, decide_eq_true_eq]
    · rw [exec_clz, execClz, value]
    · rw [exec_ctz, execCtz, value]
    · rw [exec_popc, execPopc, value, countOnes_eq_sum]
    · rw [exec_bswap, execBswap, value]
    · rw [exec_sextI8, execSextI8, value, sextLow, signExtend_setWidth x (by decide)]
    · rw [exec_sextI16, execSextI16, value, sextLow, signExtend_setWidth x (by decide)]
    · rw [exec_sextI32, execSextI32, value, sextLow, signExtend_setWidth x (by decide)]
    · rw [exec_zextN8, execZextN8, value, zextLow, setWidth_setWidth_eq_w64]
    · rw [exec_zextN16, execZextN16, value, zextLow, setWidth_setWidth_eq_w64]
    · rw [exec_zextN32, execZextN32, value, zextLow, setWidth_setWidth_eq_w64]
    · rw [exec_addi, execAddi, value, BitVec.signExtend, BitVec.ofInt_add, BitVec.ofInt_toInt]
    · rw [exec_lih, execLih, value, append_low_eq_w64]
    · rw [exec_bfx, execBfx, issueHead_of_issues hi _ rfl (by simp) (decide_eq_true hfit)]
      simp only [hr, fieldOut_natural]
    · rw [exec_bfx, execBfx, issueHead_of_issues hi _ rfl (by simp) (decide_eq_true hfit)]
      simp only [hr, fieldOut_signed _ _ (Nat.succ_pos _)]
  · refine ⟨_, fun i => getLsbD_fieldIn (s.regW d.toNat) x hfit, ?_⟩
    rw [exec_bfi, execBfi, issueHead_of_issues hi _ rfl (by simp) (decide_eq_true hfit)]
    simp only [hr, regW_of_readW hr]
  · rw [exec_li, execLi, issueHead_of_issues hi _ rfl (by simp) rfl, BitVec.signExtend]
  · rw [exec_liG, execLiG, issueHead_of_issues hi _ rfl (by simp) rfl, BitVec.signExtend]

/-! ## Compares -/

/-- Settles O3: a compare writes its flags and skips when its condition holds on them, which is the relation of its integers. -/
theorem compareResults : Obligations.CompareResults := by
  unfold Obligations.CompareResults
  refine fun s t k cc a b imm x y hcc => ⟨fun hi hr => ?_, fun hi hr => ?_⟩
  · obtain ⟨hx, hy⟩ := read2_eq hr
    refine ⟨?_, fun hle => ?_⟩
    · rw [exec_cmp, execCmp, issueHead_of_issues hi _ rfl (by simp) rfl]
      simp only [hx, hy, compare_subFlags t k hcc]
    · rw [exec_tst, execTst, issueHead_of_issues hi _ rfl (by simp) (decide_eq_true hle)]
      simp only [hx, hy, compare_eq_skipIf, holds_tstFlags x y hle]
      rfl
  · rw [exec_cmpi, execCmpi, issueHead_of_issues hi _ rfl (by simp) rfl]
    simp only [hr, compare_subFlags t k hcc, BitVec.signExtend]

/-! ## Divisions -/

/-- Settles O4: a division opens a window for its quotient or remainder, which the divisor and the operands' signs decide. -/
theorem divisionResults : Obligations.DivisionResults := by
  unfold Obligations.DivisionResults
  intro s t d a b la x y hi hr hw long
  have ends := divide_of_issues hi hr hw la
  refine ⟨fun hy => ?_, fun hy => ?_, fun hx hy => ?_, fun hy hfits => ?_⟩
  · subst hy
    refine ⟨?_, ?_, ?_, ?_⟩
    · rw [exec_div, execDiv, ends, divSigned_of_zero]
    · rw [exec_divn, execDivn, ends, divNatural_of_zero]
    · rw [exec_rem, execRem, ends, divSigned_of_zero]
    · rw [exec_remn, execRemn, ends, divNatural_of_zero]
  · refine ⟨?_, ?_⟩
    · rw [exec_divn, execDivn, ends, divNatural_of_ne_zero x hy]
    · rw [exec_remn, execRemn, ends, divNatural_of_ne_zero x hy]
  · subst hx hy
    refine ⟨?_, ?_⟩
    · rw [exec_div, execDiv, ends, divSigned_of_overflow]
    · rw [exec_rem, execRem, ends, divSigned_of_overflow]
  · refine ⟨?_, ?_⟩
    · rw [exec_div, execDiv, ends, divSigned_of_fits hy hfits]
    · rw [exec_rem, execRem, ends, divSigned_of_fits hy hfits]

end Sys2Proof.Proofs
end

section
/-! SUPPORT. Proofs of the transfers and loops: where a strand goes on, and what a loop captures. -/

namespace Sys2Proof.Proofs

open Sys2Proof Sys2Proof.Machine Sys2Proof.Machine.State

/-! ## Transfers -/

/-- The head of 04 R106: major 0x0E, function 0 and form Z. -/
theorem decode_nop : decode ⟨0x0700, 0⟩ = .ok .nop := rfl

/-- 03 R69. A transfer goes on at its target where the target line has the head, and traps where it has not. -/
theorem goTo_cases {s u : State} {pc : BitVec 22} {r : Result} (h : r = s.goTo u pc) :
    (s.badIndex pc = false → r = .next (u.jump pc)) ∧ (s.badIndex pc = true → r = s.raise cTARGET) := by
  rw [h, goTo]
  exact ⟨fun hb => by rw [hb]; rfl, fun hb => by rw [hb]; rfl⟩

theorem transfer_of_issues {s : State} {os : List Opd} {tgt : BitVec 22} (hi : s.Issues os) (htgt : tgt.getLsbD 0 = false)
    (k : State → Result) : s.transfer os tgt k = k s := by
  rw [transfer, issueHead_of_issues hi _ rfl (by simp) (by rw [htgt]; rfl)]

/-- 04 R105. An even number below 2^22 is a code address. -/
theorem badTarget_of_codeAddress {x : Word} (hx : x.toNat < 2 ^ 22) (heven : x.toNat % 2 = 0) : badTarget x = false := by
  have hhigh : bits x.toNat 63 22 = 0 := by rw [bits, Nat.div_eq_of_lt hx, Nat.zero_mod]
  have hlow : x.getLsbD 0 = false := by rw [BitVec.getLsbD, Nat.testBit_zero, heven]; rfl
  rw [badTarget, hhigh, hlow]
  rfl

theorem issue_of_readW {s t : State} {a : Reg} {x : Word} (h : s.readW a = (x, t)) : t.issue = s.issue := by
  rw [(readW_eq h).1]

section
variable {s t : State} {a : Reg} {x : Word} (hr : s.readW a = (x, t)) (hx : x.toNat < 2 ^ 22) (heven : x.toNat % 2 = 0)
include hr hx heven

theorem execCallr_of_codeAddress (sig : Byte) (hi : s.Issues [.src a, linkOpd]) :
    execCallr sig a s = s.goTo (t.setW s.issue.slot 29 (s.issue.npc.setWidth 64)) (.ofNat 22 x.toNat) := by
  rw [execCallr, issueHead_of_issues hi _ rfl (by simp) rfl]
  simp only [hr, badTarget_of_codeAddress hx heven, issue_of_readW hr, Bool.false_eq_true, if_false]
  rfl

theorem execRet_of_codeAddress (sig : Byte) (hi : s.Issues [.src a]) : execRet sig a s = s.goTo t (.ofNat 22 x.toNat) := by
  rw [execRet, issueHead_of_issues hi _ rfl (by simp) rfl]
  simp only [hr, badTarget_of_codeAddress hx heven, Bool.false_eq_true, if_false]
  rfl

end

/-! ## Loops -/

/-- 04 R107. The step table of a loop may be used: it is empty when INC is zero, and otherwise a line of the own slice that
no payload holds and that is not poisoned. -/
def StepsReadable (s : State) (inc : BitVec 22) (steps : List (BitVec 16)) : Prop :=
  inc = 0 ∧ steps = List.replicate 32 0 ∨
    inc ≠ 0 ∧ s.payloadHeld inc.toNat 64 = false ∧ ∃ off, s.checkLocal (inc.setWidth 64) 64 64 = .here off ∧
      s.poisoned (s.key off) 64 = false ∧ steps = lineAt s.rdMem (s.key off)

section
variable {s r u : State} {len : BitVec 5} {body : List LineHead}
  (hb : r.bodyHeads s.issue.slot (len.toNat + 1) s.issue.npc = .ok (body, u))
include hb

/-- Log entry 28. A loop of no pass goes on behind its body. -/
theorem startLoop_zero (sigb : Byte) (inc : BitVec 22) :
    s.startLoop r 0 sigb len inc = .next (u.modMe fun x => { x with pc := (body.getLast?.map (·.next)).getD x.pc }) := by
  unfold startLoop
  simp only [hb, if_neg (show ¬ 0xFFFFFFFF < 0 by decide), if_true]

/-- 04 R108. A body that may be one is captured as the innermost live loop. -/
theorem startLoop_captures {n : Nat} {inc : BitVec 22} {steps : List (BitVec 16)} (sigb : Byte) (hn : n < 2 ^ 32) (h0 : n ≠ 0)
    (hill : bodyIllegal body steps = false) (hlive : s.me.loops.length < 4) (hsteps : StepsReadable s inc steps) :
    s.startLoop r n sigb len inc = .next ((if inc = 0 then u else u.countReads 1).modMe fun x =>
      { x with loops := x.loops ++ [⟨body, n, 0, steps, sigb⟩] }) := by
  unfold startLoop
  simp only [hb, if_neg (show ¬ 0xFFFFFFFF < n by omega), if_neg h0]
  rcases hsteps with ⟨rfl, rfl⟩ | ⟨hinc, hheld, off, hplace, hclean, rfl⟩
  · simp only [ne_eq, not_true_eq_false, false_and, if_false, if_true, hill, Bool.false_eq_true, if_neg (Nat.not_le.mpr hlive)]
  · simp only [hheld, hplace, hclean, if_neg hinc, hill, Bool.false_eq_true, and_false, if_false, if_neg (Nat.not_le.mpr hlive)]

/-- What a loop of a count of 32 bits does, by its count. -/
theorem startLoop_cases {n : Nat} {sigb : Byte} {inc : BitVec 22} {steps : List (BitVec 16)} {res : Result}
    (h : res = s.startLoop r n sigb len inc) (hn : n < 2 ^ 32) :
    (n = 0 → res = .next (u.modMe fun x => { x with pc := (body.getLast?.map (·.next)).getD x.pc })) ∧
    (n ≠ 0 → bodyIllegal body steps = false ∧ s.me.loops.length < 4 ∧ StepsReadable s inc steps →
      res = .next ((if inc = 0 then u else u.countReads 1).modMe fun x =>
        { x with loops := x.loops ++ [⟨body, n, 0, steps, sigb⟩] })) := by
  subst h
  refine ⟨fun h0 => ?_, fun h0 ⟨hill, hlive, hsteps⟩ => startLoop_captures hb sigb hn h0 hill hlive hsteps⟩
  subst h0
  exact startLoop_zero hb sigb inc

end

/-- Settles O5: a transfer leads where `goTo` leads, and a loop does what `startLoop` does with the body that it finds. -/
theorem transferAndLoopResults : Obligations.TransferAndLoopResults := by
  unfold Obligations.TransferAndLoopResults
  refine ⟨fun s sig tgt cc a x t => ⟨decode_nop, fun hi => ⟨?_, fun htgt => ⟨?_, fun hcc => ?_, fun hcc => ?_, ?_⟩⟩,
    fun hi htgt => ?_, fun hr hx heven => ⟨fun hi => ?_, fun hi => ?_⟩⟩,
    fun s r u sig sigb len inc body steps hinc hb => ⟨fun cnt hi hr => ?_, fun a x hi hr hn => ?_⟩⟩
  · rw [exec_nop, execNop, issueHead_of_issues hi _ rfl (by simp) rfl]
  · exact goTo_cases (by rw [exec_br, execBr, transfer_of_issues hi htgt, branchTarget])
  · exact goTo_cases (by rw [exec_brc, execBrc, transfer_of_issues hi htgt, if_pos hcc, branchTarget])
  · rw [exec_brc, execBrc, transfer_of_issues hi htgt, hcc]
    rfl
  · exact goTo_cases (by rw [exec_jmp, execJmp, transfer_of_issues hi htgt])
  · exact goTo_cases (by rw [exec_call, execCall, transfer_of_issues hi htgt])
  · exact goTo_cases (by rw [exec_callr, execCallr_of_codeAddress hr hx heven sig hi])
  · exact goTo_cases (by rw [exec_ret, execRet_of_codeAddress hr hx heven sig hi])
  · subst hr
    refine startLoop_cases hb ?_ (Nat.lt_trans cnt.isLt (by decide))
    rw [exec_loopi, execLoopi, issueHead_of_issues hi _ rfl (by simp) (beq_iff_eq.mpr hinc)]
  · refine startLoop_cases hb ?_ hn
    rw [exec_loop, execLoop, issueHead_of_issues hi _ rfl (by simp) (beq_iff_eq.mpr hinc)]
    simp only [hr]

end Sys2Proof.Proofs
end

section
/-! SUPPORT. Proofs of the floating compares, the subnormal trap, the conversions and the long floating heads. -/

namespace Sys2Proof.Proofs

open Sys2Proof Sys2Proof.Machine Sys2Proof.Machine.State

/-! ## Compares -/

/-- The two-bit format field names FP32, FP16 and BF16 by its first three values (03 R74). -/
theorem fmt2_eq {fmt : BitVec 2} (hf : fmt.toNat ≤ 2) : fmt2 fmt = 8 + fmt.toNat := by
  unfold fmt2
  generalize fmt.toNat = n at hf ⊢
  match n, hf with
  | 0, _ => rfl
  | 1, _ => rfl
  | 2, _ => rfl

/-- 04 R114. A compare of operands that do not trap writes the flags of their relation and skips on them. -/
theorem execFcmp_of_operands {s t : State} {fmt : BitVec 2} {a b : Reg} {x y : Word} {u v : Val} {fu fv : FFlags} (k : BitVec 2)
    (cc : BitVec 3) (hf : fmt.toNat ≤ 2) (hi : s.Issues [.src a, .src b]) (hr : s.read2 a b = (x, y, t))
    (hu : operandF (8 + fmt.toNat) (swSUB s.rdSw) x.toNat = some (u, fu))
    (hv : operandF (8 + fmt.toNat) (swSUB s.rdSw) y.toNat = some (v, fv)) {f : NZCV} (hrel : relFlags (Val.cmp u v) = f) :
    execFcmp k cc fmt a b s = .next (((t.setFlags f).skipIf (f.holds cc) k).orSw (swFlags (fu ||| fv))) := by
  obtain ⟨hx, hy⟩ := read2_eq hr
  have hacc : s.Accepts (scalarFmt (fmt2 fmt)) = true := by
    simp [Accepts, scalarFmt, fmt2_eq hf]
    omega
  rw [execFcmp, issueHead_of_issues hi _ hacc (by simp) rfl]
  simp only [hx, hy, fmt2_eq hf, hu, hv, hrel, compare_eq_skipIf]

/-! ## The subnormal trap (02 R57) -/

/-- A subnormal of FP32, FP16 or BF16 is no operand when SUB = 0. -/
theorem operandF_of_subnormal {fmt : BitVec 3} (hf : fmt.toNat ≤ 2) {v : Nat} (h : isSubnormal (fmt3 fmt) v = true) :
    operandF (fmt3 fmt) false v = none := by
  have hflush : (fmtOf (fmt3 fmt)).flushable = true := by
    unfold fmt3
    generalize fmt.toNat = n at hf ⊢
    match n, hf with
    | 0, _ => rfl
    | 1, _ => rfl
    | 2, _ => rfl
  rw [operandF, if_pos ⟨Nat.le_add_right 8 _, hflush, h⟩]
  rfl

section
variable {s t : State} {fmt : BitVec 3} {d a b : Reg} {x y : Word} (hf : fmt.toNat ≤ 2) (hr : s.read2 a b = (x, y, t))
  (hnone : operandF (fmt3 fmt) (swSUB s.rdSw) x.toNat = none ∨ operandF (fmt3 fmt) (swSUB s.rdSw) y.toNat = none)
include hf hr hnone

theorem fop2_of_subnormal {rounded : Bool}
    (hi : s.Issues ([Opd.dst d, .src a, .src b] ++ if rounded then drawOpd s.rdSw else []))
    (f : Nat → Val → Val → Val × FFlags) : s.fop2 (fmt3 fmt) d a b f rounded = s.raise cSUBNORMAL := by
  obtain ⟨hx, hy⟩ := read2_eq hr
  rw [fop2, issueHead_of_issues hi _ (accepts_scalarFmt s hf) (by simp) rfl]
  simp only [hx, hy]
  split
  · next hu hv => simp [hu, hv] at hnone
  · rfl

theorem execFdiv_of_subnormal (la : BitVec 4) (hi : s.Issues ([Opd.dst d, .src a, .src b] ++ drawOpd s.rdSw)) :
    execFdiv fmt d a b la s = s.raise cSUBNORMAL := by
  obtain ⟨hx, hy⟩ := read2_eq hr
  rw [execFdiv, issueHead_of_issues hi _ (accepts_scalarFmt s hf) (by simp) rfl]
  simp only [hx, hy]
  split
  · next hu hv => simp [hu, hv] at hnone
  · rfl

end

/-- Settles O7: the relation of the operands decides a compare's flags, and where an operand traps, no head of two operands comes
to its effect. -/
theorem floatCompareAndSubnormalTraps : Obligations.FloatCompareAndSubnormalTraps := by
  unfold Obligations.FloatCompareAndSubnormalTraps
  refine ⟨fun s t k cc fmt a b x y u v fu fv hf _ hi hr hu hv => ?_, fun s t fmt d a b la x y hf hsub hr hxy => ?_⟩
  · have compares {f : NZCV} (hrel : relFlags (Val.cmp u v) = f) :=
      (exec_fcmp k cc fmt a b s).trans (execFcmp_of_operands k cc hf hi hr hu hv hrel)
    exact ⟨fun h => compares (by rw [h]; rfl), fun h => compares (by rw [h]; rfl), fun h => compares (by rw [h]; rfl),
      fun h => compares (by rw [h]; rfl)⟩
  · have hnone : operandF (fmt3 fmt) (swSUB s.rdSw) x.toNat = none ∨ operandF (fmt3 fmt) (swSUB s.rdSw) y.toNat = none := by
      rw [hsub]
      exact hxy.imp (operandF_of_subnormal hf) (operandF_of_subnormal hf)
    refine ⟨fun hi => ⟨?_, ?_, ?_, ?_⟩, fun hi => ⟨?_, ?_⟩⟩
    · exact (exec_fadd ..).trans (fop2_of_subnormal hf hr hnone (rounded := true) hi Val.add)
    · exact (exec_fsub ..).trans (fop2_of_subnormal hf hr hnone (rounded := true) hi fun m x y => Val.add m x y.neg)
    · exact (exec_fmul ..).trans (fop2_of_subnormal hf hr hnone (rounded := true) hi fun _ x y => Val.mul x y)
    · exact (exec_fdiv ..).trans (execFdiv_of_subnormal hf hr hnone la hi)
    · exact (exec_fmin ..).trans (fop2_of_subnormal hf hr hnone (rounded := false) hi fun _ x y => (Val.pickMin false x y, 0))
    · exact (exec_fmax ..).trans (fop2_of_subnormal hf hr hnone (rounded := false) hi fun _ x y => (Val.pickMin true x y, 0))

/-! ## Conversions and the key-hash -/

/-- 04 R115. The wafer has every pair of the codes 0x00 to 0x0F. -/
theorem execFcvt_of_convert {s t : State} {src dst : BitVec 5} {d a : Reg} {x : Word} {r : Nat} {f : FFlags}
    (hsrc : src.toNat < 16) (hdst : dst.toNat < 16) (hi : s.Issues ([Opd.dst d, .src a] ++ drawOpd s.rdSw))
    (hr : s.readW a = (x, t))
    (hc : convert src.toNat dst.toNat (swSUB s.rdSw) (s.rnd 0) (x.toNat % 2 ^ fmtWidth src.toNat) = some (r, f)) :
    execFcvt src dst d a s = .next ((t.writeW d (resultWord dst.toNat r)).orSw (swFlags f)) := by
  rw [execFcvt, issueHead_of_issues hi _ (by simp [Accepts, hsrc, hdst]) (by simp) rfl]
  simp only [hr, hc]

/-- What a source pops from its port changes no seed. -/
theorem seed_of_readW {s t : State} {a : Reg} {x : Word} (h : s.readW a = (x, t)) : t.seed = s.seed := by
  rw [(readW_eq h).1]
  rfl

theorem seed_of_read2 {s t : State} {a b : Reg} {x y : Word} (h : s.read2 a b = (x, y, t)) : t.seed = s.seed := by
  obtain ⟨hx, hy⟩ := read2_eq h
  exact (seed_of_readW hy).trans (seed_of_readW (Prod.ext hx rfl))

theorem execRndk_of_issues {s t : State} {d a b : Reg} {x y : Word} (hi : s.Issues [.dst d, .src a, .src b])
    (hr : s.read2 a b = (x, y, t)) : execRndk d a b s = .next (t.writeW d (keyHash s.seed (x + y))) := by
  obtain ⟨hx, hy⟩ := read2_eq hr
  rw [execRndk, issueHead_of_issues hi _ rfl (by simp) rfl]
  simp only [hx, hy, seed_of_read2 hr]

/-! ## Long floating heads (04 R116) -/

/-- A value is rounded once to the format; the window that opens now writes it, and ORs in its flags. -/
def roundedLater (s : State) (c : Nat) (la : BitVec 4) (n : Nat) (d : Reg) (t : State) (r : Val × FFlags) (f : FFlags) : Result :=
  .next (t.longResult la n [.reg d (w64 (roundF c (s.rnd 0) r.1).1), .swOr (swFlags (f ||| r.2 ||| (roundF c (s.rnd 0) r.1).2))])

/-- The first latency is FP32's. -/
theorem fpLatency_fmt3 (fmt : BitVec 3) (n m : Nat) : fpLatency (fmt3 fmt) n m = if fmt = 0 then n else m := by
  have h : fmt3 fmt = cFP32 ↔ fmt = 0 := by
    unfold fmt3
    show 8 + fmt.toNat = 8 ↔ fmt = 0
    bv_omega
  simp only [fpLatency, h]

section
variable {s t : State} {fmt : BitVec 3} {d a b : Reg} {x y : Word} {u v : Val} {fu fv : FFlags} (hf : fmt.toNat ≤ 2)
  (hw : s.me.windows.length < 4) (hu : operandF (fmt3 fmt) (swSUB s.rdSw) x.toNat = some (u, fu)) (la : BitVec 4)
include hf hw hu

theorem execFdiv_of_operands (hv : operandF (fmt3 fmt) (swSUB s.rdSw) y.toNat = some (v, fv)) (hr : s.read2 a b = (x, y, t))
    (hi : s.Issues ([Opd.dst d, .src a, .src b] ++ drawOpd s.rdSw)) :
    execFdiv fmt d a b la s = roundedLater s (fmt3 fmt) la (if fmt = 0 then 24 else 16) d t (Val.div u v) (fu ||| fv) := by
  obtain ⟨hx, hy⟩ := read2_eq hr
  rw [execFdiv, issueHead_of_issues hi _ (accepts_scalarFmt s hf) (by simp) rfl]
  simp only [hx, hy, hu, hv, flong, windowsFull_of_free hw, fpLatency_fmt3, Bool.false_eq_true, if_false, roundedLater]

theorem execFsqrt_of_operand (hr : s.readW a = (x, t)) (hi : s.Issues ([Opd.dst d, .src a] ++ drawOpd s.rdSw)) :
    execFsqrt fmt d a la s = roundedLater s (fmt3 fmt) la (if fmt = 0 then 26 else 18) d t (Val.sqrt u) fu := by
  rw [execFsqrt, issueHead_of_issues hi _ (accepts_scalarFmt s hf) (by simp) rfl]
  simp only [hr, hu, flong, windowsFull_of_free hw, fpLatency_fmt3, Bool.false_eq_true, if_false, roundedLater]

end

/-- Settles O8: each head comes to its own value because it issues, the wafer has its formats and, for the long heads, a window
is free. -/
theorem conversionHashAndLongFloatResults : Obligations.ConversionHashAndLongFloatResults := by
  unfold Obligations.ConversionHashAndLongFloatResults
  refine ⟨fun s t d a b x y => ⟨fun src dst r f hsrc hdst hi hr hc => ?_, fun hi hr => ?_⟩, ?_⟩
  · exact (exec_fcvt ..).trans (execFcvt_of_convert hsrc hdst hi hr hc)
  · exact (exec_rndk ..).trans (execRndk_of_issues hi hr)
  · intro s t fmt d a b la x y u v fu fv hf hw c long hu
    exact ⟨fun hv hr hi => (exec_fdiv ..).trans (execFdiv_of_operands hf hw hu la hv hr hi),
      fun hr hi => (exec_fsqrt ..).trans (execFsqrt_of_operand hf hw hu la hr hi)⟩

end Sys2Proof.Proofs
end

section
/-! SUPPORT. Proofs of the queries and of the writes of system registers. -/

namespace Sys2Proof.Proofs

open Sys2Proof Sys2Proof.Machine Sys2Proof.Machine.State

/-! ## Queries -/

section
variable {s : State} {d : Reg} (hi : s.Issues [.dst d])
include hi

/-- 04 R118. The last position value counts the tiles of the stand that the grade holds. -/
theorem exec_topo_tiles : exec (.topo d 7) s
    = .next (s.writeW d (w64 ((List.range s.rim.held).countP fun t => inRect s.standRect t))) := by
  rw [exec_topo, execTopo, issueHead_of_issues hi _ rfl (by simp) (show decide ((7 : BitVec 22).toNat < 8) = true from rfl),
    List.countP_eq_length_filter]
  rfl

theorem exec_capr_gradeB : exec (.capr d 1) s = .next (s.writeW d (w64 (if s.rim.gradeB then 1 else 0))) := by
  rw [exec_capr, execCapr, issueHead_of_issues hi _ rfl (by simp) (show decide ((1 : BitVec 22).toNat < 64) = true from rfl)]
  cases s.rim.gradeB <;> rfl

/-- 04 R119. The words that are not assigned read zero. -/
theorem exec_capr_unassigned {n : BitVec 22} (hlo : 9 ≤ n.toNat) (hhi : n.toNat < 64) :
    exec (.capr d n) s = .next (s.writeW d (w64 0)) := by
  rw [exec_capr, execCapr, issueHead_of_issues hi _ rfl (by simp) (decide_eq_true hhi)]
  dsimp only
  split
  case h_10 => rfl
  all_goals omega

theorem exec_perfr_of_issues {n : BitVec 22} (hn : n.toNat < 64) :
    exec (.perfr d n) s = .next (s.writeW d s.core.perf[n.toNat]) := by
  rw [exec_perfr, execPerfr, issueHead_of_issues hi _ rfl (by simp) (decide_eq_true hn), dif_pos hn]

section
variable {n : BitVec 12} {v : Word}

/-- 04 R120. A register that the tile itself sets is read as it stands. -/
theorem exec_srd_inside (hv : s.sysValue n.toNat = some (v, false)) : exec (.srd d n) s = .next (s.writeW d v) := by
  rw [exec_srd, execSrd, issueHead_of_issues hi _ rfl (by simp) (by rw [hv]; rfl)]
  simp only [hv, Bool.false_eq_true, if_false]

/-- 19 R449. A register that an agent outside the tile sets is logged as it is read. -/
theorem exec_srd_outside (hv : s.sysValue n.toNat = some (v, true)) (hreplay : s.tile.replay = []) :
    exec (.srd d n) s = .next ((s.record 8 s.core.num s.issue.slot.val [v] none).writeW d v) := by
  rw [exec_srd, execSrd, issueHead_of_issues hi _ rfl (by simp) (by rw [hv]; rfl)]
  simp only [hv, if_true, valueRead, hreplay]

end

end

/-! ## What a write leaves in a system register -/

theorem bits_low (v hi : Nat) : bits v hi 0 = v % 2 ^ (hi + 1) := by rw [bits, Nat.pow_zero, Nat.div_one, Nat.sub_zero]

theorem bitsOf_zero (mask v : Word) : bitsOf mask v 0 = v &&& mask := by simp [bitsOf]

/-- 01 R26. RMAX of `sys.droop` is not written 0. -/
theorem sysWrite_droop (s : State) (v : Word) :
    s.sysWrite 0x010 v = { s with core := { s.core with droop := (if v.toNat % 4 = 0 then bitsOf 0xFF00 v s.core.droop
      else bitsOf 0xFF03 v s.core.droop) } } := by
  simp only [State.sysWrite, droopWrite, bits_low, Nat.reduceAdd, Nat.reducePow]

theorem sysWrite_wdl (s : State) (v : Word) :
    s.sysWrite 0x041 v = if 16 ≤ v.toNat % 32 ∧ v.toNat % 32 ≤ 30 then
      { s with tile := { s.tile with wdl := .ofNat 5 (v.toNat % 32) } } else s := by
  simp only [State.sysWrite, bits_low, Nat.reduceAdd, Nat.reducePow]

/-- 07 R176. The trap vectors are sixteen registers from 0x080 on. -/
theorem sysWrite_vector (s : State) {i : Nat} (hi : i < 16) (v : Word) :
    s.sysWrite (0x080 + i) v = { s with core := { s.core with thv := s.core.thv.set i (v &&& vectorMask) } } := by
  unfold State.sysWrite
  split
  case h_8 => simp only [dif_pos (show 0x080 ≤ 0x080 + i ∧ 0x080 + i < 0x090 by omega), Nat.add_sub_cancel_left]
  all_goals omega

/-- 17 R410. An epoch begins only with a write that sets the highest bit. -/
theorem sysWrite_tierctl {v : Word} (s : State) (hv : v.getLsbD 63 = false) :
    s.sysWrite 0x141 v = s.modStand fun x => { x with tierctl := v &&& 0x8000FFFF000FFFFF } := by
  simp only [State.sysWrite, hv, Bool.false_and, Bool.false_eq_true, if_false, bitsOf_zero]

theorem sysWrite_jshard (s : State) (v : Word) :
    s.sysWrite 0x210 v = s.modStand fun x => { x with jshard := v &&& 0xFFFFF1FFFFFFFFFF } := by
  simp only [State.sysWrite, bitsOf_zero]

/-- The registers that are read only, or set by agents outside the tile, have no PRV field, and no write changes them. -/
theorem sysWrite_of_readOnly {n : BitVec 12} (h : n ∈ ([0x061, 0x062, 0x065, 0x100, 0x101, 0x102, 0x103, 0x142, 0x143, 0x144,
    0x200, 0x201, 0x202, 0x212, 0x221, 0x222, 0x230] : List (BitVec 12))) (s t : State) (v : Word) :
    sysPrivileged n.toNat = false ∧ (s.sysValue n.toNat).isSome = true ∧ t.sysWrite n.toNat v = t := by
  simp only [List.mem_cons, List.not_mem_nil, or_false] at h
  rcases h with rfl | rfl | rfl | rfl | rfl | rfl | rfl | rfl | rfl | rfl | rfl | rfl | rfl | rfl | rfl | rfl | rfl <;>
    exact ⟨rfl, rfl, rfl⟩

/-! ## Settling -/

section
variable {s t : State} {a : Reg} {v : Word} (hi : s.Issues [.src a]) (hr : s.readW a = (v, t)) (hs : s.isSpeculative = false)
include hi hr hs

/-- 04 R120. A strand that may write a register writes it. -/
theorem exec_swr_of_issues {n : BitVec 12} {u : State} (hp : sysPrivileged n.toNat = true → s.me.priv = true)
    (hn : (s.sysValue n.toNat).isSome = true) (hu : t.sysWrite n.toNat v = u) : exec (.swr a n) s = .next u := by
  rw [exec_swr, execSwr, writes_of_issues hi hr hs hp hn, hu]

theorem exec_swr_vector (hp : s.me.priv = true) (g : BitVec 4) : exec (.swr a (0x080 + g.setWidth 12)) s
    = .next { t with core := { t.core with thv := t.core.thv.set g.toFin (v &&& 0xC03FFFFF003FFFFF) } } := by
  have hg := g.isLt
  have hn : (0x080 + g.setWidth 12).toNat = 0x080 + g.toNat := by bv_omega
  have hprv : sysPrivileged (0x080 + g.setWidth 12).toNat = true := by
    rw [hn]
    simp [sysPrivileged]
    omega
  refine exec_swr_of_issues hi hr hs (fun _ => hp) (isSome_sysValue_of_sysPrivileged hprv s) ?_
  rw [hn, sysWrite_vector t hg]
  rfl

theorem exec_sysSwWrite_of_issues (hm : v.toNat / 2 ^ 21 % 8 ≤ 4) :
    exec (.sysSwWrite a) s = .next (t.setSw (BitVec.allOnes 64) (v &&& 0x000003FFBFFFFF0F)) := by
  have hlegal : swIllegal v = false := decide_eq_false (Nat.not_lt.mpr hm)
  rw [exec_sysSwWrite, execSysSwWrite, writes_of_issues hi hr hs (by simp) rfl, hlegal]
  rfl

end

/-- Settles O9: a query delivers the word of its number, and a write by a strand that may make it leaves in the register what the
register can hold. -/
theorem queryAndSystemWriteResults : Obligations.QueryAndSystemWriteResults := by
  unfold Obligations.QueryAndSystemWriteResults
  refine ⟨fun s d hi => ?_, fun s t a v hi hr hs => ⟨fun hp => ?_, fun n hn => ?_⟩,
    fun s t a v hi hr hs => ⟨?_, ?_, ?_, fun hp => ?_⟩⟩
  -- The word of a number is that of its case in the meaning of `TOPO` or `CAPR`.
  · have position (n : BitVec 22) (hn : n.toNat < 8) := (exec_topo d n s).trans
      (issueHead_of_issues (formats := []) (privileged := false) hi _ rfl (by simp) (decide_eq_true hn))
    have capability (n : BitVec 22) (hn : n.toNat < 64) := (exec_capr d n s).trans
      (issueHead_of_issues (formats := []) (privileged := false) hi _ rfl (by simp) (decide_eq_true hn))
    exact ⟨position 0 (by decide), position 1 (by decide), position 2 (by decide), position 3 (by decide),
      position 4 (by decide), position 5 (by decide), position 6 (by decide), exec_topo_tiles hi, capability 0 (by decide), exec_capr_gradeB hi,
      capability 2 (by decide), capability 3 (by decide), capability 4 (by decide), capability 5 (by decide),
      capability 6 (by decide), capability 7 (by decide), capability 8 (by decide), fun n => exec_capr_unassigned hi, fun n => exec_perfr_of_issues hi,
      fun n v => exec_srd_inside hi, fun n v => exec_srd_outside hi⟩
  · have writes {n : BitVec 12} {u : State} (hn : sysPrivileged n.toNat = true) (hu : t.sysWrite n.toNat v = u) :
        exec (.swr a n) s = .next u :=
      exec_swr_of_issues hi hr hs (fun _ => hp) (isSome_sysValue_of_sysPrivileged hn s) hu
    exact ⟨writes rfl (sysWrite_droop t v), writes rfl (sysWrite_wdl t v), writes rfl rfl, writes rfl rfl,
      fun hv => writes rfl (sysWrite_tierctl t hv), writes rfl (sysWrite_jshard t v), writes rfl rfl,
      exec_swr_vector hi hr hs hp⟩
  · obtain ⟨hprv, hsome, hkeeps⟩ := sysWrite_of_readOnly hn s t v
    exact exec_swr_of_issues hi hr hs (by simp [hprv]) hsome hkeeps
  · exact exec_sysSwWrite_of_issues hi hr hs
  · rw [exec_sseedWrite, execSseedWrite, writes_of_issues hi hr hs (by simp) rfl]
    rfl
  · rw [exec_sseedWrite, execSseedWrite, writes_of_issues hi hr hs (by simp) rfl]
    rfl
  · refine ⟨?_, ?_, ?_⟩
    · rw [exec_bankpmWrite, execBankpmWrite, writes_of_issues hi hr hs (fun _ => hp) rfl, bits_low]
      rfl
    · rw [exec_nivWrite, execNivWrite, writes_of_issues hi hr hs (fun _ => hp) rfl]
      simp only [bits_low, Nat.reduceAdd, Nat.reducePow]
    · rw [exec_ptrootWrite, execPtrootWrite, writes_of_issues hi hr hs (fun _ => hp) rfl]

end Sys2Proof.Proofs
end

section
/-! SUPPORT. Proofs of the jet heads: elements laid side by side, the groups of a span, and what a floating vector head delivers at
every jet order. -/

namespace Sys2Proof.Proofs

open Sys2Proof Sys2Proof.Machine Sys2Proof.Machine.State

/-! ## Elements laid side by side -/

section
variable {w n : Nat}

theorem testBit_elemAt (v i j : Nat) : (elemAt w v i).testBit j = (decide (j < w) && v.testBit (w * i + j)) := by
  rw [elemAt, Nat.testBit_mod_two_pow, Nat.testBit_shiftRight]

theorem testBit_shiftLeft_add {k lo : Nat} (hlo : lo < 2 ^ k) (hi j : Nat) :
    (hi <<< k + lo).testBit j = if j < k then lo.testBit j else hi.testBit (j - k) := by
  rw [Nat.shiftLeft_eq, Nat.mul_comm, Nat.testBit_two_pow_mul_add _ hlo]

theorem elemAt_shiftLeft_add_low {lo i : Nat} (hlo : lo < 2 ^ (w * n)) (hi : Nat) (h : i < n) :
    elemAt w (hi <<< (w * n) + lo) i = elemAt w lo i := by
  refine Nat.eq_of_testBit_eq fun j => ?_
  rw [testBit_elemAt, testBit_elemAt, testBit_shiftLeft_add hlo]
  by_cases hj : j < w
  · have hin : w * i + j < w * n := calc
      w * i + j < w * (i + 1) := by rw [Nat.mul_succ]; omega
      _ ≤ w * n := Nat.mul_le_mul_left w h
    rw [if_pos hin]
  · simp [hj]

theorem elemAt_shiftLeft_add_high {lo : Nat} (hlo : lo < 2 ^ (w * n)) (hi i : Nat) :
    elemAt w (hi <<< (w * n) + lo) (n + i) = elemAt w hi i := by
  refine Nat.eq_of_testBit_eq fun j => ?_
  have hj : w * (n + i) + j = w * n + (w * i + j) := by rw [Nat.mul_add, Nat.add_assoc]
  rw [testBit_elemAt, testBit_elemAt, testBit_shiftLeft_add hlo, hj, if_neg (by omega), Nat.add_sub_cancel_left]

theorem elemAt_zero_of_lt {v : Nat} (h : v < 2 ^ w) : elemAt w v 0 = v := by
  rw [elemAt, Nat.mul_zero, Nat.shiftRight_zero, Nat.mod_eq_of_lt h]

end

/-- Elements that follow elements: the higher ones are counted on from the lower ones (05 R124). -/
theorem lanesAre_append {w n m : Nat} {on : Nat → Bool} {f : Nat → Nat} {v e v' e' : Nat} (low : LanesAre w n on f v e)
    (hv : v < 2 ^ (w * n)) (he : e < 2 ^ (w * n)) (high : LanesAre w m (fun i => on (n + i)) (fun i => f (n + i)) v' e') :
    LanesAre w (n + m) on f (v' <<< (w * n) + v) (e' <<< (w * n) + e) := by
  intro i hi
  by_cases h : i < n
  · rw [elemAt_shiftLeft_add_low hv _ h, elemAt_shiftLeft_add_low he _ h]
    exact low i h
  · obtain ⟨k, rfl⟩ := Nat.exists_eq_add_of_le (Nat.le_of_not_lt h)
    rw [elemAt_shiftLeft_add_high hv, elemAt_shiftLeft_add_high he]
    exact high k (by omega)

theorem lanesAre_congr {w n : Nat} {on on' : Nat → Bool} {f f' : Nat → Nat} {v e : Nat} (h : LanesAre w n on f v e)
    (hon : ∀ i < n, on i = on' i) (hf : ∀ i < n, f i = f' i) : LanesAre w n on' f' v e := fun i hi => by
  rw [← hon i hi, ← hf i hi]
  exact h i hi

theorem shiftLeft_add_lt {a b hi lo : Nat} (hhi : hi < 2 ^ a) (hlo : lo < 2 ^ b) : hi <<< b + lo < 2 ^ (a + b) := calc
  hi <<< b + lo < (hi + 1) * 2 ^ b := by rw [Nat.shiftLeft_eq, Nat.succ_mul]; omega
  _ ≤ 2 ^ (a + b) := by rw [Nat.pow_add]; exact Nat.mul_le_mul_right _ hhi

theorem layElems_lt (w : Nat) (xs : List (Option Nat)) :
    (layElems w xs).1 < 2 ^ (w * xs.length) ∧ (layElems w xs).2 < 2 ^ (w * xs.length) := by
  induction xs with
  | nil => simp [layElems]
  | cons x xs ih =>
    obtain ⟨hv, hm⟩ := ih
    rw [List.length_cons, Nat.mul_succ]
    cases x with
    | none => exact ⟨shiftLeft_add_lt hv (Nat.two_pow_pos w), shiftLeft_add_lt hm (Nat.two_pow_pos w)⟩
    | some c =>
      exact ⟨shiftLeft_add_lt hv (Nat.mod_lt c (Nat.two_pow_pos w)),
        shiftLeft_add_lt hm (Nat.sub_lt (Nat.two_pow_pos w) Nat.one_pos)⟩

/-- Elements laid out in order stand each in its place, and the mask covers those that are written. -/
theorem lanesAre_layElems (w : Nat) (xs : List (Option Nat)) :
    LanesAre w xs.length (fun i => (xs.getD i none).isSome) (fun i => (xs.getD i none).getD 0) (layElems w xs).1
      (layElems w xs).2 := by
  induction xs with
  | nil => exact fun i hi => absurd hi (Nat.not_lt_zero i)
  | cons x xs ih =>
    have tail (i : Nat) : xs.getD i none = (x :: xs).getD (1 + i) none := by rw [Nat.add_comm]; rfl
    have followedBy {v e : Nat} (low : LanesAre w 1 (fun i => ((x :: xs).getD i none).isSome)
        (fun i => ((x :: xs).getD i none).getD 0) v e) (hv : v < 2 ^ (w * 1)) (he : e < 2 ^ (w * 1)) :=
      lanesAre_append low hv he (lanesAre_congr ih (fun i _ => by rw [tail]) fun i _ => by rw [tail])
    rw [List.length_cons, Nat.add_comm]
    rw [Nat.mul_one] at followedBy
    cases x with
    | none =>
      refine followedBy (v := 0) (e := 0) (fun i hi => ?_) (Nat.two_pow_pos w) (Nat.two_pow_pos w)
      obtain rfl : i = 0 := by omega
      simp [elemAt]
    | some c =>
      have hc : c % 2 ^ w < 2 ^ w := Nat.mod_lt c (Nat.two_pow_pos w)
      have hones : 2 ^ w - 1 < 2 ^ w := Nat.sub_lt (Nat.two_pow_pos w) Nat.one_pos
      refine followedBy (fun i hi => ?_) hc hones
      obtain rfl : i = 0 := by omega
      simp [elemAt_zero_of_lt hc, elemAt_zero_of_lt hones]

/-! ## The groups of a span (06 R147, R149) -/

theorem groupSize_pos (jo : Nat) : 0 < groupSize jo := Nat.two_pow_pos _

/-- The elements of a group are enabled together. -/
theorem groupOn_add (vm : Byte) (c g : Nat) {jo k : Nat} (hk : k < groupSize jo) :
    groupOn vm c jo (g * groupSize jo + k) = laneOn vm (fmtWidth c) (g * groupSize jo % perReg c) := by
  rw [groupOn, Nat.add_comm, Nat.add_mul_div_right _ _ (groupSize_pos jo), Nat.div_eq_of_lt hk, Nat.zero_add]

theorem groupOn_first (vm : Byte) (c jo g : Nat) :
    groupOn vm c jo (g * groupSize jo) = laneOn vm (fmtWidth c) (g * groupSize jo % perReg c) := by
  rw [← groupOn_add vm c g (groupSize_pos jo), Nat.add_zero]

/-- The code of element i of a span whose group g has the coefficients `codes g`; zero above them. -/
def groupCode (jo : Nat) (codes : Nat → List Nat) (i : Nat) : Nat := (codes (i / groupSize jo)).getD (i % groupSize jo) 0

theorem groupCode_add (codes : Nat → List Nat) (g : Nat) {jo k : Nat} (hk : k < groupSize jo) :
    groupCode jo codes (g * groupSize jo + k) = (codes g).getD k 0 := by
  rw [groupCode, Nat.add_comm, Nat.add_mul_div_right _ _ (groupSize_pos jo), Nat.div_eq_of_lt hk, Nat.zero_add,
    Nat.add_mul_mod_self_right, Nat.mod_eq_of_lt hk]

/-- The enabled groups among the n groups from g on. -/
def enabledGroups (vm : Byte) (c jo g n : Nat) : List Nat :=
  (List.range' g n).filter fun i => groupOn vm c jo (i * groupSize jo)

theorem enabledGroups_succ (vm : Byte) (c jo g n : Nat) : enabledGroups vm c jo g (n + 1)
    = if groupOn vm c jo (g * groupSize jo) then g :: enabledGroups vm c jo (g + 1) n else enabledGroups vm c jo (g + 1) n := by
  rw [enabledGroups, List.range'_succ, List.filter_cons]
  rfl

theorem foldl_or_cons {n : Nat} (x : BitVec n) (xs : List (BitVec n)) :
    (x :: xs).foldl (· ||| ·) 0 = x ||| xs.foldl (· ||| ·) 0 := by
  rw [List.foldl_cons, BitVec.or_comm, List.foldl_assoc]

theorem anyFlags_cons (f : FFlags) (fs : List FFlags) : anyFlags (f :: fs) = f ||| anyFlags fs := foldl_or_cons f fs

/-- What the n groups from g on yield when group i has the coefficients `codes i` and their flags `flags i`. -/
structure GroupsAre (vm : Byte) (c jo : Nat) (codes : Nat → List Nat) (flags : Nat → List FFlags) (g n : Nat)
    (o : GroupsOut) : Prop where
  lanes_are : LanesAre (fmtWidth c) (n * groupSize jo) (fun i => groupOn vm c jo (g * groupSize jo + i))
    (fun i => groupCode jo codes (g * groupSize jo + i)) o.value o.mask
  flags_eq : o.flags = anyFlags ((enabledGroups vm c jo g n).map fun i => anyFlags (flags i))
  jf_eq : o.jf = ((enabledGroups vm c jo g n).map fun i => jfOf 0 (flags i)).foldl (· ||| ·) 0

section
variable {vm : Byte} {c jo g n : Nat} {codes : Nat → List Nat} {flags : Nat → List FFlags} {rest : GroupsOut}

/-- One more group below the others: its elements come first. -/
theorem GroupsAre.lanes_cons (h : GroupsAre vm c jo codes flags (g + 1) n rest) {v m : Nat}
    (hv : v < 2 ^ (fmtWidth c * groupSize jo)) (hm : m < 2 ^ (fmtWidth c * groupSize jo))
    (low : LanesAre (fmtWidth c) (groupSize jo) (fun _ => groupOn vm c jo (g * groupSize jo)) (fun k => (codes g).getD k 0) v m) :
    LanesAre (fmtWidth c) ((n + 1) * groupSize jo) (fun i => groupOn vm c jo (g * groupSize jo + i))
      (fun i => groupCode jo codes (g * groupSize jo + i)) (rest.value <<< (fmtWidth c * groupSize jo) + v)
      (rest.mask <<< (fmtWidth c * groupSize jo) + m) := by
  have next (i : Nat) : (g + 1) * groupSize jo + i = g * groupSize jo + (groupSize jo + i) := by rw [Nat.succ_mul, Nat.add_assoc]
  rw [Nat.succ_mul, Nat.add_comm]
  refine lanesAre_append (lanesAre_congr low (fun k hk => ?_) fun k hk => ?_) hv hm
    (lanesAre_congr h.lanes_are (fun i _ => by rw [next]) fun i _ => by rw [next])
  · rw [groupOn_first, groupOn_add vm c g hk]
  · rw [groupCode_add codes g hk]

/-- A group that is not enabled leaves its elements, and raises nothing. -/
theorem GroupsAre.cons_disabled (h : GroupsAre vm c jo codes flags (g + 1) n rest)
    (hoff : groupOn vm c jo (g * groupSize jo) = false) : GroupsAre vm c jo codes flags g (n + 1)
      { rest with value := rest.value <<< (fmtWidth c * groupSize jo), mask := rest.mask <<< (fmtWidth c * groupSize jo) } := by
  have skip : enabledGroups vm c jo g (n + 1) = enabledGroups vm c jo (g + 1) n := by rw [enabledGroups_succ, hoff]; rfl
  refine ⟨h.lanes_cons (v := 0) (m := 0) (Nat.two_pow_pos _) (Nat.two_pow_pos _) fun k _ => ?_, ?_, ?_⟩
  · simp [hoff, elemAt]
  · rw [skip, ← h.flags_eq]
  · rw [skip, ← h.jf_eq]

/-- The coefficients of an enabled group stand in its elements, zeros above them. -/
theorem GroupsAre.cons_enabled (h : GroupsAre vm c jo codes flags (g + 1) n rest)
    (hon : groupOn vm c jo (g * groupSize jo) = true) {v m : Nat}
    (hlay : layElems (fmtWidth c) ((List.range (groupSize jo)).map fun k => some ((codes g).getD k 0)) = (v, m)) :
    GroupsAre vm c jo codes flags g (n + 1) ⟨rest.value <<< (fmtWidth c * groupSize jo) + v,
      rest.mask <<< (fmtWidth c * groupSize jo) + m, anyFlags (flags g) ||| rest.flags, jfOf 0 (flags g) ||| rest.jf⟩ := by
  have take : enabledGroups vm c jo g (n + 1) = g :: enabledGroups vm c jo (g + 1) n := by rw [enabledGroups_succ, if_pos hon]
  have fits := layElems_lt (fmtWidth c) ((List.range (groupSize jo)).map fun k => some ((codes g).getD k 0))
  have lanes := lanesAre_layElems (fmtWidth c) ((List.range (groupSize jo)).map fun k => some ((codes g).getD k 0))
  rw [List.length_map, List.length_range, hlay] at fits lanes
  refine ⟨h.lanes_cons fits.1 fits.2 (lanesAre_congr lanes (fun k hk => ?_) fun k hk => ?_), ?_, ?_⟩
  · simp [hon, hk]
  · simp [hk]
  · rw [take, List.map_cons, anyFlags_cons, ← h.flags_eq]
  · rw [take, List.map_cons, foldl_or_cons, ← h.jf_eq]

/-- 06 R147, R149. When the function answers for every enabled group, all groups yield what it answers. -/
theorem overGroups_of_enabled {f : Nat → Option (List Nat × List FFlags)} (n g : Nat)
    (hf : ∀ i, g ≤ i → i < g + n → groupOn vm c jo (i * groupSize jo) = true →
      f (i * groupSize jo) = some (codes i, flags i)) :
    ∃ o, overGroups c jo vm f (List.range' g n) = some o ∧ GroupsAre vm c jo codes flags g n o := by
  induction n generalizing g with
  | zero => exact ⟨⟨0, 0, 0, 0⟩, rfl, fun i hi => absurd hi (by simp), rfl, rfl⟩
  | succ n ih =>
    obtain ⟨rest, hrest, h⟩ := ih (g + 1) fun i hlo hhi => hf i (by omega) (by omega)
    cases hg : groupOn vm c jo (g * groupSize jo) with
    | false =>
      refine ⟨_, ?_, h.cons_disabled hg⟩
      rw [groupOn_first] at hg
      simp [List.range'_succ, overGroups, hrest, hg]
    | true =>
      refine ⟨_, ?_, h.cons_enabled hg rfl⟩
      have hfg := hf g (Nat.le_refl g) (by omega) hg
      rw [groupOn_first] at hg
      simp [List.range'_succ, overGroups, hrest, hg, hfg]

/-- 06 R147, R149. The same for all groups of a span. -/
theorem overGroups_range_of_enabled {f : Nat → Option (List Nat × List FFlags)} (n : Nat)
    (hf : ∀ i < n, groupOn vm c jo (i * groupSize jo) = true → f (i * groupSize jo) = some (codes i, flags i)) :
    ∃ o, overGroups c jo vm f (List.range n) = some o ∧
      LanesAre (fmtWidth c) (n * groupSize jo) (groupOn vm c jo) (groupCode jo codes) o.value o.mask ∧
      o.flags = anyFlags (((List.range n).filter fun i => groupOn vm c jo (i * groupSize jo)).map fun i => anyFlags (flags i)) ∧
      o.jf = (((List.range n).filter fun i => groupOn vm c jo (i * groupSize jo)).map fun i => jfOf 0 (flags i)).foldl (· ||| ·) 0 := by
  obtain ⟨o, ho, hlanes, hflags, hjf⟩ := overGroups_of_enabled (codes := codes) (flags := flags) n 0 fun i _ hi => hf i (by omega)
  rw [enabledGroups, ← List.range_eq_range'] at hflags hjf
  rw [← List.range_eq_range'] at ho
  exact ⟨o, ho, by simpa only [Nat.zero_mul, Nat.zero_add] using hlanes, hflags, hjf⟩

end

/-! ## The floating vector heads -/

/-- 06 R166. Below JO 8 the writes are made at once. -/
theorem deliver_short (s₀ s : State) {jo : Nat} (h : jo < 8) (la : BitVec 4) (lat : Nat × Nat) (ws : List WinWrite) :
    s₀.deliver s jo la lat ws = .next (ws.foldl applyWrite s) := if_pos h

/-- 06 R166. From JO 8 on they are those of a window. -/
theorem deliver_long {s₀ : State} (s : State) {jo : Nat} (h : 8 ≤ jo) (hw : s₀.me.windows.length < 4) (la : BitVec 4)
    (lat : Nat × Nat) (ws : List WinWrite) :
    s₀.deliver s jo la lat ws = .next (s.longResult la (if jo < 16 then lat.1 else lat.2) ws) := by
  rw [deliver, if_neg (Nat.not_lt.mpr h), windowsFull_of_free hw]
  rfl

/-- The operands of a floating vector operation: the destination, which a fused operation reads too, and its sources. -/
def jetOperands (op : VecOp) (d a b : Reg) : List Opd :=
  (if op.accumulates then Opd.vacc d else Opd.vdst d) :: Opd.vsrc a :: if op.twoSources then [Opd.vsrc b] else []

/-- What a floating vector operation answers for the group whose first element stands at a position of its operands x, y and z:
nothing where a coefficient traps (02 R57), else the series of the operation with the flags of each coefficient (06 R149, R152). -/
def jetGroup (s : State) (op : VecOp) (c jo x y z base : Nat) : Option (List Nat × List FFlags) :=
  let coefs (v : Nat) : List Nat := (List.range (jo + 1)).map fun k => elemAt (fmtWidth c) v (base + k)
  match groupOperand c (swSUB s.rdSw) (coefs x),
      (if op.twoSources then groupOperand c (swSUB s.rdSw) (coefs y) else some ([], [])),
      (if op.accumulates then groupOperand c (swSUB s.rdSw) (coefs z) else some ([], [])) with
  | some (xs, fx), some (ys, fy), some (zs, fz) =>
    let series := Series.group op c jo (fun k => s.rnd (base + k)) xs ys zs
    some (series.1, joinFlags (joinFlags fx fy) (joinFlags fz series.2))
  | _, _, _ => none

theorem jetGroup_of_operands {s : State} {op : VecOp} {c jo x y z g : Nat} {xs ys zs : List Val} {fx fy fz : List FFlags}
    (hx : groupOperand c (swSUB s.rdSw) (groupCoefs c jo x g) = some (xs, fx))
    (hy : (if op.twoSources then groupOperand c (swSUB s.rdSw) (groupCoefs c jo y g) else some ([], [])) = some (ys, fy))
    (hz : (if op.accumulates then groupOperand c (swSUB s.rdSw) (groupCoefs c jo z g) else some ([], [])) = some (zs, fz)) :
    let series := Series.group op c jo (fun k => s.rnd (g * groupSize jo + k)) xs ys zs
    jetGroup s op c jo x y z (g * groupSize jo) = some (series.1, joinFlags (joinFlags fx fy) (joinFlags fz series.2)) := by
  rw [groupCoefs] at hx hy hz
  simp only [jetGroup, hx, hy, hz]

/-- An operand that the operation reads is that of its group; one that it does not read is empty. -/
theorem optionalOperand {c v : Nat} {sub read : Bool} {jo g : Nat} {vs : List Val} {fs : List FFlags}
    (hread : read = true → groupOperand c sub (groupCoefs c jo v g) = some (vs, fs)) (hunread : read = false → vs = [] ∧ fs = []) :
    (if read then groupOperand c sub (groupCoefs c jo (if read then v else 0) g) else some ([], [])) = some (vs, fs) := by
  cases read with
  | true => exact hread rfl
  | false =>
    obtain ⟨rfl, rfl⟩ := hunread rfl
    rfl

/-- 06 R147 to R149. A floating vector head that issues on spans that fit, and none of whose enabled groups traps, delivers what its
groups yield: the elements, the flags of all coefficients to `sw`, and those of each coefficient to `jf`. -/
theorem floatVec_of_issues {s t u : State} {op : VecOp} {fmt : BitVec 3} {d a b : Reg} {x y : Nat} {o : GroupsOut} (hf : fmt.toNat ≤ 2)
    {r : Nat} (hr : spanOf (fmt3 fmt) (swJO s.rdSw) = r)
    (hi : s.Issues (((jetOperands op d a b).map fun o => o.jet r) ++ if op.rounds then drawOpd s.rdSw else []))
    (hfits : ∀ o ∈ jetOperands op d a b, spanFits o.r r = true) (hx : s.readSpan a r = (x, u))
    (hy : (if op.twoSources then u.readSpan b r else (0, u)) = (y, t))
    (ho : overGroups (fmt3 fmt) (swJO s.rdSw) (swVM s.rdSw)
      (jetGroup s op (fmt3 fmt) (swJO s.rdSw) x y (if op.accumulates then (s.readSpan d r).1 else 0))
      (List.range (groupsOf (fmt3 fmt) (swJO s.rdSw))) = some o) (la : BitVec 4) :
    s.floatVec op fmt d a b la = s.deliver t (swJO s.rdSw) la op.latency
      (vecWrites d r o.value o.mask ++ [.swOr (swFlags o.flags), .jfOr o.jf]) := by
  subst hr
  rw [jetOperands] at hi hfits
  have hcode : decide (fmt3 fmt ≤ 10) = true := decide_eq_true (by unfold fmt3; omega)
  rw [floatVec]
  simp only [hcode, Bool.true_or, if_true]
  rw [issueHead_of_issues hi _ (by simp [Accepts]) (by simp) (List.all_eq_true.mpr hfits)]
  simp only [hx, hy]
  split
  next hnone => exact absurd (hnone.symm.trans ho) nofun
  next o' hsome =>
    obtain rfl := Option.some.inj (hsome.symm.trans ho)
    rfl

/-- The heads of the floating vector operations, without and with a lookahead. -/
noncomputable def jetHeads (fmt : BitVec 3) (d a b : Reg) (la : BitVec 4) : List (VecOp × Instr × Instr) :=
  [(.add, .vadd fmt d a b, .vaddL fmt d a b la), (.sub, .vsub fmt d a b, .vsubL fmt d a b la),
    (.mul, .vmul fmt d a b, .vmulL fmt d a b la), (.div, .vdiv fmt d a b, .vdivL fmt d a b la),
    (.min, .vmin fmt d a b, .vminL fmt d a b la), (.max, .vmax fmt d a b, .vmaxL fmt d a b la),
    (.pow, .vpow fmt d a b, .vpowL fmt d a b la), (.fma, .vfma fmt d a b, .vfmaL fmt d a b la),
    (.fms, .vfms fmt d a b, .vfmsL fmt d a b la), (.sqrt, .vsqrt fmt d a, .vsqrtL fmt d a la),
    (.rsq, .vrsq fmt d a, .vrsqL fmt d a la), (.exp, .vexp fmt d a, .vexpL fmt d a la),
    (.log, .vlog fmt d a, .vlogL fmt d a la), (.sin, .vsin fmt d a, .vsinL fmt d a la),
    (.cos, .vcos fmt d a, .vcosL fmt d a la), (.tanh, .vtanh fmt d a, .vtanhL fmt d a la),
    (.abs, .vabs fmt d a, .vabsL fmt d a la), (.neg, .vneg fmt d a, .vnegL fmt d a la)]

/-- The heads of one source leave the field of the second one unread. -/
theorem floatVec_second_unread {op : VecOp} (h : op.twoSources = false) (s : State) (fmt : BitVec 3) (d a b : Reg) (la : BitVec 4) :
    s.floatVec op fmt d a 0 la = s.floatVec op fmt d a b la := by
  simp only [floatVec, h, Bool.false_eq_true, if_false]

/-- Every head means its operation, a head without a lookahead one of 0. -/
theorem exec_jetHeads (s : State) (fmt : BitVec 3) (d a b : Reg) (la : BitVec 4) : ∀ h ∈ jetHeads fmt d a b la,
    exec h.2.1 s = s.floatVec h.1 fmt d a b 0 ∧ exec h.2.2 s = s.floatVec h.1 fmt d a b la := by
  have unary {op : VecOp} (h : op.twoSources = false) {p q : Instr} (hp : exec p s = s.floatVec op fmt d a 0 0)
      (hq : exec q s = s.floatVec op fmt d a 0 la) :
      exec p s = s.floatVec op fmt d a b 0 ∧ exec q s = s.floatVec op fmt d a b la :=
    ⟨hp.trans (floatVec_second_unread h ..), hq.trans (floatVec_second_unread h ..)⟩
  simp only [jetHeads, List.forall_mem_cons]
  exact ⟨⟨rfl, rfl⟩, ⟨rfl, rfl⟩, ⟨rfl, rfl⟩, ⟨rfl, rfl⟩, ⟨rfl, rfl⟩, ⟨rfl, rfl⟩, ⟨rfl, rfl⟩, ⟨rfl, rfl⟩, ⟨rfl, rfl⟩,
    unary rfl rfl rfl, unary rfl rfl rfl, unary rfl rfl rfl, unary rfl rfl rfl, unary rfl rfl rfl,
    unary rfl rfl rfl, unary rfl rfl rfl, unary rfl rfl rfl, unary rfl rfl rfl, List.forall_mem_nil _⟩

/-- Settles O48: every head delivers what its enabled groups yield, and each of them takes its series because none of its operands
traps; the jet order decides whether the writes are made at once or at the end of a window. -/
theorem jetOperationResults : Obligations.JetOperationResults := by
  unfold Obligations.JetOperationResults
  intro s t u fmt d a b la x y op p q hf hhead c w jo r size on sub operands hi hfits hx hy hu z xs ys zs fx fy fz hops hys hzs
    series flags groups
  obtain ⟨hp, hq⟩ := exec_jetHeads s fmt d a b la (op, p, q) hhead
  have hread : (if op.twoSources then u.readSpan b r else (0, u)) = (if op.twoSources then y else 0, t) := by
    cases h : op.twoSources with
    | true => exact hy h
    | false => rw [hu h]; rfl
  have answers (g : Nat) (hg : g < groupsOf c jo) (hon : on (g * size) = true) :
      jetGroup s op c jo x (if op.twoSources then y else 0) (if op.accumulates then z else 0) (g * size)
        = some ((series g).1, flags g) := by
    obtain ⟨hxs, hread_b, hread_d⟩ := hops g hg hon
    exact jetGroup_of_operands hxs (optionalOperand hread_b fun h => hys h g) (optionalOperand hread_d fun h => hzs h g)
  obtain ⟨o, ho, hlanes, hflags, hjf⟩ := overGroups_range_of_enabled (groupsOf c jo) answers
  have delivers := floatVec_of_issues hf rfl hi hfits hx hread ho
  rw [hflags, hjf] at delivers
  refine ⟨o.value, o.mask, hlanes, fun hjo => ⟨?_, ?_⟩, fun hjo hw => ⟨?_, ?_⟩⟩
  · exact hp.trans ((delivers 0).trans (deliver_short s t hjo ..))
  · exact hq.trans ((delivers la).trans (deliver_short s t hjo ..))
  · exact hp.trans ((delivers 0).trans (deliver_long t hjo hw ..))
  · exact hq.trans ((delivers la).trans (deliver_long t hjo hw ..))

end Sys2Proof.Proofs
end

section
/-! SUPPORT. Proofs of the trap instructions: what each does once it issues, and which of its checks stands before its effect. -/

namespace Sys2Proof.Proofs

open Sys2Proof Sys2Proof.Machine Sys2Proof.Machine.State

/-- 03 R77. An encoding that its head's own fields make illegal is the first thing that the decode checks find. -/
theorem issueHead_of_illegal {extra : Bool} (h : extra = false) (s : State) (os : List Opd) (formats : List (BitVec 5 × Bool))
    (privileged : Bool) (k : State → Result) : s.issueHead os formats privileged k extra = s.raiseDecode cILLEGAL := by
  simp [issueHead, h]

/-! ## `TRAP` (07 R179) -/

theorem exec_trap_of_issues {s : State} {code : BitVec 9} (hi : s.Issues []) (hs : s.isSpeculative = false)
    (hlo : 0x1C0 ≤ code.toNat) (hhi : code.toNat ≤ 0x1DF) : exec (.trap code) s = s.raiseNext code := by
  rw [exec_trap, execTrap, issueHead_of_issues hi _ rfl (by simp) (by simp [hlo, hhi]), settledOr, hs]
  rfl

theorem exec_trap_of_outside {code : BitVec 9} (h : code.toNat < 0x1C0 ∨ 0x1DF < code.toNat) (s : State) :
    exec (.trap code) s = s.raiseDecode cILLEGAL := by
  have hcode : (decide (0x1C0 ≤ code.toNat) && decide (code.toNat ≤ 0x1DF)) = false := by
    rw [Bool.and_eq_false_iff, decide_eq_false_iff_not, decide_eq_false_iff_not]
    omega
  rw [exec_trap, execTrap, issueHead_of_illegal hcode]

/-! ## `SETH` (07 R180) -/

/-- The groups that have a vector, as `SETH` checks them. -/
theorem hasVector_eq : ∀ g : BitVec 4,
    (!(decide (11 ≤ g.toNat ∧ g.toNat ≤ 13) || g.toNat == 15)) = decide (g ∉ ([11, 12, 13, 15] : List (BitVec 4))) := by decide

/-- The groups whose vectors only a privileged strand writes, as `SETH` checks them. -/
theorem isGuarded_eq : ∀ g : BitVec 4,
    (g.toNat == 0 || g.toNat == 1 || g.toNat == 8 || g.toNat == 10) = decide (g ∈ ([0, 1, 8, 10] : List (BitVec 4))) := by decide

/-- 07 R176. The sixteen workspaces of a vector's handler region lie below the visible top and in one bank. -/
def regionFits (s : State) (x : Word) : Bool :=
  let hwp := bits x.toNat 53 32
  decide (hwp + 16384 ≤ s.rim.visibleTop) && hwp / 2 ^ 20 == (hwp + 16383) / 2 ^ 20

theorem regionFits_iff (s : State) (x : Word) : regionFits s x = true ↔ bits x.toNat 53 32 + 16384 ≤ s.rim.visibleTop ∧
    bits x.toNat 53 32 / 2 ^ 20 = (bits x.toNat 53 32 + 16383) / 2 ^ 20 := by
  simp only [regionFits, Bool.and_eq_true, decide_eq_true_eq, beq_iff_eq]

theorem exec_seth_of_no_vector {g : BitVec 4} (hg : g ∈ ([11, 12, 13, 15] : List (BitVec 4))) (s : State) (a : Reg) :
    exec (.seth a g) s = s.raiseDecode cILLEGAL := by
  rw [exec_seth, execSeth, issueHead_of_illegal ((hasVector_eq g).trans (decide_eq_false (not_not_intro hg)))]

theorem exec_seth_of_unprivileged {s : State} {a : Reg} {g : BitVec 4} (hg : g ∈ ([0, 1, 8, 10] : List (BitVec 4)))
    (hl : LegalOperands [.src a]) (hp : s.me.priv = false) : exec (.seth a g) s = s.raiseDecode cPRIVILEGE := by
  have hvector : g ∉ ([11, 12, 13, 15] : List (BitVec 4)) := by
    revert g
    decide
  simp only [exec_seth, execSeth, hasVector_eq, isGuarded_eq, hg, hvector, not_false_eq_true, decide_true]
  exact issueHead_of_unprivileged hl hp _

section
variable {s t : State} {a : Reg} {x : Word} {g : BitVec 4} (hg : g ∉ ([11, 12, 13, 15] : List (BitVec 4)))
  (hp : g ∈ ([0, 1, 8, 10] : List (BitVec 4)) → s.me.priv = true) (hi : s.Issues [.src a]) (hr : s.readW a = (x, t))
include hg hp hi hr

/-- A group that has a vector, and that the strand may write: the vector's mode and its region are checked in turn. -/
theorem exec_seth_of_issues : exec (.seth a g) s = s.privileged (x.getLsbD 62) fun _ =>
    if x.getLsbD 63 && !regionFits s x then s.raise cRANGE
    else .next { t with core := { t.core with thv := t.core.thv.set g.toFin (x &&& vectorMask) } } := by
  rw [exec_seth, execSeth, issueHead_of_issues hi _ rfl (by simpa only [isGuarded_eq, decide_eq_true_eq] using hp)
    ((hasVector_eq g).trans (decide_eq_true hg))]
  simp only [hr]
  rfl

theorem exec_seth_of_privileged_vector (hmode : x.getLsbD 62 = true) (hpriv : s.me.priv = false) :
    exec (.seth a g) s = s.raise cPRIVILEGE := by
  simp [exec_seth_of_issues hg hp hi hr, privileged, hmode, hpriv]

theorem exec_seth_of_region (hmode : x.getLsbD 62 = true → s.me.priv = true) :
    (x.getLsbD 63 = true → regionFits s x = false → exec (.seth a g) s = s.raise cRANGE) ∧
    ((x.getLsbD 63 = true → regionFits s x = true) → exec (.seth a g) s
      = .next { t with core := { t.core with thv := t.core.thv.set g.toFin (x &&& vectorMask) } }) := by
  have hpasses : (x.getLsbD 62 && !s.me.priv) = false := by
    cases hm : x.getLsbD 62 with
    | false => rfl
    | true => simp [hmode hm]
  rw [exec_seth_of_issues hg hp hi hr, privileged, hpasses, if_neg Bool.false_ne_true]
  refine ⟨fun hon hfits => by simp [hon, hfits], fun hfits => ?_⟩
  cases hon : x.getLsbD 63 with
  | false => rfl
  | true => simp [hfits hon]

end

/-! ## `CAUSE`, `SMODE` and `RETT` (07 R181 to R183) -/

section
variable {s t : State} {d a : Reg} {m : Bool} {x : Word}

theorem exec_cause_of_no_handler (hh : s.me.handler = none) (hi : s.Issues [.dst d, .src a]) :
    exec (.cause d a) s = s.raise cNOTHANDLER := by
  rw [exec_cause, execCause, issueHead_of_issues hi _ rfl (by simp) rfl]
  simp only [hh]

theorem exec_smodeServed_of_no_handler (hh : s.me.handler = none) (hi : s.Issues []) (hp : m = true → s.me.priv = true) :
    exec (.smodeServed m) s = s.raise cNOTHANDLER := by
  rw [exec_smodeServed, execSmodeServed, issueHead_of_issues hi _ rfl hp rfl, hh]
  rfl

theorem exec_smode_of_issues (hi : s.Issues []) (hp : m = true → s.me.priv = true) :
    exec (.smode m) s = .next (s.modMe fun y => { y with priv := m }) := by
  rw [exec_smode, execSmode, issueHead_of_issues hi _ rfl hp rfl]

theorem legalOperands_nil : LegalOperands [] := ⟨rfl, rfl⟩

theorem exec_smode_of_unprivileged (hp : s.me.priv = false) :
    exec (.smode true) s = s.raiseDecode cPRIVILEGE ∧ exec (.smodeServed true) s = s.raiseDecode cPRIVILEGE :=
  ⟨(exec_smode true s).trans (issueHead_of_unprivileged legalOperands_nil hp _),
    (exec_smodeServed true s).trans (issueHead_of_unprivileged legalOperands_nil hp _)⟩

section
variable {h : Handler} (hh : s.me.handler = some h)
include hh

theorem exec_cause_of_handler (hi : s.Issues [.dst d, .src a]) (hr : s.readW a = (x, t)) :
    exec (.cause d a) s = .next (t.writeW d (h.frame.getD (x.toNat % 8) 0)) := by
  rw [exec_cause, execCause, issueHead_of_issues hi _ rfl (by simp) rfl]
  simp only [hr, hh, bits_low, Nat.reduceAdd, Nat.reducePow]

theorem exec_smodeServed_of_handler (hi : s.Issues []) (hp : m = true → s.me.priv = true) :
    exec (.smodeServed m) s = .next (s.modMe fun y => { y with handler := some { h with resumePriv := m } }) := by
  have hslot : (s.slot s.issue.slot).handler = some h := hh
  rw [exec_smodeServed, execSmodeServed, issueHead_of_issues hi _ rfl hp rfl, hh]
  simp [modMe, modSlot, hslot]

variable (hi : s.Issues [.src a]) (hr : s.readW a = (x, t)) (hclear : s.rectClear s.me.strand s.standRect = true)
include hi hr hclear

/-- 07 R182. Once its accesses have performed, a handler resumes the strand that it served, or ends it. -/
theorem exec_rett_of_handler (sig : Byte) (hx : x.toNat ≤ 1) :
    exec (.rett sig a) s = if x = 0 then s.rettResume t h else s.rettEnd t h := by
  rw [exec_rett, execRett, issueHead_of_issues hi _ rfl (by simp) rfl]
  simp only [hr, hh, if_neg (Nat.not_lt.mpr hx), afterStand, hclear, if_true]

theorem exec_rett_resumes (sig : Byte) (hx : x = 0)
    (hsw : bits (natAt s.rdMem (s.key (s.me.wp.toNat + 800)) 8) 23 21 ≤ 4) (hflush : s.flushWaits s.issue.slot = false) :
    exec (.rett sig a) s = .next ((t.resume h).endStrand s.issue.slot) := by
  have hlegal : swIllegal (w64 (natAt s.rdMem (s.key (s.me.wp.toNat + 800)) 8)) = false := by
    rw [swIllegal, decide_eq_false_iff_not, Nat.not_lt]
    simp only [bits, w64, BitVec.toNat_ofNat] at hsw ⊢
    omega
  rw [exec_rett_of_handler hh hi hr hclear sig (by simp [hx]), if_pos hx, rettResume, hlegal, hflush]
  rfl

theorem exec_rett_ends (sig : Byte) (hx : x = 1) (htask : (s.slot h.served).task = none)
    (hroom : s.flushNeed s.issue.slot + s.flushNeed h.served ≤ s.holdFree) :
    exec (.rett sig a) s = .next ((t.endStrand h.served).endStrand s.issue.slot) := by
  rw [exec_rett_of_handler hh hi hr hclear sig (by simp [hx]), if_neg (by simp [hx])]
  simp [rettEnd, speculative, htask, Nat.not_lt.mpr hroom]

end

end

/-- Settles O11: each of the five heads comes to its own effect because it issues, or meets the first check that it fails. -/
theorem trapInstructionResults : Obligations.TrapInstructionResults := by
  unfold Obligations.TrapInstructionResults
  intro s t d a sig m x
  have mayUse (h : m = false ∨ s.me.priv = true) : m = true → s.me.priv = true := fun hm => h.resolve_left (by simp [hm])
  refine ⟨fun code => ⟨fun hi hs hlo hhi => exec_trap_of_issues hi hs hlo hhi, fun h => exec_trap_of_outside h s⟩, fun g => ?_,
    fun hh => ⟨exec_cause_of_no_handler hh, fun hi hm => exec_smodeServed_of_no_handler hh hi (mayUse hm)⟩, fun h hh => ?_,
    fun hi hm => exec_smode_of_issues hi (mayUse hm), exec_smode_of_unprivileged⟩
  · refine ⟨fun hg => exec_seth_of_no_vector hg s a, exec_seth_of_unprivileged, fun hg hfree hi hr => ?_, fun hg hi hr hp => ?_⟩
    · exact exec_seth_of_privileged_vector hg (fun hguard => absurd hguard hfree) hi hr
    · obtain ⟨hoff, hwrites⟩ := exec_seth_of_region hg (fun hguard => hp (.inl hguard)) hi hr fun hmode => hp (.inr hmode)
      rw [← regionFits_iff]
      exact ⟨fun hon hfits => hoff hon (Bool.eq_false_iff.mpr hfits), hwrites⟩
  · refine ⟨exec_cause_of_handler hh, fun hi hm => exec_smodeServed_of_handler hh hi (mayUse hm), fun hi hr hclear => ⟨?_, ?_⟩⟩
    · exact exec_rett_resumes hh hi hr hclear sig
    · exact exec_rett_ends hh hi hr hclear sig

end Sys2Proof.Proofs
end

section
/-! SUPPORT. Taking a trap: where the slot stops, which of three ways the request goes, and the frame that a handler finds in its
workspace. -/

namespace Sys2Proof.Proofs

open Sys2Proof Sys2Proof.Machine Sys2Proof.Machine.State

/-! ## The request of a trap (07 R175, R177) -/

/-- 07 R177. The code of a cause stands in the lowest nine bits of the first word of its frame. -/
theorem code_frameWords (x : Slot) (i : Fin 16) (c : Cause) (h : HeadInfo) (rpc npc : BitVec 22) (fold : Byte) :
    ((frameWords x i c h rpc npc fold).getD 0 0).toNat % 512 = c.code.toNat := by
  have hc := c.code.isLt
  simp only [frameWords, List.getD_cons_zero, w64, BitVec.toNat_ofNat]
  omega

/-- A frame with another code (07 R175). -/
def recoded (frame : List Word) (code : Word) : List Word := frame.set 0 ((frame.getD 0 0 &&& ~~~0x1FF) ||| code)

theorem code_recoded {frame : List Word} (hf : frame ≠ []) {code : Word} (hc : code.toNat < 512) :
    ((recoded frame code).getD 0 0).toNat % 512 = code.toNat := by
  obtain ⟨w, ws, rfl⟩ := List.exists_cons_of_ne_nil hf
  have hmask : (~~~0x1FF : Word).toNat % 2 ^ 9 = 0 := rfl
  rw [recoded, List.set_cons_zero, List.getD_cons_zero, List.getD_cons_zero, show 512 = 2 ^ 9 from rfl, BitVec.toNat_or,
    Nat.or_mod_two_pow, BitVec.toNat_and, Nat.and_mod_two_pow, hmask, Nat.and_zero, Nat.zero_or, Nat.mod_eq_of_lt hc]

/-- The request that a trap makes of the slot's state, before its code is made DOUBLE_TRAP (07 R173 to R175). -/
def trapRequest (s : State) (i : Fin 16) (c : Cause) (h : HeadInfo) (rpc npc : BitVec 22) (fold : Byte) : TrapReq :=
  ⟨i, s.tile.cycle, s.core.thv[c.code.toNat / 32 % 16], frameWords (s.slot i) i c h rpc npc fold,
    if c.code == cFORMAT then some (s.sources i) else none⟩

/-- The same with the code DOUBLE_TRAP, which a trap of a handler takes (07 R175). -/
def doubled (q : TrapReq) : TrapReq := { q with frame := recoded q.frame 0x1E0 }

section
variable {s : State} {i : Fin 16} (c : Cause) (h : HeadInfo) (rpc npc : BitVec 22) (fold : Byte) (hemu : (s.slot i).emulate = none)
include hemu

theorem takeTrap_of_handler (hh : (s.slot i).handler.isSome = true) :
    s.takeTrap i c h rpc npc fold = (s.stopSlot i c rpc fold).toSupervisor (doubled (trapRequest s i c h rpc npc fold)) := by
  simp only [takeTrap, hemu, hh, Option.isSome_none, Bool.false_eq_true, if_false, if_true]
  rfl

variable (hh : (s.slot i).handler = none)
include hh

theorem takeTrap_of_vector_off (hv : (s.core.thv[c.code.toNat / 32 % 16]).getLsbD 63 = false) :
    s.takeTrap i c h rpc npc fold = (s.stopSlot i c rpc fold).toSupervisor (trapRequest s i c h rpc npc fold) := by
  simp only [takeTrap, hemu, hh, hv, Option.isSome_none, Bool.false_eq_true, if_false, Bool.not_false, if_true]
  rfl

theorem takeTrap_of_vector_on (hv : (s.core.thv[c.code.toNat / 32 % 16]).getLsbD 63 = true) :
    s.takeTrap i c h rpc npc fold = (s.stopSlot i c rpc fold).giveFrame (trapRequest s i c h rpc npc fold) := by
  simp only [takeTrap, hemu, hh, hv, Option.isSome_none, Bool.false_eq_true, if_false, Bool.not_true]
  rfl

end

/-! ## The slot that stops (07 R173) -/

/-- A slot as a trap stops it. -/
def trappedSlot (now : Nat) (rpc : BitVec 22) (fold : Byte) (x : Slot) : Slot := { x with
  st := .trapped, pc := rpc, fold := fold, wait := none, waitFrom := some (x.waitFrom.getD now), before := .ready }

/-- A POISON trap counts in its stand; nothing else of the rim changes, and of the core only the slot. -/
theorem stopSlot_eq (s : State) (i : Fin 16) (c : Cause) (rpc : BitVec 22) (fold : Byte) :
    ∃ r, s.stopSlot i c rpc fold = { s.modSlot i (trappedSlot s.tile.cycle rpc fold) with rim := r } := by
  unfold stopSlot
  extract_lets t
  split
  · unfold usedPoison
    extract_lets n
    split <;> exact ⟨_, rfl⟩
  · exact ⟨s.rim, rfl⟩

/-- 07 R175, R184. A request for the rim controller stops the slot and changes no memory. -/
theorem toSupervisor_stopSlot (s : State) (i : Fin 16) (c : Cause) (rpc : BitVec 22) (fold : Byte) (q : TrapReq) :
    let t := (s.stopSlot i c rpc fold).toSupervisor q
    t.mem = s.mem ∧ (t.slot i).st = .trapped ∧ t.core.handlerQ = s.core.handlerQ ∧ t.core.superQ = s.core.superQ ++ [q] := by
  obtain ⟨r, hr⟩ := stopSlot_eq s i c rpc fold
  have hstops : ((s.modSlot i (trappedSlot s.tile.cycle rpc fold)).slot i).st = .trapped := by rw [slot_modSlot_self]; rfl
  rw [hr]
  exact ⟨rfl, hstops, rfl, rfl⟩

/-! ## The frame in the handler workspace (07 R174, R177) -/

theorem putBytes_append (m : List Host.Cell) (k : Nat) (bs cs : List Byte) :
    putBytes m k (bs ++ cs) = putBytes (putBytes m k bs) (k + bs.length) cs := by
  induction bs generalizing m k with
  | nil => rfl
  | cons b bs ih => rw [List.cons_append, putBytes, ih, putBytes, List.length_cons, Nat.add_assoc, Nat.add_comm 1]

/-- The bytes of some words, each eight of them. -/
def wordBytes (ws : List Word) : List Byte := (ws.map fun w => leBytes 8 w.toNat).flatten

theorem wordBytes_cons (w : Word) (ws : List Word) : wordBytes (w :: ws) = leBytes 8 w.toNat ++ wordBytes ws := rfl

theorem length_wordBytes (ws : List Word) : (wordBytes ws).length = 8 * ws.length := by
  induction ws with
  | nil => rfl
  | cons w ws ih => rw [wordBytes_cons, List.length_append, leBytes_length, ih, List.length_cons]; omega

/-- Words that have been written are read one by one. -/
theorem natAt_wordBytes (ws : List Word) {m : List Host.Cell} (hm : Memory.wf m = true) (k : Nat) {n : Nat} (hn : n < ws.length) :
    natAt (putBytes m k (wordBytes ws)) (k + 8 * n) 8 = (ws.getD n 0).toNat := by
  induction ws generalizing m k n with
  | nil => exact absurd hn (Nat.not_lt_zero n)
  | cons w ws ih =>
    rw [wordBytes_cons, putBytes_append, leBytes_length]
    have hm' := wf_putBytes (leBytes 8 w.toNat) k hm
    cases n with
    | zero =>
      rw [natAt_putBytes_of_outside _ (.inl (by omega)) hm', Nat.mul_zero, Nat.add_zero, natAt_putBytes_self 8 _ k hm]
      exact Nat.mod_eq_of_lt w.isLt
    | succ n =>
      rw [show k + 8 * (n + 1) = k + 8 + 8 * n by omega, ih hm' (k + 8) (Nat.lt_of_succ_lt_succ hn), List.getD_cons_succ]

/-- With no speculative task, a write changes its bytes, what tracks their lines, and the poison of the lines that it sets whole. -/
theorem write_of_settled {s : State} (hs : s.Settled) (w : Option (Fin 16)) (k : Nat) (data : List Byte) :
    ∃ n p, s.write w k data = { s with mem := putBytes s.mem k data, tile := { s.tile with notch := n }, poison := p } := by
  have htouch (ls : List Nat) := foldl_touch_eq (w := w) ls (s := s) fun _ _ i t _ ht => by simp [hs i] at ht
  unfold write
  extract_lets first last lines t p
  obtain ⟨n, hn⟩ := htouch lines
  exact ⟨n, p, by unfold t; rw [hn]⟩

/-- A trap whose frame goes to its handler, before the handler is called: the slot has stopped, the frame stands in its workspace, and
besides only what tracks lines, their poison and the count of POISON traps have changed. -/
def framed (s : State) (i : Fin 16) (x : Slot) (q : TrapReq) (r : Rim) (n : Notch) (p : SMap Unit) : State :=
  { (s.setSlot i x).claim (frameBase q) 64 with
    rim := r, mem := putBytes s.mem (s.key (frameBase q)) (wordBytes q.frame), tile := { s.tile with notch := n }, poison := p }

theorem settled_modSlot {s : State} (hs : s.Settled) {i : Fin 16} {f : Slot → Slot} (hf : ∀ x, (f x).task = x.task) :
    (s.modSlot i f).Settled := fun j => by
  have htask : ((s.modSlot i f).slot j).task = (s.slot j).task := by
    by_cases h : i = j
    · rw [← h, slot_modSlot_self, hf]
    · rw [slot_modSlot_of_ne _ h]
  have := hs j
  unfold speculative at this ⊢
  rwa [htask]

theorem giveFrame_stopSlot {s : State} (hs : s.Settled) (i : Fin 16) (c : Cause) (rpc : BitVec 22) (fold : Byte) (q : TrapReq) :
    ∃ r n p, (s.stopSlot i c rpc fold).giveFrame q
      = (framed s i (trappedSlot s.tile.cycle rpc fold (s.slot i)) q r n p).callHandler q := by
  obtain ⟨r, hr⟩ := stopSlot_eq s i c rpc fold
  have hset : ({ s.modSlot i (trappedSlot s.tile.cycle rpc fold) with rim := r } : State).Settled :=
    settled_modSlot (s := s) hs fun _ => rfl
  rw [hr, giveFrame]
  obtain ⟨n, p, hw⟩ := write_of_settled hset none
    (({ s.modSlot i (trappedSlot s.tile.cycle rpc fold) with rim := r } : State).key (frameBase q)) (wordBytes q.frame)
  rw [wordBytes] at hw
  rw [hw]
  exact ⟨r, n, p, rfl⟩

/-! ## Calling the handler (07 R174, R175) -/

theorem st_of_emptySlot {s : State} {e : Fin 16} (he : s.emptySlot = some e) : (s.slot e).st = .empty := by
  have := List.find?_some he
  simp only [fillable, Bool.and_eq_true, beq_iff_eq] at this
  exact this.1

/-- A handler starts in the lowest fillable slot, or the request is the last of those that wait. -/
theorem callHandler_cases (s : State) (q : TrapReq) :
    (∃ e, s.emptySlot = some e ∧ s.callHandler q = s.startHandler e q) ∨
    s.callHandler q = ({ s with core := { s.core with handlerQ := s.core.handlerQ ++ [q] } } : State).after 65536
      (.handlerStarved q.slot) := by
  unfold callHandler
  split
  · next e he =>
    split at he
    · exact .inl ⟨e, he, rfl⟩
    · cases he
  · exact .inr rfl

theorem callHandler_of_emptySlot {s : State} {e : Fin 16} (he : s.emptySlot = some e) (hq : s.core.handlerQ = [])
    (hfill : s.core.filledAt ≠ some s.tile.cycle) (q : TrapReq) : s.callHandler q = s.startHandler e q := by
  simp [callHandler, he, hq, hfill]

theorem handlerQ_callHandler_of_full {s : State} (he : s.emptySlot = none) (q : TrapReq) :
    (s.callHandler q).core.handlerQ = s.core.handlerQ ++ [q] := by
  obtain ⟨e, he', -⟩ | h := callHandler_cases s q
  · rw [he] at he'; cases he'
  · rw [h]; rfl

theorem mem_callHandler (s : State) (q : TrapReq) : (s.callHandler q).mem = s.mem := by
  obtain ⟨e, -, h⟩ | h := callHandler_cases s q <;> rw [h] <;> rfl

/-- The call of a handler fills an EMPTY slot, if any, and leaves every other as it is. -/
theorem slot_callHandler_of_ne_empty {s : State} {i : Fin 16} (hi : (s.slot i).st ≠ .empty) (q : TrapReq) :
    (s.callHandler q).slot i = s.slot i := by
  obtain ⟨e, he, h⟩ | h := callHandler_cases s q
  · have hne : e ≠ i := fun heq => hi (heq ▸ st_of_emptySlot he)
    rw [h, startHandler, slot_setSlot_of_ne _ hne]
    rfl
  · rw [h]
    rfl

/-- 07 R174. The strand of a handler as it begins. -/
theorem slot_startHandler (s : State) (e : Fin 16) (q : TrapReq) :
    let y := (s.startHandler e q).slot e
    y.st = .sleep ∧ y.wait = some (.cycle (s.tile.cycle + 1)) ∧ y.pc = .ofNat 22 (bits q.vector.toNat 21 0) ∧
      y.priv = q.vector.getLsbD 62 ∧ y.sw = 0xFF00 ∧ y.fold = 0x5A ∧
      y.wp = .ofNat 22 (bits q.vector.toNat 53 32 + 1024 * q.slot.val) := by
  rw [startHandler, slot_setSlot_self]
  exact ⟨rfl, rfl, rfl, rfl, rfl, rfl, rfl⟩

section
variable (s : State) (i : Fin 16) (x : Slot) (q : TrapReq) (r : Rim) (n : Notch) (p : SMap Unit)

@[simp] theorem tile_cycle_framed : (framed s i x q r n p).tile.cycle = s.tile.cycle := rfl
@[simp] theorem handlerQ_framed : (framed s i x q r n p).core.handlerQ = s.core.handlerQ := rfl
@[simp] theorem filledAt_framed : (framed s i x q r n p).core.filledAt = s.core.filledAt := rfl

theorem slot_framed (j : Fin 16) : (framed s i x q r n p).slot j = (s.setSlot i x).slot j := rfl

theorem slot_framed_self : (framed s i x q r n p).slot i = x := slot_setSlot_self ..

/-- A slot that stops was not EMPTY and is not, so that the slots that may be filled are the same. -/
theorem emptySlot_framed (hs : (s.slot i).st ≠ .empty) (hx : x.st ≠ .empty) : (framed s i x q r n p).emptySlot = s.emptySlot := by
  have hfill : (framed s i x q r n p).fillable = s.fillable := by
    funext j
    have hst : (((framed s i x q r n p).slot j).st == .empty) = ((s.slot j).st == .empty) := by
      rw [slot_framed]
      by_cases h : i = j
      · rw [← h, slot_setSlot_self, beq_false_of_ne hx, beq_false_of_ne hs]
      · rw [slot_setSlot_of_ne _ h]
    unfold fillable
    rw [hst]
    rfl
  rw [emptySlot, emptySlot, hfill]

variable {s} (hm : s.MemoryCanonical)
include hm

/-- The words of the frame stand one after the other. -/
theorem natAt_framed {k : Nat} (hk : k < q.frame.length) :
    natAt (framed s i x q r n p).mem (s.key (frameBase q + 8 * k)) 8 = (q.frame.getD k 0).toNat := by
  rw [key, ← Nat.add_assoc]
  exact natAt_wordBytes q.frame hm _ hk

theorem getD_framed_of_outside (hlen : q.frame.length = 8) {k : Nat} (hk : k < s.key (frameBase q) ∨ s.key (frameBase q) + 64 ≤ k) :
    SMap.getD (framed s i x q r n p).mem k 0 = SMap.getD s.mem k 0 :=
  getD_putBytes_of_outside _ (by rwa [length_wordBytes, hlen]) hm

end

section
variable (x : Slot) (i : Fin 16) (c : Cause) (h : HeadInfo) (rpc npc : BitVec 22) (fold : Byte)

/-- 07 R177. DETAIL, the mode, the place in the pair and the code fill the first word of the frame. -/
theorem frameWords_cause : ((frameWords x i c h rpc npc fold).getD 0 0).toNat
    = c.detail.toNat * 2 ^ 32 + x.priv.toNat * 2 ^ 18 + h.second.toNat * 2 ^ 17 + h.pair.toNat * 2 ^ 16 + c.code.toNat := by
  have hdetail := c.detail.isLt
  have hcode := c.code.isLt
  have hpriv := x.priv.toNat_le
  have hsecond := h.second.toNat_le
  have hpair := h.pair.toNat_le
  simp only [frameWords, List.getD_cons_zero, w64, BitVec.toNat_ofNat]
  omega

/-- 07 R177. The head, the fold, the open windows and live loops, the slot and WP fill the seventh word of the frame. -/
theorem frameWords_head (hw : x.windows.length < 8) (hl : x.loops.length < 8) : ((frameWords x i c h rpc npc fold).getD 6 0).toNat
    = h.head.toNat * 2 ^ 48 + fold.toNat * 2 ^ 40 + x.windows.length * 2 ^ 37 + x.loops.length * 2 ^ 34 + i.val * 2 ^ 22
      + x.wp.toNat := by
  have hhead := h.head.isLt
  have hfold := fold.isLt
  have hslot := i.isLt
  have hwp := x.wp.isLt
  simp only [frameWords, List.getD_cons_succ, List.getD_cons_zero, w64, BitVec.toNat_ofNat]
  omega

/-- 07 R177. FPC, RPC and NPC are code addresses of 22 bits, each in a word of its own. -/
theorem frameWords_addresses : ((frameWords x i c h rpc npc fold).getD 1 0).toNat = h.fpc.toNat ∧
    ((frameWords x i c h rpc npc fold).getD 2 0).toNat = rpc.toNat ∧
    ((frameWords x i c h rpc npc fold).getD 3 0).toNat = npc.toNat := by
  have widened (a : BitVec 22) : (a.setWidth 64).toNat = a.toNat := BitVec.toNat_setWidth_of_le (by decide)
  exact ⟨widened _, widened _, widened _⟩

end

/-- Settles O12: the slot stops, its frame is written and read back word by word, and the handler is called where the slot that
has stopped is not among those that may be filled. -/
theorem trapEntry : Obligations.TrapEntry := by
  unfold Obligations.TrapEntry
  intro s i c h rpc npc fold hs hm hemu hh hne v hv t x base word
  let q := trapRequest s i c h rpc npc fold
  obtain ⟨r, n, p, hgive⟩ := giveFrame_stopSlot hs i c rpc fold q
  let u := framed s i (trappedSlot s.tile.cycle rpc fold x) q r n p
  have ht : t = u.callHandler q := (takeTrap_of_vector_on c h rpc npc fold hemu hh hv).trans hgive
  have hstopped : u.slot i = trappedSlot s.tile.cycle rpc fold x := slot_framed_self ..
  have hslot : t.slot i = trappedSlot s.tile.cycle rpc fold x := by
    rw [ht, slot_callHandler_of_ne_empty (by rw [hstopped]; exact SlotState.noConfusion), hstopped]
  have hmem : t.mem = u.mem := by rw [ht, mem_callHandler]
  have hword (k : Nat) (hk : k < 8) : word k = (q.frame.getD k 0).toNat := by
    unfold word
    rw [hmem]
    exact natAt_framed i _ q r n p hm hk
  have hempty : u.emptySlot = s.emptySlot := emptySlot_framed s i _ q r n p hne SlotState.noConfusion
  obtain ⟨hfpc, hrpc, hnpc⟩ := frameWords_addresses x i c h rpc npc fold
  rw [hslot]
  refine ⟨rfl, rfl, rfl, rfl, rfl, rfl, rfl, ?_, ?_, ?_, ?_, ?_, ?_, fun hw hl => ?_, ?_, fun k hk => ?_, fun e he hnone hfill => ?_,
    fun hfull => ?_⟩
  · exact (hword 0 (by decide)).trans (frameWords_cause ..)
  · exact (hword 1 (by decide)).trans hfpc
  · exact (hword 2 (by decide)).trans hrpc
  · exact (hword 3 (by decide)).trans hnpc
  · exact hword 4 (by decide)
  · exact hword 5 (by decide)
  · exact (hword 6 (by decide)).trans (frameWords_head x i c h rpc npc fold hw hl)
  · exact hword 7 (by decide)
  · rw [hmem]
    exact getD_framed_of_outside i _ q r n p hm rfl hk
  · rw [ht, callHandler_of_emptySlot (hempty.trans he) hnone hfill]
    obtain ⟨hst, hwait, hpc, hpriv, hsw, hfold, hwp⟩ := slot_startHandler u e q
    exact ⟨hst, hwait, hpc, hpriv, hsw, hfold, hwp, hnone⟩
  · rw [ht, handlerQ_callHandler_of_full (hempty.trans hfull), List.map_append]
    rfl

end Sys2Proof.Proofs
end

section
/-! SUPPORT. The supervisor route: the requests that a trap and a starved handler send to the rim controller, and what it does with
the only one that it holds. -/

namespace Sys2Proof.Proofs

open Sys2Proof Sys2Proof.Machine Sys2Proof.Machine.State

/-! ## Traps that take the route (07 R175) -/

/-- A trap of a handler, or of a group whose vector is off, makes a request of the rim controller; its code is DOUBLE_TRAP for
a handler and the trap's own otherwise. -/
theorem takeTrap_of_supervised {s : State} {i : Fin 16} (c : Cause) (h : HeadInfo) (rpc npc : BitVec 22) (fold : Byte)
    (hemu : (s.slot i).emulate = none)
    (hroute : (s.slot i).handler.isSome = true ∨ (s.core.thv[c.code.toNat / 32 % 16]).getLsbD 63 = false) :
    ∃ q, s.takeTrap i c h rpc npc fold = (s.stopSlot i c rpc fold).toSupervisor q ∧ q.slot = i ∧
      (q.frame.getD 0 0).toNat % 512 = if (s.slot i).handler.isSome then 0x1E0 else c.code.toNat := by
  by_cases hh : (s.slot i).handler.isSome = true
  · refine ⟨_, takeTrap_of_handler c h rpc npc fold hemu hh, rfl, ?_⟩
    rw [if_pos hh]
    exact code_recoded (List.cons_ne_nil _ _) (by decide)
  · have hnone : (s.slot i).handler = none := by simpa using hh
    refine ⟨_, takeTrap_of_vector_off c h rpc npc fold hemu hnone (hroute.resolve_left hh), rfl, ?_⟩
    rw [if_neg hh]
    exact code_frameWords ..

/-! ## A starved handler (07 R175) -/

theorem exec_handlerStarved_of_single {s : State} {q : TrapReq} (hq : s.core.handlerQ = [q]) (hsince : q.since + 65536 ≤ s.tile.cycle) :
    exec (.handlerStarved q.slot) s = .next (({ s with core := { s.core with handlerQ := [] } } : State).toSupervisor
      { q with frame := recoded q.frame 0x1E1 }) := by
  simp [execHandlerStarved, hq, hsince, recoded]

/-! ## The rim controller (07 R184) -/

/-- Without notches no record of the log is written (16 R371, 19 R444). -/
theorem logged_of_no_notches {s : State} (h : s.ckp = 2) (kind core slot : Nat) (words : List Word) (ev : Instr) :
    s.logged kind core slot words ev = s := if_pos (.inl h)

/-- The rim controller has taken up its only request. -/
def routed (s : State) : State := { s with core := { s.core with superQ := [] } }

@[simp] theorem mem_routed (s : State) : (routed s).mem = s.mem := rfl

theorem ckp_routed {s : State} (h : s.ckp = 2) : (routed s).ckp = 2 := h

theorem find?_superQ_of_single {s : State} {q : TrapReq} (hq : s.core.superQ = [q]) :
    s.core.superQ.find? (fun p => p.slot == q.slot) = some q := by
  simp [hq]

theorem superQ_taken {s : State} {q : TrapReq} (hq : s.core.superQ = [q]) :
    ({ s with core := { s.core with superQ := s.core.superQ.filter fun p => p.slot != q.slot } } : State) = routed s := by
  simp [hq, routed]

section
variable {s : State} {q : TrapReq} (hq : s.core.superQ = [q]) (hckp : s.ckp = 2)
include hq hckp

/-- A head whose format is absent: the strand takes its bundle again, which the wafer then performs from the request's sources. -/
theorem supervisorRoute_performs (hcode : (q.frame.getD 0 0).toNat % 512 = 2) (hformat : (q.frame.getD 0 0).toNat / 2 ^ 32 < 16)
    (hemu : (s.slot q.slot).emulate = none) : ∃ t, exec (.supervisorRoute q.slot) s = .next t ∧
      (t.slot q.slot).st = .ready ∧ (t.slot q.slot).emulate = q.sources ∧ t.mem = s.mem := by
  have hbits : bits (q.frame.getD 0 0).toNat 63 32 < 16 := Nat.lt_of_le_of_lt (Nat.mod_le ..) hformat
  have hemu' : ((routed s).slot q.slot).emulate = none := hemu
  rw [exec_supervisorRoute, execSupervisorRoute, find?_superQ_of_single hq]
  simp only [superQ_taken hq, logged_of_no_notches (ckp_routed hckp), bits_low, Nat.reduceAdd, Nat.reducePow, hcode, hbits, hemu']
  refine ⟨_, rfl, ?_⟩
  simp

/-- A trap of a handler: the strand that it serves ends, and then its own, once both find hold entries (12 R299). -/
theorem supervisorRoute_of_double (hcode : (q.frame.getD 0 0).toNat % 512 = 0x1E0) {h : Handler}
    (hh : (s.slot q.slot).handler = some h) : exec (.supervisorRoute q.slot) s =
      if s.holdFree < s.flushNeed q.slot + s.flushNeed h.served then .next (s.after 8 (.supervisorRoute q.slot))
      else .next (((routed s).endStrand h.served).endStrand q.slot) := by
  have hh' : ((routed s).slot q.slot).handler = some h := hh
  rw [exec_supervisorRoute, execSupervisorRoute, find?_superQ_of_single hq]
  simp only [superQ_taken hq, logged_of_no_notches (ckp_routed hckp), bits_low, Nat.reduceAdd, Nat.reducePow, hcode, hh']
  rfl

theorem supervisorRoute_ends (hformat : (q.frame.getD 0 0).toNat % 512 ≠ 2) (hdouble : (q.frame.getD 0 0).toNat % 512 ≠ 0x1E0) :
    exec (.supervisorRoute q.slot) s = .next ((routed s).endLaunch q) := by
  rw [exec_supervisorRoute, execSupervisorRoute, find?_superQ_of_single hq]
  simp only [superQ_taken hq, logged_of_no_notches (ckp_routed hckp), bits_low, Nat.reduceAdd, Nat.reducePow]
  rw [if_neg fun h => hformat h.1]
  exact if_neg hdouble

end

/-- Settles O13: the route that a trap takes is that of its slot and vector, and what the rim controller does is decided by the code
of the request. -/
theorem supervisorRoute : Obligations.SupervisorRoute := by
  unfold Obligations.SupervisorRoute
  refine ⟨?_, fun s q hlen => ⟨fun hq hsince => ?_, fun hq hckp => ⟨?_, fun hcode h hh => ?_, ?_⟩⟩⟩
  · intro s i c h rpc npc fold hemu v t hroute
    obtain ⟨q, ht, hslot, hcode⟩ := takeTrap_of_supervised c h rpc npc fold hemu hroute
    obtain ⟨hmem, hst, hhandlers, hsuper⟩ := toSupervisor_stopSlot s i c rpc fold q
    unfold t
    rw [ht]
    exact ⟨hmem, hst, hhandlers, q, hsuper, hslot, hcode⟩
  · exact ⟨_, _, exec_handlerStarved_of_single hq hsince, rfl, rfl, rfl,
      code_recoded (List.ne_nil_of_length_eq_add_one hlen) (by decide)⟩
  · exact supervisorRoute_performs hq hckp
  · rw [supervisorRoute_of_double hq hckp hcode hh]
    exact ⟨fun hroom => if_neg (Nat.not_lt.mpr hroom), fun hfull => if_pos hfull⟩
  · exact supervisorRoute_ends hq hckp

end Sys2Proof.Proofs
end
